-- ==== Sys2Proof/Word.lean ====
section
/-! DEFINITION. The word types of the ZX-K64A and the sparse map type that State's registers and tables use (spec/00_scope.md R5 to R7). -/

namespace Sys2Proof

/-- One byte. -/
abbrev Byte := BitVec 8

/-- A 32-bit instruction word or register lane (R44, R60). -/
abbrev Word := BitVec 32

/-- A 64-bit generic address or register pair (R60, R81). -/
abbrev DWord := BitVec 64

/-- A sparse table from numbers to values: listed keys rise; an unlisted key holds the table's default. -/
abbrev Map (α : Type) := List (Nat × α)

end Sys2Proof
end

