-- ==== Sys2Proof/Machine/Bits.lean ====
section
/-! DEFINITION. Bit fields, sign extension, byte order and the sparse tables of the model (spec/00_scope.md R7, R12). -/

namespace Sys2Proof.Machine

open Sys2Proof

/-- `x[hi:lo]` as a number (R12). -/
def field (x hi lo : Nat) : Nat := (x >>> lo) % 2 ^ (hi + 1 - lo)

/-- Bit `i` of `x` (R7). -/
def bitOf (x i : Nat) : Bool := x.testBit i

/-- `trunc(x, n)` of an integer (R12). -/
def truncI (x : Int) (n : Nat) : Nat := (x % ((2 : Int) ^ n)).toNat

/-- `sext(x, n)`: the low `n` bits of `x` read as signed (R12). -/
def sextN (x n : Nat) : Int :=
  let y := x % 2 ^ n
  if y ≥ 2 ^ (n - 1) ∧ n ≠ 0 then (y : Int) - (2 : Int) ^ n else (y : Int)

/-- `clamp(x, lo, hi)` (R12). -/
def clampI (x lo hi : Int) : Int := if x < lo then lo else if x > hi then hi else x

/-- `x` with bits `[hi:lo]` replaced by `v`. -/
def setField (x hi lo v : Nat) : Nat :=
  let w := 2 ^ (hi + 1 - lo)
  x - (((x >>> lo) % w) <<< lo) + ((v % w) <<< lo)

/-- Number of ones among bits 0 to n-1 of x. -/
def popCount : Nat → Nat → Nat
  | 0, _ => 0
  | n + 1, x => x % 2 + popCount n (x / 2)

/-- The bytes of `x`, `n` of them, least significant first (R7). -/
def toBytes : Nat → Nat → List Byte
  | 0, _ => []
  | n + 1, x => BitVec.ofNat 8 x :: toBytes n (x / 256)

/-- The number whose little-endian bytes are given (R7). -/
def ofBytes : List Byte → Nat
  | [] => 0
  | b :: t => b.toNat + 256 * ofBytes t

/-- The value a table holds for key `k`, `d` when it lists none. (DEDUCED, log 11.) -/
def mget {α : Type} (d : α) : Map α → Nat → α
  | [], _ => d
  | (k', v) :: t, k => if k = k' then v else mget d t k

/-- The listed value for key `k`, if there is one. -/
def mfind {α : Type} : Map α → Nat → Option α
  | [], _ => none
  | (k', v) :: t, k => if k = k' then some v else mfind t k

/-- The table with key `k` holding `v`. -/
def mput {α : Type} : Map α → Nat → α → Map α
  | [], k, v => [(k, v)]
  | (k', v') :: t, k, v =>
    if k < k' then (k, v) :: (k', v') :: t
    else if k = k' then (k, v) :: t
    else (k', v') :: mput t k v

/-- The table without key `k`. -/
def mdel {α : Type} (m : Map α) (k : Nat) : Map α := m.filter (fun p => p.1 != k)

/-- The table with key `k`'s value changed by `f`. -/
def mupd {α : Type} (d : α) (m : Map α) (k : Nat) (f : α → α) : Map α := mput m k (f (mget d m k))

/-- The numbers `a` to `a + n - 1`, ascending. -/
def rangeFrom (a n : Nat) : List Nat := (List.range n).map (a + ·)

/-- A list without its repeats, last occurrences kept. -/
def dedupN : List Nat → List Nat
  | [] => []
  | x :: t => if t.contains x then dedupN t else x :: dedupN t

/-- Element `i` of a list, `d` beyond its end. -/
def nth {α : Type} (d : α) (l : List α) (i : Nat) : α := l.getD i d

/-- The list with element `i` replaced, unchanged when it has none. -/
def setNth {α : Type} (l : List α) (i : Nat) (v : α) : List α := l.set i v

/-- Insert a number into a rising list, once. -/
def insertN (x : Nat) : List Nat → List Nat
  | [] => [x]
  | y :: t => if x < y then x :: y :: t else if x = y then y :: t else y :: insertN x t

/-- A list of numbers in rising order without repeats. -/
def sortN (l : List Nat) : List Nat := l.foldr insertN []

end Sys2Proof.Machine
end

