-- ==== Sys2Proof/Syntax.lean ====
section
/-! DEFINITION. The syntax of the ZX-K64A: the fields of the four word formats (spec/02_encoding.md R46 to R49) and one constructor per row of spec/opcode_table.json. -/

namespace Sys2Proof

/-- The element types of `TY`, codes 0 to 15 in order (R53). -/
inductive Ty where
  | b32 | s8 | s16 | s32 | s64 | n8 | n16 | n32 | n64 | b64 | f32 | f16 | bf16 | e4m3 | e5m2 | q4
deriving DecidableEq, Repr

/-- A source operand field: its operand code (R57) with its last-use bit and its trap-if-empty bit (R59). -/
structure Src where
  code : BitVec 10
  last : Bool
  tie : Bool
deriving DecidableEq, Repr

/-- What word 0 gives every instruction beside its opcode and its length (R46). -/
structure Head where
  /-- `E`: last instruction of a run (R52). -/
  eor : Bool
  /-- `PG`: guard predicate (R51). -/
  pg : BitVec 4
  /-- `PN`: guard negate (R51). -/
  pn : Bool
  ty : Ty
  md : BitVec 6
deriving DecidableEq, Repr

/-- Format A64, or A96 when `ext` holds the literal word (R48 to R50). -/
structure FA where
  hd : Head
  d : BitVec 10
  a : Src
  b : Src
  ext : Option Word
deriving DecidableEq, Repr

/-- Format C96, or X128 when `ext` holds the literal word (R48 to R50). -/
structure FC where
  hd : Head
  d : BitVec 10
  a : Src
  b : Src
  c : Src
  xmod : BitVec 20
  ext : Option Word
deriving DecidableEq, Repr

/-- Format K96 (R48). -/
structure FK where
  hd : Head
  d : BitVec 10
  a : Src
  b : Src
  k : Word
deriving DecidableEq, Repr

/-- Format M128 (R48). -/
structure FM where
  hd : Head
  d : BitVec 10
  a : Src
  b : Src
  c : Src
  xmod : BitVec 7
  hint : BitVec 2
  ord : BitVec 2
  scope : BitVec 3
  tr : BitVec 6
  ofs : Word
deriving DecidableEq, Repr

/-- The special sources, codes 912 to 932 in order (R62). -/
inductive Special where
  | lane | wave | blockx | blocky | blockz | gridx | gridy | gridz | nwave | clurank | width | core | dieid | pkgid
  | slot | cyclelo | cyclehi | clocklo | clockhi | datalo | datahi
deriving DecidableEq, Repr

/-- What a 10-bit operand code names (R57): a vector, scalar or queue register, a special source, an integer or a float
constant, the literal selector, or a reserved code. -/
inductive Operand where
  | vec (n : Nat)
  | sca (n : Nat)
  | que (n : Nat)
  | spec (k : Special)
  | imm (i : Int)
  | flt (k : Nat)
  | lit
  | rsv
deriving DecidableEq, Repr

/-- The instructions and the steps of the engines: one constructor per row of spec/opcode_table.json.
The first 157 are encoded in instruction words (R67). The others are the steps of the engines and of the
outside: nothing encodes them, their operands name what they act on, and State.agenda orders them. -/
inductive Instr where
  /-- BRA (R187). -/
  | bra (x : FK)
  /-- CALL (R187). -/
  | call (x : FK)
  /-- TRAP (R187). -/
  | trap (x : FK)
  /-- BRX (R188). -/
  | brx (x : FA)
  /-- RET (R188). -/
  | ret (x : FA)
  /-- EXIT (R189). -/
  | exit (x : FA)
  /-- EXIT_CHAIN (R189). -/
  | exitChain (x : FA)
  /-- ERET (R190). -/
  | eret (x : FA)
  /-- BRKPT (R191). -/
  | brkpt (x : FA)
  /-- NOP (R191). -/
  | nop (x : FA)
  /-- YIELD (R191). -/
  | yield (x : FA)
  /-- SLEEP (R191). -/
  | sleep (x : FA)
  /-- CVG (R191). -/
  | cvg (x : FA)
  /-- STAGE (R192). -/
  | stage (x : FK)
  /-- RLS (R225). -/
  | rls (x : FA)
  /-- RDSR (R193). -/
  | rdsr (x : FA)
  /-- WRSR (R193). -/
  | wrsr (x : FA)
  /-- PAND (R194). -/
  | pand (x : FA)
  /-- POR (R194). -/
  | por (x : FA)
  /-- PXOR (R194). -/
  | pxor (x : FA)
  /-- PNOT (R194). -/
  | pnot (x : FA)
  /-- PMOV (R194). -/
  | pmov (x : FA)
  /-- PMOV_TO_SCALAR (R194). -/
  | pmovToScalar (x : FA)
  /-- PMOV_FROM_SCALAR (R194). -/
  | pmovFromScalar (x : FA)
  /-- SADD (R195). -/
  | sadd (x : FA)
  /-- SSUB (R195). -/
  | ssub (x : FA)
  /-- SMUL (R195). -/
  | smul (x : FA)
  /-- SMULH (R195). -/
  | smulh (x : FA)
  /-- SAND (R195). -/
  | sand (x : FA)
  /-- SOR (R195). -/
  | sor (x : FA)
  /-- SXOR (R195). -/
  | sxor (x : FA)
  /-- SSHL (R195). -/
  | sshl (x : FA)
  /-- SSHR (R195). -/
  | sshr (x : FA)
  /-- SMIN (R195). -/
  | smin (x : FA)
  /-- SMAX (R195). -/
  | smax (x : FA)
  /-- SMOV (R195). -/
  | smov (x : FA)
  /-- SFFS (R195). -/
  | sffs (x : FA)
  /-- SPOPC (R195). -/
  | spopc (x : FA)
  /-- SCMP (R196). -/
  | scmp (x : FA)
  /-- SMOVX (R227). -/
  | smovx (x : FA)
  /-- SMOVX_ST (R227). -/
  | smovxSt (x : FA)
  /-- SLI (R197). -/
  | sli (x : FK)
  /-- SSEL (R198). -/
  | ssel (x : FC)
  /-- SBFX (R198). -/
  | sbfx (x : FC)
  /-- VADD (R245). -/
  | vadd (x : FA)
  /-- VSUB (R245). -/
  | vsub (x : FA)
  /-- VMUL (R245). -/
  | vmul (x : FA)
  /-- VMULH (R245). -/
  | vmulh (x : FA)
  /-- VMIN (R245). -/
  | vmin (x : FA)
  /-- VMAX (R245). -/
  | vmax (x : FA)
  /-- VABS (R245). -/
  | vabs (x : FA)
  /-- VNEG (R245). -/
  | vneg (x : FA)
  /-- VAND (R245). -/
  | vand (x : FA)
  /-- VOR (R245). -/
  | vor (x : FA)
  /-- VXOR (R245). -/
  | vxor (x : FA)
  /-- VNOT (R245). -/
  | vnot (x : FA)
  /-- VSHL (R245). -/
  | vshl (x : FA)
  /-- VSHR (R245). -/
  | vshr (x : FA)
  /-- VPOPC (R245). -/
  | vpopc (x : FA)
  /-- VCLZ (R245). -/
  | vclz (x : FA)
  /-- VCMP (R246). -/
  | vcmp (x : FA)
  /-- VMOV (R246). -/
  | vmov (x : FA)
  /-- VMOVX (R226). -/
  | vmovx (x : FA)
  /-- VMOVX_ST (R226). -/
  | vmovxSt (x : FA)
  /-- VMAD (R246). -/
  | vmad (x : FC)
  /-- VSEL (R246). -/
  | vsel (x : FC)
  /-- VBFX (R246). -/
  | vbfx (x : FC)
  /-- VBFI (R246). -/
  | vbfi (x : FC)
  /-- VFADD (R248). -/
  | vfadd (x : FA)
  /-- VFSUB (R248). -/
  | vfsub (x : FA)
  /-- VFMUL (R248). -/
  | vfmul (x : FA)
  /-- VFMIN (R249). -/
  | vfmin (x : FA)
  /-- VFMAX (R249). -/
  | vfmax (x : FA)
  /-- VFABS (R248). -/
  | vfabs (x : FA)
  /-- VFNEG (R248). -/
  | vfneg (x : FA)
  /-- VFCMP (R250). -/
  | vfcmp (x : FA)
  /-- VFCLASS (R251). -/
  | vfclass (x : FA)
  /-- VFRND (R252). -/
  | vfrnd (x : FA)
  /-- VFFMA (R253). -/
  | vffma (x : FC)
  /-- VFFMS (R253). -/
  | vffms (x : FC)
  /-- VFFNMA (R253). -/
  | vffnma (x : FC)
  /-- VFFNMS (R253). -/
  | vffnms (x : FC)
  /-- VCVT (R254). -/
  | vcvt (x : FC)
  /-- VPACK (R255). -/
  | vpack (x : FC)
  /-- VPACK_Q4 (R256). -/
  | vpackQ4 (x : FC)
  /-- VUNPACK (R258). -/
  | vunpack (x : FC)
  /-- VSCL (R259). -/
  | vscl (x : FC)
  /-- LXOR (R314). -/
  | lxor (x : FA)
  /-- LSHF (R314). -/
  | lshf (x : FA)
  /-- LPERM (R314). -/
  | lperm (x : FA)
  /-- LBC (R314). -/
  | lbc (x : FA)
  /-- LRED (R316). -/
  | lred (x : FA)
  /-- LSCAN (R317). -/
  | lscan (x : FA)
  /-- LVOTE (R318). -/
  | lvote (x : FA)
  /-- VRCP (R320). -/
  | vrcp (x : FA)
  /-- VRSQ (R320). -/
  | vrsq (x : FA)
  /-- VSQRT (R320). -/
  | vsqrt (x : FA)
  /-- VEXP2 (R320). -/
  | vexp2 (x : FA)
  /-- VLOG2 (R320). -/
  | vlog2 (x : FA)
  /-- VSIN (R320). -/
  | vsin (x : FA)
  /-- VCOS (R320). -/
  | vcos (x : FA)
  /-- VTANH (R320). -/
  | vtanh (x : FA)
  /-- VACT (R324). -/
  | vact (x : FA)
  /-- ATLD (R323). -/
  | atld (x : FM)
  /-- VTOPK (R328). -/
  | vtopk (x : FC)
  /-- VRNG (R329). -/
  | vrng (x : FC)
  /-- MRSV (R333). -/
  | mrsv (x : FA)
  /-- MREL (R333). -/
  | mrel (x : FA)
  /-- CVSET (R336). -/
  | cvset (x : FA)
  /-- MZERO (R348). -/
  | mzero (x : FA)
  /-- MMA (R338). -/
  | mma (x : FM)
  /-- MLD (R350). -/
  | mld (x : FM)
  /-- MLD_V (R351). -/
  | mldV (x : FM)
  /-- MST (R350). -/
  | mst (x : FM)
  /-- LD (R277). -/
  | ld (x : FM)
  /-- ST (R277). -/
  | st (x : FM)
  /-- LDG (R278). -/
  | ldg (x : FM)
  /-- STS (R278). -/
  | sts (x : FM)
  /-- ATOM (R280). -/
  | atom (x : FM)
  /-- RED (R280). -/
  | red (x : FM)
  /-- PREF (R281). -/
  | pref (x : FM)
  /-- COMMIT (R93). -/
  | commit (x : FA)
  /-- COMMIT_CHK (R101). -/
  | commitChk (x : FA)
  /-- ABORT (R102). -/
  | abort (x : FA)
  /-- FENCE (R113). -/
  | fence (x : FA)
  /-- TREC (R282). -/
  | trec (x : FM)
  /-- TSET (R282). -/
  | tset (x : FM)
  /-- TGET (R282). -/
  | tget (x : FM)
  /-- TLOOK (R284). -/
  | tlook (x : FA)
  /-- TINS (R284). -/
  | tins (x : FA)
  /-- TDEL (R284). -/
  | tdel (x : FA)
  /-- CPY (R289). -/
  | cpy (x : FM)
  /-- CPYT (R290). -/
  | cpyt (x : FM)
  /-- CSEAL (R295). -/
  | cseal (x : FA)
  /-- BINIT (R303). -/
  | binit (x : FA)
  /-- BARV (R303). -/
  | barv (x : FA)
  /-- BEXP (R303). -/
  | bexp (x : FA)
  /-- BTEST (R305). -/
  | btest (x : FA)
  /-- BDROP (R303). -/
  | bdrop (x : FA)
  /-- BWAIT (R304). -/
  | bwait (x : FC)
  /-- MATOM (R358). -/
  | matom (x : FM)
  /-- MRED (R358). -/
  | mred (x : FM)
  /-- QBIND (R363). -/
  | qbind (x : FA)
  /-- QBIND_INIT (R363). -/
  | qbindInit (x : FA)
  /-- QBIND_OFF (R363). -/
  | qbindOff (x : FA)
  /-- QSTAT (R367). -/
  | qstat (x : FA)
  /-- FMLD (R381). -/
  | fmld (x : FM)
  /-- FPERM (R386). -/
  | fperm (x : FM)
  /-- PWR (R410). -/
  | pwr (x : FM)
  /-- PRD (R411). -/
  | prd (x : FM)
  /-- PATOM (R411). -/
  | patom (x : FM)
  /-- PSIG_ARV (R412). -/
  | psigArv (x : FM)
  /-- PSIG_ADD (R412). -/
  | psigAdd (x : FM)
  /-- PPERM (R413). -/
  | pperm (x : FM)
  /-- PQST (R414). -/
  | pqst (x : FA)
  /-- LAUNCH (R157). -/
  | launch (x : FA)
  /-- YIELD_GRID (R158). -/
  | yieldGrid (x : FA)
  /-- SLOT_SELECT (R166). -/
  | slotSelect (core slot : Nat)
  /-- GROUP_AGED (R167). -/
  | groupAged (core entry : Nat)
  /-- FETCH_FILL (R45). -/
  | fetchFill (core slot : Nat)
  /-- SLEEP_WAKE (R191). -/
  | sleepWake (blk wv lane : Nat)
  /-- REQUEST_ACCEPT (R27). -/
  | requestAccept (core slot : Nat)
  /-- PRODUCER_RESULT (R28). -/
  | producerResult (id : Nat) (err : Bool)
  /-- RELOAD_DONE (R218). -/
  | reloadDone (blk wv name : Nat)
  /-- COMMIT_COMPLETE (R94). -/
  | commitComplete (id : Nat)
  /-- ABORT_COMPLETE (R287). -/
  | abortComplete (id : Nat)
  /-- FILTER_WINDOW_CLOSE (R100). -/
  | filterWindowClose (level unit : Nat)
  /-- FAULT_RECORD_RELEASE (R273). -/
  | faultRecordRelease (ctx tag : Nat)
  /-- PFREPLY_RETRY (R273). -/
  | pfreplyRetry (ctx tag : Nat)
  /-- PFREPLY_UNSERVICEABLE (R273). -/
  | pfreplyUnserviceable (ctx tag : Nat)
  /-- PTCMD_MAP (R270). -/
  | ptcmdMap (ctx : Nat)
  /-- PTCMD_UNMAP (R270). -/
  | ptcmdUnmap (ctx : Nat)
  /-- UNMAP_DONE (R271). -/
  | unmapDone (ctx : Nat)
  /-- COPY_LAND (R293). -/
  | copyLand (id piece : Nat) (err : Nat)
  /-- COPY_COMPLETE (R294). -/
  | copyComplete (id : Nat)
  /-- BATCH_COMPLETE (R295). -/
  | batchComplete (id : Nat)
  /-- BARRIER_CREDIT (R300). -/
  | barrierCredit (id : Nat)
  /-- BARRIER_ARRIVAL (R303). -/
  | barrierArrival (id : Nat)
  /-- WAKE_NOTICE (R308). -/
  | wakeNotice (id : Nat)
  /-- BWAIT_TIMEOUT (R304). -/
  | bwaitTimeout (blk wv lane : Nat)
  /-- CLUSTER_STUCK (R310). -/
  | clusterStuck (cluster : Nat)
  /-- ATLD_INSTALL (R325). -/
  | atldInstall (blk bank : Nat) (err : Bool)
  /-- MATRIX_REQUEST (R343). -/
  | matrixRequest (core : Nat) (bad : List Nat)
  /-- MST_COMPLETE (R350). -/
  | mstComplete (id : Nat)
  /-- MATRIX_RELEASE (R333). -/
  | matrixRelease (core : Nat)
  /-- MS_ATOMIC_PERFORM (R358). -/
  | msAtomicPerform (id : Nat)
  /-- RING_ELEMENT_LAND (R364). -/
  | ringElementLand (id : Nat)
  /-- RING_WAKE (R365). -/
  | ringWake (id : Nat)
  /-- FPERM_PIECE_ARRIVE (R387). -/
  | fpermPieceArrive (id piece err : Nat)
  /-- FPERM_COMPLETE (R387). -/
  | fpermComplete (id : Nat)
  /-- KEEP_WAITING_SEND (R383). -/
  | keepWaitingSend (id : Nat)
  /-- KEEP_WAITING_RECEIVE (R384). -/
  | keepWaitingReceive (id : Nat)
  /-- RESPONSE_TIMEOUT (R384). -/
  | responseTimeout (id : Nat)
  /-- CALENDS_LOCK (R388). -/
  | calendsLock (pos : BitVec 6) (time : BitVec 64) (ofs : BitVec 8)
  /-- LOCK_LOSS (R388). -/
  | lockLoss
  /-- ALMNEXT_GO (R391). -/
  | almnextGo (value : BitVec 64)
  /-- ALMANAC_SWITCH (R391). -/
  | almanacSwitch
  /-- SLOT_START (R392). -/
  | slotStart
  /-- WINDOW_OPEN (R431). -/
  | windowOpen (port : Nat)
  /-- FLIT_SEND (R397). -/
  | flitSend (port choice : Nat)
  /-- WINDOW_CLOSE (R399). -/
  | windowClose (port : Nat)
  /-- FLIT_RECEIVE (R420). -/
  | flitReceive (port : Nat) (raw : List Byte) (gone : List Nat)
  /-- TRANSIT_ARRIVE (R401). -/
  | transitArrive (id : Nat)
  /-- REMOTE_ENTRY_PERFORM (R404). -/
  | remoteEntryPerform (id : Nat) (err : Bool)
  /-- REMOTE_ACK (R403). -/
  | remoteAck (peer id : Nat)
  /-- TRANSIT_CREDIT (R401). -/
  | transitCredit (peer dest amount : Nat)
  /-- REMOTE_FAILURE (R405). -/
  | remoteFailure (id code pkg : Nat)
  /-- REMOTE_TIMEOUT (R405). -/
  | remoteTimeout (id : Nat)
  /-- PPERM_COMPLETE (R413). -/
  | ppermComplete (id : Nat)
  /-- PEVQ_WRITE (R395). -/
  | pevqWrite (value : BitVec 64)
  /-- LOSS_OF_LIGHT (R422). -/
  | lossOfLight (port lane peer : Nat)
  /-- LMAP_PROPOSAL (R422). -/
  | lmapProposal (port peer : Nat) (lanes : BitVec 16)
  /-- LMAP_ANSWER (R422). -/
  | lmapAnswer (port peer : Nat) (lanes : BitVec 16) (seq : BitVec 32)
  /-- MARGIN_LOW (R424). -/
  | marginLow (port lane peer margin : Nat)
  /-- RETRAIN_DONE (R424). -/
  | retrainDone (port lane peer margin : Nat)
  /-- LANE_LOCK_FAIL (R425). -/
  | laneLockFail (port lane peer : Nat)
  /-- WQWR_WRITE (R132). -/
  | wqwrWrite (fn queue : Nat) (value : BitVec 32)
  /-- WQCTL_WRITE (R130). -/
  | wqctlWrite (fn queue : Nat) (value : BitVec 64)
  /-- WQSTAT_ERR_CLEAR (R131). -/
  | wqstatErrClear (fn queue : Nat)
  /-- QFUNC_WRITE (R127). -/
  | qfuncWrite (queue : Nat) (value : Byte)
  /-- CFUNC_WRITE (R127). -/
  | cfuncWrite (ctx : Nat) (value : Byte)
  /-- PACKET_TAKE (R135). -/
  | packetTake (queue : Nat)
  /-- DEPENDENCY_POLL (R136). -/
  | dependencyPoll (launch : Nat)
  /-- CLUSTER_PLACE (R141). -/
  | clusterPlace (launch : Nat)
  /-- PRIORITY_PREEMPT (R139). -/
  | priorityPreempt (launch : Nat)
  /-- BLOCK_RELEASE (R36). -/
  | blockRelease (blk : Nat)
  /-- LAUNCH_COMPLETE (R137). -/
  | launchComplete (launch : Nat)
  /-- CTXCTL_PREEMPT (R148). -/
  | ctxctlPreempt (ctx : Nat)
  /-- CTXCTL_RESTORE (R152). -/
  | ctxctlRestore (ctx : Nat)
  /-- CTXCTL_RESET (R149). -/
  | ctxctlReset (ctx : Nat)
  /-- IMAGE_SEAL (R150). -/
  | imageSeal (ctx : Nat)
  /-- RESTORE_DONE (R153). -/
  | restoreDone (ctx : Nat)
  /-- RESET_DONE (R149). -/
  | resetDone (ctx : Nat)
  /-- CTXPOOL_WRITE (R447). -/
  | ctxpoolWrite (ctx : Nat) (size : Bool) (value : BitVec 64)
  /-- CTXLOG_WRITE (R155). -/
  | ctxlogWrite (ctx : Nat) (value : BitVec 64)
  /-- CTXLOGN_WRITE (R155). -/
  | ctxlognWrite (ctx : Nat) (value : BitVec 64)
  /-- TEMP_SAMPLE (R442). -/
  | tempSample (core : Nat) (temp : BitVec 8)
  /-- THROTTLE_STEP (R443). -/
  | throttleStep (die : Nat) (pkgw : BitVec 16)
  /-- DROOP_EVENT (R442). -/
  | droopEvent (die : Nat)
  /-- CORE_FAULT (R444). -/
  | coreFault (core : Nat)
  /-- PACKAGE_RESET (R432). -/
  | packageReset (codes : List Nat) (badStacks badDies : List Nat) (linkFull : Bool) (pos : BitVec 6) (time : BitVec 64)
  /-- STARTCLR_WRITE (R441). -/
  | startclrWrite (value : BitVec 32)
  /-- MB_ERASE (R438). -/
  | mbErase (flashError : Bool)
  /-- MB_WRITE (R438). -/
  | mbWrite (flashError : Bool)
  /-- MB_KEYS (R438). -/
  | mbKeys
  /-- MB_MEASURE (R438). -/
  | mbMeasure
  /-- MB_OP_DONE (R437). -/
  | mbOpDone
  /-- UNDERVOLTAGE (R445). -/
  | undervoltage (vin : Byte)
  /-- POWER_RESTORE (R445). -/
  | powerRestore (vin : Byte)
  /-- VF_FLR (R446). -/
  | vfFlr (vf : Nat)
  /-- REGISTER_WRITE (R448). -/
  | registerWrite (fn offset size : Nat) (value : BitVec 64)
  /-- LASER_FAILURE (R428). -/
  | laserFailure (port lane : Nat)
  /-- LANE_LOCK_LATE (R425). -/
  | laneLockLate (port lane peer : Nat)
  /-- EYE_SAMPLE (R428). -/
  | eyeSample (port margin : Nat)
deriving DecidableEq, Repr

/-- The row is a step of an engine or of the outside, not an encoded instruction. -/
def Instr.isEvent : Instr → Bool
  | .bra _ => false
  | .call _ => false
  | .trap _ => false
  | .brx _ => false
  | .ret _ => false
  | .exit _ => false
  | .exitChain _ => false
  | .eret _ => false
  | .brkpt _ => false
  | .nop _ => false
  | .yield _ => false
  | .sleep _ => false
  | .cvg _ => false
  | .stage _ => false
  | .rls _ => false
  | .rdsr _ => false
  | .wrsr _ => false
  | .pand _ => false
  | .por _ => false
  | .pxor _ => false
  | .pnot _ => false
  | .pmov _ => false
  | .pmovToScalar _ => false
  | .pmovFromScalar _ => false
  | .sadd _ => false
  | .ssub _ => false
  | .smul _ => false
  | .smulh _ => false
  | .sand _ => false
  | .sor _ => false
  | .sxor _ => false
  | .sshl _ => false
  | .sshr _ => false
  | .smin _ => false
  | .smax _ => false
  | .smov _ => false
  | .sffs _ => false
  | .spopc _ => false
  | .scmp _ => false
  | .smovx _ => false
  | .smovxSt _ => false
  | .sli _ => false
  | .ssel _ => false
  | .sbfx _ => false
  | .vadd _ => false
  | .vsub _ => false
  | .vmul _ => false
  | .vmulh _ => false
  | .vmin _ => false
  | .vmax _ => false
  | .vabs _ => false
  | .vneg _ => false
  | .vand _ => false
  | .vor _ => false
  | .vxor _ => false
  | .vnot _ => false
  | .vshl _ => false
  | .vshr _ => false
  | .vpopc _ => false
  | .vclz _ => false
  | .vcmp _ => false
  | .vmov _ => false
  | .vmovx _ => false
  | .vmovxSt _ => false
  | .vmad _ => false
  | .vsel _ => false
  | .vbfx _ => false
  | .vbfi _ => false
  | .vfadd _ => false
  | .vfsub _ => false
  | .vfmul _ => false
  | .vfmin _ => false
  | .vfmax _ => false
  | .vfabs _ => false
  | .vfneg _ => false
  | .vfcmp _ => false
  | .vfclass _ => false
  | .vfrnd _ => false
  | .vffma _ => false
  | .vffms _ => false
  | .vffnma _ => false
  | .vffnms _ => false
  | .vcvt _ => false
  | .vpack _ => false
  | .vpackQ4 _ => false
  | .vunpack _ => false
  | .vscl _ => false
  | .lxor _ => false
  | .lshf _ => false
  | .lperm _ => false
  | .lbc _ => false
  | .lred _ => false
  | .lscan _ => false
  | .lvote _ => false
  | .vrcp _ => false
  | .vrsq _ => false
  | .vsqrt _ => false
  | .vexp2 _ => false
  | .vlog2 _ => false
  | .vsin _ => false
  | .vcos _ => false
  | .vtanh _ => false
  | .vact _ => false
  | .atld _ => false
  | .vtopk _ => false
  | .vrng _ => false
  | .mrsv _ => false
  | .mrel _ => false
  | .cvset _ => false
  | .mzero _ => false
  | .mma _ => false
  | .mld _ => false
  | .mldV _ => false
  | .mst _ => false
  | .ld _ => false
  | .st _ => false
  | .ldg _ => false
  | .sts _ => false
  | .atom _ => false
  | .red _ => false
  | .pref _ => false
  | .commit _ => false
  | .commitChk _ => false
  | .abort _ => false
  | .fence _ => false
  | .trec _ => false
  | .tset _ => false
  | .tget _ => false
  | .tlook _ => false
  | .tins _ => false
  | .tdel _ => false
  | .cpy _ => false
  | .cpyt _ => false
  | .cseal _ => false
  | .binit _ => false
  | .barv _ => false
  | .bexp _ => false
  | .btest _ => false
  | .bdrop _ => false
  | .bwait _ => false
  | .matom _ => false
  | .mred _ => false
  | .qbind _ => false
  | .qbindInit _ => false
  | .qbindOff _ => false
  | .qstat _ => false
  | .fmld _ => false
  | .fperm _ => false
  | .pwr _ => false
  | .prd _ => false
  | .patom _ => false
  | .psigArv _ => false
  | .psigAdd _ => false
  | .pperm _ => false
  | .pqst _ => false
  | .launch _ => false
  | .yieldGrid _ => false
  | .slotSelect _ _ => true
  | .groupAged _ _ => true
  | .fetchFill _ _ => true
  | .sleepWake _ _ _ => true
  | .requestAccept _ _ => true
  | .producerResult _ _ => true
  | .reloadDone _ _ _ => true
  | .commitComplete _ => true
  | .abortComplete _ => true
  | .filterWindowClose _ _ => true
  | .faultRecordRelease _ _ => true
  | .pfreplyRetry _ _ => true
  | .pfreplyUnserviceable _ _ => true
  | .ptcmdMap _ => true
  | .ptcmdUnmap _ => true
  | .unmapDone _ => true
  | .copyLand _ _ _ => true
  | .copyComplete _ => true
  | .batchComplete _ => true
  | .barrierCredit _ => true
  | .barrierArrival _ => true
  | .wakeNotice _ => true
  | .bwaitTimeout _ _ _ => true
  | .clusterStuck _ => true
  | .atldInstall _ _ _ => true
  | .matrixRequest _ _ => true
  | .mstComplete _ => true
  | .matrixRelease _ => true
  | .msAtomicPerform _ => true
  | .ringElementLand _ => true
  | .ringWake _ => true
  | .fpermPieceArrive _ _ _ => true
  | .fpermComplete _ => true
  | .keepWaitingSend _ => true
  | .keepWaitingReceive _ => true
  | .responseTimeout _ => true
  | .calendsLock _ _ _ => true
  | .lockLoss => true
  | .almnextGo _ => true
  | .almanacSwitch => true
  | .slotStart => true
  | .windowOpen _ => true
  | .flitSend _ _ => true
  | .windowClose _ => true
  | .flitReceive _ _ _ => true
  | .transitArrive _ => true
  | .remoteEntryPerform _ _ => true
  | .remoteAck _ _ => true
  | .transitCredit _ _ _ => true
  | .remoteFailure _ _ _ => true
  | .remoteTimeout _ => true
  | .ppermComplete _ => true
  | .pevqWrite _ => true
  | .lossOfLight _ _ _ => true
  | .lmapProposal _ _ _ => true
  | .lmapAnswer _ _ _ _ => true
  | .marginLow _ _ _ _ => true
  | .retrainDone _ _ _ _ => true
  | .laneLockFail _ _ _ => true
  | .wqwrWrite _ _ _ => true
  | .wqctlWrite _ _ _ => true
  | .wqstatErrClear _ _ => true
  | .qfuncWrite _ _ => true
  | .cfuncWrite _ _ => true
  | .packetTake _ => true
  | .dependencyPoll _ => true
  | .clusterPlace _ => true
  | .priorityPreempt _ => true
  | .blockRelease _ => true
  | .launchComplete _ => true
  | .ctxctlPreempt _ => true
  | .ctxctlRestore _ => true
  | .ctxctlReset _ => true
  | .imageSeal _ => true
  | .restoreDone _ => true
  | .resetDone _ => true
  | .ctxpoolWrite _ _ _ => true
  | .ctxlogWrite _ _ => true
  | .ctxlognWrite _ _ => true
  | .tempSample _ _ => true
  | .throttleStep _ _ => true
  | .droopEvent _ => true
  | .coreFault _ => true
  | .packageReset _ _ _ _ _ _ => true
  | .startclrWrite _ => true
  | .mbErase _ => true
  | .mbWrite _ => true
  | .mbKeys => true
  | .mbMeasure => true
  | .mbOpDone => true
  | .undervoltage _ => true
  | .powerRestore _ => true
  | .vfFlr _ => true
  | .registerWrite _ _ _ _ => true
  | .laserFailure _ _ => true
  | .laneLockLate _ _ _ => true
  | .eyeSample _ _ => true

end Sys2Proof
end

