-- ==== Sys2Proof/Machine/Flags.lean ====
section
/-! DEFINITION. Number formats, rounding, delivery of floating-point results and the `FSTAT` flags they raise (spec/07_vector_arithmetic.md R232 to R244, R256). -/

namespace Sys2Proof

open Sys2Proof.Machine

/-! ### Types (R10, R53) -/

/-- Width of a type in bits; 32 for the 4-bit family, whose registers hold packed lanes (R240). -/
def Ty.bits : Ty → Nat
  | .b32 => 32 | .s8 => 8 | .s16 => 16 | .s32 => 32 | .s64 => 64 | .n8 => 8 | .n16 => 16 | .n32 => 32 | .n64 => 64
  | .b64 => 64 | .f32 => 32 | .f16 => 16 | .bf16 => 16 | .e4m3 => 8 | .e5m2 => 8 | .q4 => 32

def Ty.is64 (t : Ty) : Bool := t.bits == 64

def Ty.signed : Ty → Bool
  | .s8 => true | .s16 => true | .s32 => true | .s64 => true | _ => false

def Ty.unsigned : Ty → Bool
  | .n8 => true | .n16 => true | .n32 => true | .n64 => true | _ => false

def Ty.raw : Ty → Bool
  | .b32 => true | .b64 => true | _ => false

def Ty.isFloat : Ty → Bool
  | .f32 => true | .f16 => true | .bf16 => true | .e4m3 => true | .e5m2 => true | _ => false

/-- The value of an element of an integer type: signed for `.s`, unsigned for `.n` and `.b` (R195, R245). -/
def Ty.val (t : Ty) (x : Nat) : Int := if t.signed then sextN x t.bits else ((x % 2 ^ t.bits : Nat) : Int)

/-- The range of an integer type. -/
def Ty.lo (t : Ty) : Int := if t.signed then -((2 : Int) ^ (t.bits - 1)) else 0
def Ty.hi (t : Ty) : Int := if t.signed then (2 : Int) ^ (t.bits - 1) - 1 else (2 : Int) ^ t.bits - 1

/-- A result of a type as the lane holds it: the low bits, with the bits above filled with the sign of `.s8` and `.s16`
and with zeros for every other type (R232). For a 64-bit type the number is both registers of the pair. -/
def Ty.extend (t : Ty) (x : Nat) : Nat :=
  if t.signed ∧ t.bits < 32 then truncI (sextN x t.bits) 32 else x % 2 ^ t.bits

end Sys2Proof

namespace Sys2Proof.Machine

open Sys2Proof

/-! ### Flags as a number whose bits are those of `FSTAT` (R183) -/

def flNV : Nat := 1
def flDZ : Nat := 2
def flOF : Nat := 4
def flUF : Nat := 8
def flNX : Nat := 16
def flSAT : Nat := 32

def flIf (c : Bool) (f : Nat) : Nat := if c then f else 0

/-- An integer result under `.sat` or wrapping, with the flag it raises (R195, R245). -/
def intResult (t : Ty) (sat : Bool) (r : Int) : Nat × Nat :=
  if sat ∧ (r < t.lo ∨ t.hi < r) then (truncI (clampI r t.lo t.hi) t.bits, flSAT) else (truncI r t.bits, 0)

/-! ### Formats (R235) -/

/-- A floating-point format: exponent bits, significand bits, bias; `ieee` is false for E4M3; `flush` is BF16. -/
structure FFmt where
  ew : Nat
  mw : Nat
  bias : Nat
  ieee : Bool
  flush : Bool
deriving DecidableEq, Repr

def fmtF32 : FFmt := { ew := 8, mw := 23, bias := 127, ieee := true, flush := false }
def fmtF16 : FFmt := { ew := 5, mw := 10, bias := 15, ieee := true, flush := false }
def fmtBF16 : FFmt := { ew := 8, mw := 7, bias := 127, ieee := true, flush := true }
def fmtE4M3 : FFmt := { ew := 4, mw := 3, bias := 7, ieee := false, flush := false }
def fmtE5M2 : FFmt := { ew := 5, mw := 2, bias := 15, ieee := true, flush := false }

end Sys2Proof.Machine

namespace Sys2Proof

open Sys2Proof.Machine

/-- The format of a float type; FP32 stands for a type that is none. -/
def Ty.ffmt : Ty → FFmt
  | .f16 => fmtF16
  | .bf16 => fmtBF16
  | .e4m3 => fmtE4M3
  | .e5m2 => fmtE5M2
  | _ => fmtF32

end Sys2Proof

namespace Sys2Proof.Machine

open Sys2Proof

/-- An exact value: NaN, infinity, or (-1)^neg × m × 2^e. -/
inductive FVal where
  | nan (signalling : Bool)
  | inf (neg : Bool)
  | fin (neg : Bool) (m : Nat) (e : Int)
deriving DecidableEq, Repr

def FFmt.signOf (f : FFmt) (x : Nat) : Bool := x.testBit (f.ew + f.mw)
def FFmt.expOf (f : FFmt) (x : Nat) : Nat := field x (f.ew + f.mw - 1) f.mw
def FFmt.manOf (f : FFmt) (x : Nat) : Nat := x % 2 ^ f.mw
def FFmt.expMax (f : FFmt) : Nat := 2 ^ f.ew - 1
def FFmt.signBit (f : FFmt) (neg : Bool) : Nat := if neg then 2 ^ (f.ew + f.mw) else 0
/-- Exponent of the last place of the smallest normal values and of the subnormals. -/
def FFmt.subExp (f : FFmt) : Int := 1 - (f.bias : Int) - (f.mw : Int)

/-- The value of an encoding, subnormals at their values (R235). -/
def FFmt.decodeRaw (f : FFmt) (x : Nat) : FVal :=
  let s := f.signOf x
  let e := f.expOf x
  let m := f.manOf x
  if f.ieee ∧ e = f.expMax then
    if m = 0 then .inf s else .nan (!m.testBit (f.mw - 1))
  else if ¬ f.ieee ∧ e = f.expMax ∧ m = 2 ^ f.mw - 1 then .nan false
  else if e = 0 then .fin s m f.subExp
  else .fin s (m + 2 ^ f.mw) ((e : Int) - (f.bias : Int) - (f.mw : Int))

/-- The value that an arithmetic instruction reads: a BF16 subnormal is zero of its sign (R237). -/
def FFmt.value (f : FFmt) (x : Nat) : FVal :=
  if f.flush ∧ f.expOf x = 0 then .fin (f.signOf x) 0 0 else f.decodeRaw x

/-- The canonical quiet NaN (R236). -/
def FFmt.qnan (f : FFmt) : Nat :=
  if f.ieee then f.expMax * 2 ^ f.mw + 2 ^ (f.mw - 1) else f.expMax * 2 ^ f.mw + (2 ^ f.mw - 1)

/-- The encodings of infinity and of the largest finite value, and that value as significand and exponent (R235). -/
def FFmt.infBits (f : FFmt) (neg : Bool) : Nat := f.signBit neg + f.expMax * 2 ^ f.mw
def FFmt.maxBits (f : FFmt) (neg : Bool) : Nat :=
  f.signBit neg + (if f.ieee then (f.expMax - 1) * 2 ^ f.mw + (2 ^ f.mw - 1) else f.expMax * 2 ^ f.mw + (2 ^ f.mw - 2))
def FFmt.maxM (f : FFmt) : Nat := if f.ieee then 2 ^ (f.mw + 1) - 1 else 2 ^ (f.mw + 1) - 2
def FFmt.maxE (f : FFmt) : Int :=
  ((if f.ieee then f.expMax - 1 else f.expMax : Nat) : Int) - (f.bias : Int) - (f.mw : Int)

/-! ### Rounding (R241, R242) -/

inductive RMode where
  | rne | rz | rdn | rup | rs
deriving DecidableEq, Repr

/-- The mode of `MOD[2:0]` (R241). -/
def RMode.ofCode (c : Nat) : RMode :=
  match c with
  | 0 => .rne
  | 1 => .rz
  | 2 => .rdn
  | 3 => .rup
  | _ => .rs

def bitLen (n : Nat) : Nat := if n = 0 then 0 else n.log2 + 1

/-- Round m × 2^e (plus something below one unit of 2^e when `sticky`) to a multiple of 2^q; the multiple, and whether
it differs from the value. -/
def roundUnit (neg : Bool) (m : Nat) (e : Int) (sticky : Bool) (q : Int) (mode : RMode) (rnd : Nat) : Nat × Bool :=
  let up := (e - q).toNat
  let s := (q - e).toNat
  let base := m * 2 ^ up / 2 ^ s
  let rem := m * 2 ^ up % 2 ^ s
  let half := 2 ^ s / 2
  let inexact := decide (rem ≠ 0) || sticky
  let away := match mode with
    | .rne => decide (s ≠ 0) && (decide (rem > half) || (decide (rem = half) && (sticky || base % 2 == 1)))
    | .rz => false
    | .rdn => neg && inexact
    | .rup => !neg && inexact
    | .rs => inexact && decide (rem * 65536 / 2 ^ s + rnd % 65536 ≥ 65536)
  (if away then base + 1 else base, inexact)

/-- m1 × 2^e1 against m2 × 2^e2. -/
def magCmp (m1 : Nat) (e1 : Int) (m2 : Nat) (e2 : Int) : Ordering :=
  compare (m1 * 2 ^ (e1 - e2).toNat) (m2 * 2 ^ (e2 - e1).toNat)

/-- Encode a value of the format: k × 2^q, not above the largest finite value. -/
def FFmt.encode (f : FFmt) (neg : Bool) (k : Nat) (q : Int) : Nat :=
  if k = 0 then f.signBit neg
  else
    let u := k * 2 ^ (q - f.subExp).toNat / 2 ^ (f.subExp - q).toNat
    -- u counts units of the subnormal last place
    let l := bitLen u
    if l ≤ f.mw then f.signBit neg + u
    else f.signBit neg + (l - f.mw) * 2 ^ f.mw + (u / 2 ^ (l - f.mw - 1) - 2 ^ f.mw)

/-- The result of an overflow without `.sat` (R243). -/
def FFmt.ovf (f : FFmt) (mode : RMode) (neg : Bool) : Nat :=
  match mode, neg with
  | .rz, _ => f.maxBits neg
  | .rdn, false => f.maxBits false
  | .rup, true => f.maxBits true
  | _, _ => f.infBits neg

/-- `deliver` of a finite value, whose lower part beyond m × 2^e is only known to be nonzero when `sticky` (R243). -/
def FFmt.deliverFin (f : FFmt) (neg : Bool) (m : Nat) (e : Int) (sticky : Bool) (mode : RMode) (sat : Bool) (rnd : Nat) :
    Nat × Nat :=
  if m = 0 then (f.signBit neg, flIf sticky flNX)
  else
    let q := e + (bitLen m : Int) - (f.mw : Int) - 1
    let (k, inx) := roundUnit neg m e sticky q mode rnd
    if magCmp k q f.maxM f.maxE = .gt then
      let fl := flOF + flNX
      if sat then (f.maxBits neg, fl)
      else if !f.ieee then (f.qnan, fl)
      else (f.ovf mode neg, fl)
    else if magCmp k q 1 (f.subExp + (f.mw : Int)) = .lt then
      if f.flush then (f.signBit neg, flUF + flNX)
      else
        let (k, inx) := roundUnit neg m e sticky f.subExp mode rnd
        (f.encode neg k f.subExp, flIf inx (flUF + flNX))
    else (f.encode neg k q, flIf inx flNX)

/-- `deliver` (R243). -/
def FFmt.deliver (f : FFmt) (x : FVal) (mode : RMode) (sat : Bool) (rnd : Nat) : Nat × Nat :=
  match x with
  | .nan _ => (f.qnan, 0)
  | .inf neg =>
    if sat then (f.maxBits neg, 0)
    else if !f.ieee then (f.qnan, flNV)
    else (f.infBits neg, 0)
  | .fin neg m e => f.deliverFin neg m e false mode sat rnd

/-! ### Exact arithmetic (R248, R253) -/

def FVal.isSnan : FVal → Bool
  | .nan s => s
  | _ => false

def FVal.isNan : FVal → Bool
  | .nan _ => true
  | _ => false

def FVal.neg : FVal → FVal
  | .nan s => .nan s
  | .inf n => .inf (!n)
  | .fin n m e => .fin (!n) m e

def FVal.isZero : FVal → Bool
  | .fin _ m _ => m == 0
  | _ => false

/-- m × 2^e with a sign, at a lower exponent. -/
def scaledTo (neg : Bool) (m : Nat) (e q : Int) : Int :=
  let v := ((m * 2 ^ (e - q).toNat : Nat) : Int)
  if neg then -v else v

/-- The exact sum; the sign of a zero sum depends on the mode (R248). The second part is `NV` of infinity minus infinity. -/
def FVal.add (a b : FVal) (mode : RMode) : FVal × Nat :=
  match a, b with
  | .nan _, _ => (.nan false, 0)
  | _, .nan _ => (.nan false, 0)
  | .inf s, .inf t => if s = t then (.inf s, 0) else (.nan false, flNV)
  | .inf s, .fin _ _ _ => (.inf s, 0)
  | .fin _ _ _, .inf t => (.inf t, 0)
  | .fin s m e, .fin t n g =>
    let q := min e g
    let r := scaledTo s m e q + scaledTo t n g q
    if r = 0 then
      if m = 0 ∧ n = 0 ∧ s = t then (.fin s 0 0, 0) else (.fin (decide (mode = .rdn)) 0 0, 0)
    else (.fin (decide (r < 0)) r.natAbs q, 0)

/-- The exact product, with `NV` of zero times infinity (R248). -/
def FVal.mul (a b : FVal) : FVal × Nat :=
  match a, b with
  | .nan _, _ => (.nan false, 0)
  | _, .nan _ => (.nan false, 0)
  | .inf s, .inf t => (.inf (s != t), 0)
  | .inf s, .fin t n _ => if n = 0 then (.nan false, flNV) else (.inf (s != t), 0)
  | .fin s m _, .inf t => if m = 0 then (.nan false, flNV) else (.inf (s != t), 0)
  | .fin s m e, .fin t n g => (.fin (s != t) (m * n) (e + g), 0)

/-- `NV` of signalling NaN operands (R236). (DEDUCED, log 26.) -/
def snanFlag (xs : List FVal) : Nat := flIf (xs.any FVal.isSnan) flNV

/-- a × b + c, negated as asked, exact (R253); zero times infinity is invalid even beside a quiet NaN. -/
def FVal.fma (a b c : FVal) (negP negC : Bool) (mode : RMode) : FVal × Nat :=
  let (p, f1) := a.mul b
  let p := if negP then p.neg else p
  let c := if negC then c.neg else c
  let (r, f2) := p.add c mode
  (r, f1 ||| f2 ||| snanFlag [a, b, c])

/-- The order of two values that are not NaN. -/
def FVal.cmp (a b : FVal) : Ordering :=
  match a, b with
  | .inf s, .inf t => if s = t then .eq else if s then .lt else .gt
  | .inf s, _ => if s then .lt else .gt
  | _, .inf t => if t then .gt else .lt
  | .fin s m e, .fin t n g =>
    let q := min e g
    compare (scaledTo s m e q) (scaledTo t n g q)
  | _, _ => .eq

/-! ### Comparisons (R196, R246, R250) -/

/-- cc of SCMP and VCMP. -/
def intCmp (cc : Nat) (x y : Int) : Bool :=
  match cc with
  | 0 => decide (x = y)
  | 1 => decide (x ≠ y)
  | 2 => decide (x < y)
  | 3 => decide (x ≤ y)
  | 4 => decide (y < x)
  | _ => decide (y ≤ x)

/-- cc of VFCMP, with its flag (R250). -/
def floatCmp (cc : Nat) (a b : FVal) : Bool × Nat :=
  let anyNan := a.isNan || b.isNan
  let o := a.cmp b
  let r := match cc with
    | 0 => !anyNan && o == .eq
    | 1 => anyNan || o != .eq
    | 2 => !anyNan && o == .lt
    | 3 => !anyNan && o != .gt
    | 4 => !anyNan && o == .gt
    | 5 => !anyNan && o != .lt
    | 6 => anyNan
    | _ => !anyNan
  (r, flIf (anyNan && decide (2 ≤ cc ∧ cc ≤ 5)) flNV ||| snanFlag [a, b])

/-! ### Rounding to integers (R252, R254) -/

/-- The integer that a mode selects, and whether it differs. -/
def roundInt (neg : Bool) (m : Nat) (e : Int) (mode : RMode) : Int × Bool :=
  let (k, inx) := roundUnit neg m e false 0 mode 0
  (if neg then -(k : Int) else (k : Int), inx)

/-- Float to integer: rounded by the mode, always saturating (R254). -/
def floatToInt (t : Ty) (x : FVal) (mode : RMode) : Nat × Nat :=
  match x with
  | .nan s => (0, flNV ||| flIf s flNV)
  | .inf neg => (truncI (if neg then t.lo else t.hi) t.bits, flNV)
  | .fin neg m e =>
    let (v, inx) := roundInt neg m e mode
    if v < t.lo ∨ t.hi < v then (truncI (clampI v t.lo t.hi) t.bits, flNV) else (truncI v t.bits, flIf inx flNX)

/-- An integer as an exact value. -/
def FVal.ofInt (i : Int) : FVal := .fin (decide (i < 0)) i.natAbs 0

/-! ### The 4-bit family (R238, R239, R256) -/

/-- The value of a code of a type as an integer times 2^-3 (R239). -/
def q4Units (ct code : Nat) : Int :=
  let mag : Nat → Int := fun c =>
    match ct with
    | 1 => nth 0 [0, 4, 8, 12, 16, 24, 32, 48] c
    | 2 => nth 0 [0, 1, 2, 4, 8, 16, 32, 64] c
    | _ => nth 0 [0, 8, 16, 24, 32, 48, 64, 96] c
  if ct = 0 then 8 * sextN code 4
  else if code % 16 ≥ 8 then -(mag (code % 8)) else mag (code % 8)

/-- The value of a code under its scale byte (R238). -/
def q4Value (scale code : Nat) : FVal :=
  let ct := field scale 7 6
  let u := q4Units ct code
  let neg := decide (u < 0) || (decide (ct ≠ 0) && decide (code % 16 = 8))
  .fin neg u.natAbs (((scale % 64 : Nat) : Int) - 35)

/-- The codes of vmax and vmin (R256). -/
def q4Max (ct : Nat) : Nat := if ct = 0 then 7 else 7
def q4Min (ct : Nat) : Nat := if ct = 0 then 8 else 15

/-- The code whose value is nearest T × 2^q, with ties to the code whose bit 0 is 0; `best` is the best so far. -/
def q4Nearest (ct : Nat) (t : Int) (sc : Nat) : List Nat → Nat → Nat
  | [], best => best
  | c :: cs, best =>
    let d1 := (t - q4Units ct c * (sc : Int)).natAbs
    let d0 := (t - q4Units ct best * (sc : Int)).natAbs
    q4Nearest ct t sc cs (if d1 < d0 ∨ (d1 = d0 ∧ c % 2 = 0 ∧ best % 2 = 1) then c else best)

/-- Quantise one value by exponent e (R256): the code and the flags. (DEDUCED, log 25.) -/
def q4Quantise (ct e : Nat) (x : FVal) : Nat × Nat :=
  match x with
  | .nan s => (0, flNV ||| flIf s flNV)
  | .inf neg => (if neg then q4Min ct else q4Max ct, flOF + flNX)
  | .fin neg m ex =>
    -- t = x / s in units of 2^-3 is (+-)m × 2^g
    let g := ex - ((e % 64 : Nat) : Int) + 35
    let up := g.toNat
    let sc : Nat := 2 ^ (-g).toNat
    let t : Int := if neg then -((m * 2 ^ up : Nat) : Int) else ((m * 2 ^ up : Nat) : Int)
    if t > q4Units ct (q4Max ct) * (sc : Int) then (q4Max ct, flOF + flNX)
    else if t < q4Units ct (q4Min ct) * (sc : Int) then (q4Min ct, flOF + flNX)
    else
      let k := q4Nearest ct t sc (List.range 16) 0
      let k := if q4Units ct k = 0 then 0 else k
      (k, flIf (decide (q4Units ct k * (sc : Int) ≠ t)) flNX ||| flIf (decide (q4Units ct k = 0 ∧ t ≠ 0)) flUF)

/-- The encoding of an operand as a result, with a BF16 subnormal as zero of its sign (R237, R249). -/
def FFmt.flushed (f : FFmt) (x : Nat) : Nat :=
  if f.flush ∧ f.expOf x = 0 then f.signBit (f.signOf x) else x

/-- minimumNumber, and maximumNumber with `mx` (R249). -/
def FFmt.minMax (f : FFmt) (mx : Bool) (x y : Nat) : Nat × Nat :=
  let a := f.value x
  let b := f.value y
  let fl := snanFlag [a, b]
  if a.isNan && b.isNan then (f.qnan, fl)
  else if a.isNan then (FFmt.flushed f y, fl)
  else if b.isNan then (FFmt.flushed f x, fl)
  else
    let xFirst := match a.cmp b with
      | .lt => true
      | .gt => false
      | .eq => f.signOf x
    (FFmt.flushed f (if xFirst != mx then x else y), fl)

end Sys2Proof.Machine
end

