-- ==== Sys2Proof/Config.lean ====
section
/-! DEFINITION. What is fixed for a part: the counts of spec/00_scope.md R3 and R23, and the per-part values that the spec leaves to the implementation. -/

namespace Sys2Proof.Config

open Sys2Proof

/-- Wave width W (R22). -/
def waveWidth : Nat := 64

/-- Cores of the package (R3, R16). -/
def numCores : Nat := 2048

/-- Work queues of the package (R126). -/
def numQueues : Nat := 131072

/-- Contexts of the package (R126). -/
def numContexts : Nat := 4096

/-- The first physical address that does not exist, 1536 GiB (R19). -/
def memTop : Nat := 1536 * 2 ^ 30

/-- The home range of one die, 24 GiB (R18). -/
def homeSize : Nat := 24 * 2 ^ 30

/-- Gathering-table entries of a core (R161). -/
def tableSize : Nat := 64

/-- The longest run (R163). -/
def runMax : Nat := 24

/-- Level-0 sectors of a wave (R40). -/
def lvl0Max : Nat := 64

/-- Cycles after which a group is aged (R167). -/
def ageCycles : Nat := 4096

/-- Cycles after which a change-filter window closes (R100). -/
def windowCycles : Nat := 65536

/-- Changes after which a change-filter window closes (R100). -/
def windowChanges : Nat := 512

/-- The values that the spec leaves unstated, one for each number of the counter of State. (DESIGN CHOICE, log 3.) -/
opaque freeValue : Nat → BitVec 64

/-- The peers that hold a leap entry on a port in a slot, as (port, peer) pairs, one list for each number of the counter of State:
their almanacs stand in other packages (R390, R426). (DESIGN CHOICE, log 3.) -/
opaque peerLeaps : Nat → List (Nat × Nat)

/-- The lanes, outside an empty receive map, that have locked by the end of a window's first 8 ns, one set for each number of the
counter of State: what a port's lanes see is the outside's (R423, R425). (DESIGN CHOICE, log 3.) -/
opaque lockedLanes : Nat → BitVec 16

/-- The PCI Express vendor number assigned to the maker, whose value the spec does not give (R2). (DESIGN CHOICE, log 74.) -/
opaque vendorId : BitVec 16

/-- `MCID.SERIAL`, fused at manufacture (R436). (DESIGN CHOICE, log 7.) -/
opaque serial : BitVec 32
/-- A die's ring-oscillator frequency in MHz, as the start at a time measures it (R442). (DESIGN CHOICE, log 7.) -/
opaque rosc : Nat → Nat → BitVec 16
/-- What the controller finds in an image slot (by the bytes that differ from 0xFF): whether both signatures verify, its
security version, its release (`MAJOR`, `MINOR`), and the SHA-384 digest that the signatures cover (R435, R436, R439). (DESIGN CHOICE, log 7.) -/
opaque imageVerifies : Map Byte → Bool
/-- (DESIGN CHOICE, log 7.) -/
opaque imageSvn : Map Byte → Byte
/-- (DESIGN CHOICE, log 7.) -/
opaque imageRelease : Map Byte → BitVec 12
/-- (DESIGN CHOICE, log 7.) -/
opaque imageDigest : Map Byte → List Byte
/-- The device identity public keys: the RSA-3072 modulus and exponent, and the bytes of the SLH-DSA-SHA2-192s key (R438). (DESIGN
CHOICE, log 7.) -/
opaque rsaModulus : BitVec 3072
/-- (DESIGN CHOICE, log 7.) -/
opaque rsaExponent : BitVec 32
/-- (DESIGN CHOICE, log 7.) -/
opaque slhKey : BitVec 384
/-- The certificates of the two keys, in DER: first (`false`) and second (R438). (DESIGN CHOICE, log 7.) -/
opaque certificate : Bool → List Byte
/-- The two signatures over bytes 0 to 119 of a report (R439). (DESIGN CHOICE, log 7.) -/
opaque reportSignatures : List Byte → List Byte

end Sys2Proof.Config
end

