-- ==== Sys2Proof/Machine/CoreTypes.lean ====
section
/-! DEFINITION. The state of threads, waves, blocks and cores, and the storage of the commit hierarchy, as plain data (spec/01_machine.md, 03_memory_model.md, 05_sequencer.md, 06_registers.md, 08_memory_engine.md). -/

namespace Sys2Proof.Machine

open Sys2Proof

/-- A wave of a block of the package. -/
structure WaveId where
  blk : Nat
  wv : Nat
deriving DecidableEq, Repr

/-- A thread of the package. -/
structure ThreadId where
  blk : Nat
  wv : Nat
  lane : Nat
deriving DecidableEq, Repr

/-- The spaces that hold bytes: home memory by physical address, a block's scratchpad, a thread's private memory
without aliases, and a multicast aperture of a context by its descriptor index and offset (R81, R83, R85, R378, R380).
(DEDUCED, log 33.) -/
inductive Space where
  | glob
  | scr (blk : Nat)
  | priv (blk wv lane : Nat)
  | aper (ctx idx : Nat)
deriving DecidableEq, Repr

/-- One byte of a space. -/
structure Loc where
  sp : Space
  addr : Nat
deriving DecidableEq, Repr

/-- A permitted access: where its first byte lies, and the page entry through which it goes (0 for a window). -/
structure Place where
  loc : Loc
  entry : BitVec 64
deriving DecidableEq, Repr

/-- Some bytes of one 32-byte sector: the keys of `bytes` are offsets 0 to 31 (R88, R90). `cm` is the compression
mode of the translation through which the latest writer reached it (R373). Above level 0, `wrote` names the waves whose writes the
bytes are, with the offset of each byte (R108). (DEDUCED, log 29, 77.) -/
structure Sector where
  sp : Space
  no : Nat
  bytes : Map Byte
  cm : Nat
  wrote : List (WaveId × Nat) := []
deriving DecidableEq, Repr

/-- A record of level 1, 2 or 3 (R90): `unit` is the owner block, the quad or the die; `ctx` is its context (R156);
`shadow` says that it lies in its owner's shadow area (R96). -/
structure Rec where
  level : Nat
  unit : Nat
  ctx : Nat
  owner : Nat
  sec : Sector
  shadow : Bool
deriving DecidableEq, Repr

/-- A clean copy of a 128-byte line of home memory in a core's L1 (R92, R276). `skip` lists the bytes of it that the loads of a wave do
not find: the wave has written them home, or has acquired what was released to it (R108, R111, R115). (DEDUCED, log 29.) -/
structure Clean where
  line : Nat
  data : Map Byte
  hint : Nat
  skip : List (WaveId × Nat)
deriving DecidableEq, Repr

/-- A window of a change filter: its number in order of opening, the cycle it opened at, and what changed in it with
the wave that made the change (R100). The arrays G1 and G2 are computed from the sectors. -/
structure Window where
  seq : Nat
  opened : Nat
  changes : List (Nat × Option WaveId)
deriving DecidableEq, Repr

/-- The shadow entry of a sector (R122): the writer, its interval and the scope code; and, as the model's own fields, the number
of the writer's block, by which a restore finds the entry, and whether the write was an atomic (R123). (DEDUCED, log 31.) -/
structure Shadow where
  blk : Nat
  atom : Bool
  core : Nat
  blin : Nat
  wv : Nat
  interval : Nat
  scope : Nat
deriving DecidableEq, Repr

/-- `FAULTINFO.CAUSE` (R180). -/
inductive Cause where
  | illop | illen | straddle | regidx | relread | rfloor | empty | role | page | prot | bound | wbovf | race
  | deadlock | mxbusy | trap | brkpt
deriving DecidableEq, Repr

def Cause.code : Cause → Nat
  | .illop => 1 | .illen => 2 | .straddle => 3 | .regidx => 4 | .relread => 5 | .rfloor => 6 | .empty => 7
  | .role => 8 | .page => 9 | .prot => 10 | .bound => 11 | .wbovf => 12 | .race => 13 | .deadlock => 14
  | .mxbusy => 15 | .trap => 16 | .brkpt => 17

/-- A trap: `lane` is the faulting lane of a lane trap, none for a whole trap (R176). `src` is the source code of a
page-fault record (R273). (DEDUCED, log 34.) -/
structure Trap where
  cause : Cause
  sub : Nat
  opnd : Nat
  acc : Nat
  addr : Nat
  lane : Option Nat
  src : Nat
deriving DecidableEq, Repr

/-- What a thread waits for (R159, R39). -/
inductive Wait where
  /-- Ready to issue. -/
  | ready
  /-- Arrived at a converging instruction (R172). -/
  | converging
  /-- On an EMPTY register of its wave: the operand code 0 to 895 (R32). -/
  | onReg (code : Nat)
  /-- On a full ring as a producer, or on an empty ring as a consumer: the block's queue register (R165, R365). -/
  | onPush (q : Nat)
  | onPop (q : Nat)
  /-- On an activation bank (R325). -/
  | onBank (bank : Nat)
  /-- In BWAIT on a barrier object for a phase, at an instruction, until the deadline if it has one (R304). -/
  | bwait (obj : Loc) (phase pd : Nat) (deadline : Option Nat) (pc : DWord)
  /-- In SLEEP until a cycle (R191). -/
  | sleep (until_ : Nat)
  /-- On a commit or an abort (R94). -/
  | onCommit (id : Nat)
  /-- In BARV, for its arrival (R303). -/
  | onArrival (id : Nat)
  /-- A `.pod` release, for the acknowledgements of its block's remote writes (R109, R403). -/
  | onPod
  /-- For the service of a page fault (R175). -/
  | fault (tag : Nat)
  /-- Ready at an instruction that trapped while the wave's handler ran (R178). -/
  | onTrap
deriving DecidableEq, Repr

/-- A thread (R159). `preds` holds p1 to p15 in bits 1 to 15. -/
structure Thread where
  pc : DWord
  preds : BitVec 16
  live : Bool
  wait : Wait
  handler : Bool
  /-- The next issue excludes the lanes of `DONEMASK` (R177). -/
  resume : Bool
  /-- Yield mark (R191). -/
  yielded : Bool
  /-- Cycle since which the thread is ready (R167), and the issue slot it left, 4 for none (R162). -/
  since : Nat
  slot : Nat
  /-- The cycle at which it became ready, arrived at a converging instruction, or exited (R162, R172). -/
  ready : Nat
  /-- Scope of a release fence whose write has not come yet (R113). -/
  fence : Option Nat
  /-- A `.pod` release has moved its data home: the remote writes whose acknowledgements its write still awaits (R93, R109). -/
  rel : Option (List Nat)
  /-- Private memory without aliases (R85). -/
  priv : Map Byte
deriving DecidableEq, Repr

/-- State of a mapped vector name; an unlisted name is UNMAPPED (R202). -/
inductive RegState where
  | empty | full | spilled
deriving DecidableEq, Repr

/-- An entry of the rename map (R202, R204). For a SPILLED name, or one that is EMPTY under a reload, `lanes` is the
image in the spill area. (DEDUCED, log 82.) -/
structure VReg where
  st : RegState
  lanes : Map Word
  live : BitVec 64
  stamp : Nat
  /-- When its reload began, in nanoseconds (R218, R384). -/
  reload : Option Nat
deriving DecidableEq, Repr

/-- The roles of waves, codes 0 to 3 (R134, R147). -/
inductive Role where
  | general | copy | matrix | vector
deriving DecidableEq, Repr

/-- A wave: scalars, rename map, special registers, level 0 and the interval (R181 to R186, R201, R202, R88, R98, R99). -/
structure Wave where
  scalars : Map Word
  /-- The scalar registers that are EMPTY (R201). -/
  sEmpty : List Nat
  vregs : Map VReg
  wstat : BitVec 32
  fstat : BitVec 32
  faultinfo : BitVec 32
  faultaddr : BitVec 64
  donemask : BitVec 64
  epc : BitVec 64
  trapvec : BitVec 64
  role : Role
  /-- Level-0 sectors, oldest first (R40, R88). -/
  lvl0 : List Sector
  interval : BitVec 32
  /-- The global sectors read in this interval; the 1024-bit signature is computed from them (R99). -/
  reads : List Nat
  /-- The windows that were current when the interval began (R98, R101): of the wave's units of levels 1 to 3, then of the 64
  home dies (R100); empty before the wave's first instruction. -/
  starts : List Nat
  /-- The interval was open when the context was last restored (R101). -/
  restoredOpen : Bool
  /-- The open batch (R295). -/
  batch : Option Nat
  /-- Order of placement on the core (R215). -/
  order : Nat
  threads : Map Thread
deriving DecidableEq, Repr

/-- One way of a set of the tag table (R283). -/
structure TagWay where
  way : Nat
  tag : Nat
deriving DecidableEq, Repr

/-- A stage ring (R361, R363): the space that holds it, the offset of its record in the first 64 KiB chunk, and the
addresses of its chunks (for a scratchpad ring, one chunk at 0). Bindings are of one ring when their records lie at one place. -/
structure RingRef where
  sp : Space
  first : Nat
  chunks : List Nat
deriving DecidableEq, Repr

/-- A wave that waits for a ring reservation, in the order of first attempts (R365). -/
structure RingWait where
  ring : RingRef
  push : Bool
  wid : WaveId
  lanes : List Nat
  queue : Nat
  id : Nat
  /-- A change of `FREE` or `AVAIL` has sent this waiter a wake notice that has not arrived. -/
  notice : Bool
deriving DecidableEq, Repr

/-- An element of a push whose slot is reserved and which has not landed (R364): its value once it has come. -/
structure RingElem where
  ring : RingRef
  index : Nat
  value : Option Word
deriving DecidableEq, Repr

/-- The load of an activation bank that is in progress: the thread that reads the image, the bytes, its number, and when it was sent,
in nanoseconds (R325, R384). -/
structure BankLoad where
  thread : ThreadId
  image : Map Byte
  id : Nat
  sent : Nat
deriving DecidableEq, Repr

/-- An activation bank: its bytes, and the load in progress (R322, R325). -/
structure Bank where
  bytes : Map Byte
  loading : Option BankLoad
deriving DecidableEq, Repr

/-- A convergence register: members and their signed count (R336). (DEDUCED, log 47.) -/
structure Cv where
  members : Nat
  count : Int
deriving DecidableEq, Repr

/-- An entry of a block's drop list: a barrier object and the waves that take part (R306). -/
structure DropEntry where
  obj : Loc
  mask : BitVec 16
deriving DecidableEq, Repr

/-- A resident or saved block (R22, R23, R42, R260, R263, R283, R363). -/
structure Block where
  ctx : Nat
  launch : Nat
  bx : Nat
  by_ : Nat
  bz : Nat
  blin : Nat
  cluster : Nat
  rank : Nat
  core : Nat
  pos : Nat
  /-- On a core: issues. A halted or saved block is not (R150). -/
  resident : Bool
  waves : Map Wave
  recs : Map (BitVec 256)
  recStat : Map Byte
  scratch : Map Byte
  /-- Valid ways of each set, most recent first (R283). -/
  tags : Map (List TagWay)
  banks : Map Bank
  cvs : Map Cv
  queues : Map RingRef
  drops : List DropEntry
  /-- Waves that handed over their chain range (R189, R228). -/
  chained : List Nat
  /-- Every wave has exited (R36). -/
  exited : Bool
deriving DecidableEq, Repr

/-- An entry of a core's barrier file (R308). -/
structure BEntry where
  obj : Loc
  ctx : Nat
  phase : Nat
  waiters : List ThreadId
deriving DecidableEq, Repr

/-- A tile in the memory of a record (R290, R339, R349): the record as it stood at issue, its row count, the origin, and
where the 64 KiB pages (256-byte pieces of windows) that it touches lie, by their addresses. -/
structure Tile where
  tr : BitVec 256
  rows : Nat
  x : Int
  y : Int
  z : Int
  map : List (Nat × Place)
deriving DecidableEq, Repr

/-- What a copy moves (R289, R290): bytes, or a tile of nx × ny × nz elements with its conversion. -/
inductive CopyKind where
  | bytes (dst src n : Nat) (map : List (Nat × Place))
  | tile (dst src : Tile) (nx ny nz mode : Nat) (sat : Bool) (code : Nat)
deriving DecidableEq, Repr

/-- An accepted copy (R288 to R295). -/
structure Copy where
  wid : WaveId
  /-- The lanes that issued it (R36). -/
  issuers : List Nat
  core : Nat
  token : Nat
  level : Nat
  kind : CopyKind
  bar : Option Loc
  batch : Option Nat
  /-- Pieces that have landed, and the destination sectors that an error leaves unwritten. -/
  landed : List Nat
  bad : List Nat
  code : Nat
  flags : Nat
  /-- When it was accepted, or a piece of it last landed, in nanoseconds (R384). -/
  heard : Nat
  /-- Landed and credited; its status waits for its batch. -/
  complete : Bool
deriving DecidableEq, Repr

/-- A batch of copies of a wave (R295). -/
structure Batch where
  wid : WaveId
  members : List Nat
  sealed : Bool
deriving DecidableEq, Repr

/-- Bytes on their way to a barrier object (R300): the request that landed them, and whether the object refused them. -/
structure Credit where
  obj : Loc
  n : Nat
  op : Nat
  refused : Bool
deriving DecidableEq, Repr

/-- An arrival of BARV that waits for acknowledgements (R303): the threads that it holds, and its instruction. -/
structure Arrival where
  wid : WaveId
  lanes : List Nat
  obj : Loc
  ga : Nat
  awaits : List Nat
  pc : DWord
  len : Nat
deriving DecidableEq, Repr

/-- A wake notice on its way to a core (R308). -/
structure Notice where
  core : Nat
  obj : Loc
  phase : Nat
deriving DecidableEq, Repr

/-- What an accepted matrix request does (R338, R348 to R351). -/
inductive MxOp where
  | mma (ty : Ty) (slot k : Nat) (z : Bool) (a b : Tile)
  | zero (mask : Nat)
  | load (shape slot : Nat) (t : Tile) (bar : Option Loc)
  | loadV (j : Nat) (vals : Map Word)
  | store (shape slot : Nat) (t : Tile) (level token : Nat) (bar : Option Loc)
deriving DecidableEq, Repr

/-- An accepted matrix request: the wave and the lanes that issued it (R36), when it was accepted, in nanoseconds (R384), and what it
does. -/
structure MxReq where
  wid : WaveId
  issuers : List Nat
  heard : Nat
  op : MxOp
deriving DecidableEq, Repr

/-- A request that an engine has begun and that waits for room (R27, R337, R395): a matrix request whose threads wait to sign,
or a PPERM with the remote entries that have not entered their queues. -/
inductive Part where
  | mx (op : MxOp)
  | perm (id : Nat)
deriving DecidableEq, Repr

/-- The matrix engine of a core (R331, R333, R343, R344): the block that holds it, a pending release, the accumulators, the
matrix flags in the bits of `FSTAT`, and the accepted requests, oldest first. -/
structure Matrix where
  holder : Option Nat
  releasing : Bool
  acc : Map Word
  flags : Nat
  queue : List MxReq
deriving DecidableEq, Repr

/-- An MST that has been executed and not completed (R350). -/
structure Mst where
  core : Nat
  wid : WaveId
  issuers : List Nat
  token : Nat
  code : Nat
  flags : Nat
  /-- When it was executed, in nanoseconds (R384). -/
  sent : Nat
deriving DecidableEq, Repr

/-- A gathering-table entry or the group of a run (R161): the launch, the PC, whether it is the group of a converging
instruction that has converged (R172), its members, and whether it is aged (R167). -/
structure Entry where
  launch : Nat
  pc : DWord
  conv : Bool
  members : List ThreadId
  aged : Bool
deriving DecidableEq, Repr

/-- An entry of a staging buffer: a name, and the waves whose row it holds (R222). -/
structure Staged where
  name : Nat
  waves : List WaveId
deriving DecidableEq, Repr

/-- The run on an issue slot (R163): its group, the instructions executed, the staging buffer, oldest entry first (R222). -/
structure Run where
  group : Entry
  count : Nat
  staged : List Staged
deriving DecidableEq, Repr

end Sys2Proof.Machine
end

