-- ==== Sys2Proof/Machine/SysTypes.lean ====
section
/-! DEFINITION. The state of contexts, queues, launches, translation and long-latency producers, as plain data (spec/01_machine.md R28, 04_dispatcher.md, 08_memory_engine.md R269 to R273). -/

namespace Sys2Proof.Machine

open Sys2Proof

/-- The states of a context, codes 0 to 5 (R148). -/
inductive CtxState where
  | idle | run | halt | saved | restore | fault
deriving DecidableEq, Repr

/-- A mapped page: its entry (R270), and for an aperture its member entries as they stood at the map, with the numbers of the
pages that they name (R378). -/
structure Page where
  entry : BitVec 64
  members : List (BitVec 64)
  names : List Nat
deriving DecidableEq, Repr

/-- What waits on a page-fault record (R273): threads of a wave at an instruction, with `FAULTINFO`, `FAULTADDR` and
the instruction's length, or a request parked at this package (R383). -/
inductive FaultWaiter where
  | threads (wid : WaveId) (lanes : List Nat) (info : BitVec 32) (addr : BitVec 64) (len : Nat)
  | parked (id : Nat)
deriving DecidableEq, Repr

/-- An unanswered page fault of a context (R273): its tag, its 64 KiB page, its record, whether the record has been
written to the ring, and its waiters. -/
structure PageFault where
  tag : Nat
  page : Nat
  record : List Byte
  written : Bool
  waiters : List FaultWaiter
deriving DecidableEq, Repr

/-- A context's registers and tables (R154, R155, R269, R379, R404, R447). -/
structure Ctx where
  st : CtxState
  func : BitVec 5
  ctxpt : BitVec 64
  ctxpool : BitVec 64
  ctxpoolsz : BitVec 64
  ctxsig : BitVec 64
  ctxsign : BitVec 64
  ctxcset : BitVec 64
  ctxlog : BitVec 64
  ctxlogn : BitVec 64
  ctxlogwr : BitVec 32
  ctxlogrd : BitVec 32
  ctxmap : BitVec 64
  preemptok : Bool
  rerr : Bool
  yielded : Bool
  resetting : Bool
  pectx : BitVec 64
  pestat : BitVec 64
  ptva : BitVec 64
  ptent : BitVec 64
  ptop : BitVec 2
  /-- The operation that `PTCMD.GO` started and that has not ended (R269). -/
  ptbusy : Bool
  ptresult : BitVec 8
  /-- The page that an unmap has removed, until every access through it has been performed (R271). -/
  unmapping : Option Page
  pfbase : BitVec 64
  pfctl : BitVec 32
  pfwr : BitVec 32
  pfrd : BitVec 32
  /-- What `PFREPLY` was last written; no read returns it (R269, R448). -/
  pfreply : BitVec 64
  aptbase : BitVec 64
  aptctl : BitVec 64
  /-- Shadow areas reserved on each quad and on each die where the context has blocks, in 64 KiB units (R146). -/
  quadArea : Map Nat
  dieArea : Map Nat
  /-- Mapped pages by virtual address divided by 64 KiB (R270). -/
  pages : Map Page
  faults : List PageFault
deriving DecidableEq, Repr

/-- A work queue's registers (R129 to R131) and its owner (R127). -/
structure Queue where
  func : BitVec 5
  wqbase : BitVec 64
  /-- `WQCTL`, with `CTX` as a global context number, or as it was written when it named no context of the function (`unbound`). -/
  wqctl : BitVec 64
  unbound : Bool
  wqwr : BitVec 32
  wqrd : BitVec 32
  erridx : BitVec 32
  errcode : BitVec 8
  cdec : Bool
  err : Bool
  /-- The launch of this queue that is in placement (R132). -/
  placing : Option Nat
  /-- The launch or packet taken before, while it has not completed (R136). -/
  prev : Option Nat
deriving DecidableEq, Repr

/-- Progress of a launch (R136, R137, R140). -/
inductive LaunchState where
  | waiting | ready | placed | done | ended
deriving DecidableEq, Repr

/-- A launch or NOP packet that the front end has taken (R133 to R141). -/
structure Launch where
  ctx : Nat
  queue : Nat
  /-- Packet index in its queue. -/
  idx : BitVec 32
  prio : Nat
  packet : BitVec 512
  desc : BitVec 512
  gx : Nat
  gy : Nat
  gz : Nat
  st : LaunchState
  /-- The packet before it in its queue, when `ORDER` is set and it has not completed (R136). -/
  after : Option Nat
  /-- The launches of its staged group (R142). -/
  group : List Nat
  /-- Next cluster to consider (R138). -/
  next : Nat
  /-- Largest count read (R140). -/
  count : Nat
  /-- The count of the cluster under consideration has been read (R140). -/
  considered : Bool
  /-- Since when its next cluster has found no room, in nanoseconds (R139). -/
  since : Option Nat
  /-- Slots left by EXIT.CHAIN that a block may take over: the block that left each (R145). -/
  chainSlots : List Nat
  /-- A block found no fitting core, so chained blocks take over slots from now on (R145). -/
  chaining : Bool
deriving DecidableEq, Repr

/-- Where a lane of a long-latency producer gets its value (R28, R108). (DEDUCED, log 28.) -/
inductive LaneSrc where
  /-- The value is known. -/
  | known (v : Nat)
  /-- Bytes that a plain load has still to read, least significant first; `bypass` skips the clean copies (R276). -/
  | read (at_ : List Loc) (bypass : Bool)
  /-- Member elements that an FMLD has still to read at their homes and reduce (R381). -/
  | reduce (op : Nat) (ty : Ty) (members : List (List Loc))
  /-- An answer that has not come. -/
  | pending
deriving DecidableEq, Repr

/-- What performs a producer's request (R28). -/
inductive ProdKind where
  | load | atomic | mside | fmld | pop | remote
deriving DecidableEq, Repr

/-- A long-latency producer in flight (R28, R32, R35). -/
structure Producer where
  kind : ProdKind
  wid : WaveId
  ctx : Nat
  /-- Operand code of the destination register; for a queue destination, the ring elements by lane (R364). -/
  dest : Nat
  /-- Registers of the destination from `dest` upwards, and the type of the result. -/
  n : Nat
  ty : Ty
  lanes : Map LaneSrc
  elems : Map Nat
  /-- Cache hint of a load (R276), and the flags that become visible with the result (R181). -/
  hint : Nat
  flags : Nat
  /-- The lanes that issued it (R36). -/
  issuers : List Nat
  /-- When its request was sent, in nanoseconds (R384). -/
  sent : Nat
deriving DecidableEq, Repr

/-- One lane's memory-side atomic that the engine has accepted and not performed (R358): the instruction that it belongs to,
and the destination register of its old value. -/
structure MsReq where
  wid : WaveId
  group : Nat
  lane : Nat
  place : Place
  ty : Ty
  op : Nat
  b : Nat
  c : Nat
  dest : Option Nat
  /-- When it was sent, in nanoseconds (R384). -/
  sent : Nat
deriving DecidableEq, Repr

/-- A member of a shard map (R385). -/
structure Shard where
  base : Nat
  str1 : Nat
  str2 : Nat
  ext : Nat
deriving DecidableEq, Repr

/-- A shard map: the split axis and its members. -/
structure ShardMap where
  axis : Nat
  members : List Shard
deriving DecidableEq, Repr

/-- An accepted FPERM or PPERM (R386, R387, R413): the tensor's extents and element size, its maps, where the source pages lie, the source
bytes read so far by their places in the tensor, the pieces (elements) that have landed or failed, and when each piece that
has been heard of was last heard of. (DEDUCED, log 48.) -/
structure Fperm where
  wid : WaveId
  /-- The lanes that issued it (R36). -/
  issuers : List Nat
  core : Nat
  token : Nat
  level : Nat
  es : Nat
  ext0 : Nat
  ext1 : Nat
  ext2 : Nat
  src : ShardMap
  dst : ShardMap
  map : List (Nat × Place)
  got : Map Nat
  landed : List Nat
  heard : Map Nat
  bar : Option Loc
  code : Nat
  /-- When it was accepted, in nanoseconds, and the number of its issue. -/
  sent : Nat
  ticket : Nat
  /-- It is a PPERM (R413): the bytes it moves, and whether they have been credited. -/
  perm : Option (Nat × Bool)
deriving DecidableEq, Repr

/-- What is parked at its target: a piece of an FPERM, or a remote entry of another package (R383). -/
inductive ParkReq where
  | piece (fperm piece : Nat)
  | remote (id : Nat)
deriving DecidableEq, Repr

/-- A parked request (R383): its context, the die in whose fault queue it is, when the last keep-waiting notice left, and whether one is on its way. -/
structure Parked where
  ctx : Nat
  die : Nat
  req : ParkReq
  since : Nat
  notice : Bool
deriving DecidableEq, Repr

/-- A commit or an abort in progress (R94, R106): the wave, the threads that it holds, and the issues of the remote writes whose
acknowledgements it awaits. -/
structure CommitOp where
  wid : WaveId
  lanes : List Nat
  abort : Bool
  level : Nat
  awaits : List Nat
  /-- When it was issued, in nanoseconds, and whether its data is held at its level (R94, R384). -/
  sent : Nat
  held : Bool
deriving DecidableEq, Repr

/-- A remote access that has not been answered (R403, R405): its context, the wave that issued it, the number of the issue of its
instruction, by which a `.pod` commit of the block waits for it when it is a write, the target package, the destination register
of a PRD or PATOM, the PPERM that it belongs to, and the rotations counted and the time in the rotation when it was last heard of. -/
structure Remote where
  ctx : Nat
  blk : Nat
  wid : WaveId
  write : Bool
  peer : Nat
  dest : Option Nat
  perm : Option Nat
  ticket : Nat
  heard : Nat × Nat
deriving DecidableEq, Repr

/-- What the device sends to the outside: to the host (R137, R273, R439), and flits on its ports (R419). (DESIGN CHOICE, log 4.) -/
inductive Out where
  /-- An MSI-X vector of a function (0: the physical function). -/
  | msix (func vec : Nat)
  /-- Bytes written to host memory. -/
  | host (addr : Nat) (bytes : List Byte)
  /-- A flit on a port: the channel of its lanes, and its 16-byte units, each with its lane (R417, R420). -/
  | flit (port channel : Nat) (units : List (Nat × List Byte))
deriving DecidableEq, Repr

end Sys2Proof.Machine
end

