-- ==== Sys2Proof/Machine/PortTypes.lean ====
section
/-! DEFINITION. The state of the calendar, of the port engine's queues and streams, and of the optical ports, as plain data (spec/14_port_engine.md, 15_optical_circuits.md). -/

namespace Sys2Proof.Machine

open Sys2Proof

/-- A remote access (R396, R410 to R413): a write with the bytes of its whole entry and its barrier object, a signal, or a
request with its lanes; an answer carries the lanes' values of `size` bytes. -/
inductive RemOp where
  | write (ga total : Nat) (bar : Option Nat)
  | arrive (ga : Nat)
  | add (ga v : Nat)
  | read (size : Nat) (lanes : List (Nat × Nat))
  | atomic (ty : Ty) (op : Nat) (lanes : List (Nat × Nat × Nat × Nat))
  | answer (size : Nat) (vals : List (Nat × Nat))
deriving DecidableEq, Repr

/-- What a piece's header says (R395, R396, R404): the access, the source and the final destination package, the class, the
tag, the number that the source gave the access, and the offset of the piece's data in the entry. -/
structure PieceHead where
  op : RemOp
  src : Nat
  dst : Nat
  cls : Nat
  tag : BitVec 16
  id : Nat
  ofs : Nat
deriving DecidableEq, Repr

/-- Part of a piece as one flit carries it: `start` says that the piece's header is in it. -/
structure Seg where
  head : PieceHead
  data : List Byte
  start : Bool
deriving DecidableEq, Repr

/-- A control record (R392, R401, R403, R405, R421, R422, R404). -/
inductive Ctl where
  | acks (ids : List Nat)
  | failed (id code : Nat)
  | credit (dest amount : Nat)
  | waiting (id : Nat)
  | propose (port : Nat) (lanes : BitVec 16)
  | answer (port : Nat) (lanes : BitVec 16) (seq : BitVec 32)
  | flits (below : BitVec 32) (missing : List (BitVec 32))
deriving DecidableEq, Repr

/-- An entry of a queue (R395): its header, whose offset is that of the first byte not yet sent, its context, whether it may
be detoured, its data not yet sent, whether a piece of it has left, the rotation and the time in it at which it was enqueued, the
bytes of queue space that it took as it came, and the package that sent it here (for a transit entry). -/
structure VEntry where
  head : PieceHead
  ctx : Nat
  any : Bool
  data : List Byte
  started : Bool
  since : Nat × Nat
  space : Nat
  sender : Nat
deriving DecidableEq, Repr

/-- The queue towards a peer whose head is being sent (R397, R400). -/
inductive QKey where
  | resp (cls : Nat)
  | transit (cls : Nat)
  | virt (cls : Nat)
  | detour (cls : Nat)
deriving DecidableEq, Repr

/-- The piece being sent: its queue, the header bytes and the data bytes still to leave, and the data bytes of an unfinished
32-byte unit that have left (R399). -/
structure Cur where
  key : QKey
  headLeft : Nat
  left : Nat
  pend : Nat
deriving DecidableEq, Repr

/-- A stream flit that has not been acknowledged (R421): its number, its body, and the windows closed since it was sent. -/
structure SentFlit where
  seq : BitVec 32
  body : List Byte
  age : Nat
deriving DecidableEq, Repr

/-- What a package keeps for each peer (R397 to R403, R419 to R421): the stream in both directions, the piece being sent, the
responses, detoured entries and control records for the peer, the data bytes used of each class's budget, and the transit
credit in use by destination. -/
structure Stream where
  seq : BitVec 32
  sent : List SentFlit
  /-- Flits to be sent again in the next window, and in the open one (R421). -/
  resend : List (BitVec 32)
  again : List (BitVec 32)
  rxNext : BitVec 32
  rxHeld : List (BitVec 32 × List Byte)
  cur : Option Cur
  resps : List VEntry
  detours : List VEntry
  /-- Records ready to be sent, and records that wait for the next window's opening (R431). -/
  ctl : List Ctl
  owed : List Ctl
  used : Map Nat
  credit : Map Nat
deriving DecidableEq, Repr

/-- The cached profile of a lane for a peer (R425): the equaliser setting, the clock phase and the channel. -/
structure Profile where
  equaliser : BitVec 32
  phase : BitVec 32
  channel : Nat
deriving DecidableEq, Repr

/-- A port (R417, R418, R425, R428): the peer of the current slot, whether it is a leap slot, whether its window is open,
whether its opening control flit is still to come (R431), the 16-byte units sent and received in the window (R420),
whether the receiving direction is dark in this slot, the detoured data of the slot, and its registers and maps. -/
structure Port where
  peer : Option Nat
  leap : Bool
  opened : Bool
  fresh : Bool
  txUnit : Nat
  rxUnit : Nat
  dark : Bool
  /-- Flits that came before it was known, 8 ns after the vigil, whether the lanes have locked: none once that is known (R425). -/
  early : Option (List (List Byte))
  /-- Peers whose direction towards this port was dark in the last slot that joined them (R423). -/
  rxdark : List Nat
  detoured : Nat
  txfault : BitVec 16
  rxlos : BitVec 16
  evt : Bool
  feccor : BitVec 32
  fecunc : BitVec 32
  resend : BitVec 32
  eyesel : BitVec 32
  eyevalid : Bool
  eyemargin : BitVec 8
  /-- Transmit and receive maps, stale profiles, lanes with a low margin and lanes retrained and ready, by peer. -/
  txmap : Map (BitVec 16)
  rxmap : Map (BitVec 16)
  /-- The maps before, by peer, newest first, each with the first stream flit under the map that followed it (R422). -/
  txold : Map (List (BitVec 32 × BitVec 16))
  rxold : Map (List (BitVec 32 × BitVec 16))
  /-- Cached profiles by 16 × peer + lane, and those loaded for the slot by lane (R425). -/
  profiles : Map Profile
  loaded : Map Profile
  stale : Map (BitVec 16)
  low : Map (BitVec 16)
  ready : Map (BitVec 16)
  /-- Receive maps proposed and not answered (R422). -/
  proposed : Map (BitVec 16)
  darkRun : Map Nat
  darkTotal : Map Nat
deriving DecidableEq, Repr

/-- A piece or part of a piece that has arrived for this package and has not been performed (R402, R404): `direct` says that
it came straight from its source; `ctx` is the issuing context of an access of this package to itself. -/
structure InEntry where
  seg : Seg
  direct : Bool
  ctx : Option Nat
deriving DecidableEq, Repr

/-- Bytes of an arrived entry that have landed, by source package and number. -/
structure Landed where
  src : Nat
  id : Nat
  n : Nat
deriving DecidableEq, Repr

/-- A part of a piece for another package, with the package that sent it here (R401). -/
structure TransitIn where
  sender : Nat
  seg : Seg
deriving DecidableEq, Repr

/-- The calendar (R388 to R393): lock, offset, losses, `ALMCFG`, `ALMSTG`, the fields of `ALMNEXT`, `ALMEPOCH`, the banks by
byte, the rotation that began at pod time `base`, the current slot as the ports know it, the rotation at which the configuration
came into force, and, for timeouts (R388), the rotations begun when lock was lost and those begun without lock. -/
structure Calendar where
  locked : Bool
  ofs : BitVec 8
  lost : BitVec 8
  cfg : BitVec 32
  stg : BitVec 32
  go : Bool
  err : Bool
  next : BitVec 48
  epoch : BitVec 64
  active : Map Byte
  staged : Map Byte
  rot : Nat
  base : Nat
  slot : Nat
  first : Nat
  lostAt : Nat
  skipped : Nat
deriving DecidableEq, Repr

/-- The port engine (R395 to R405, R427). -/
structure PortEngine where
  pevqBase : BitVec 29
  pevqLog : BitVec 5
  pevqAct : Bool
  pevqRef : Bool
  pebud : BitVec 64
  peany : BitVec 64
  petmo : BitVec 32
  opcfg : BitVec 32
  /-- Virtual queues by 4 × destination + class, and transit queues by destination. -/
  virt : Map (List VEntry)
  transit : Map (List VEntry)
  streams : Map Stream
  ports : Map Port
  inbox : Map InEntry
  landed : List Landed
  transitIn : Map TransitIn
  /-- Rotations that began under earlier configurations of the calendar (R405, R414). -/
  rotations : Nat
deriving DecidableEq, Repr

end Sys2Proof.Machine

namespace Sys2Proof.Config

open Sys2Proof Machine

/-- The layouts of piece headers, of flit bodies and of control records, which the spec does not state (R395, R419, R431): the
body that carries some parts of pieces, and what a received body carries. (DESIGN CHOICE, log 8.) -/
opaque segBytes : List Seg → List Byte
/-- (DESIGN CHOICE, log 8.) -/
opaque segsOf : List Byte → List Seg
/-- A control record, with the stream flits below which all have decoded and the missing ones, which each record gives (R421);
16 bytes of it are sent (R431). (DESIGN CHOICE, log 8.) -/
opaque ctlRecord : BitVec 32 → List (BitVec 32) → Ctl → List Byte
/-- The acknowledgement of stream flits in a received control body: the number below which all have decoded, and the missing
ones (R421). (DESIGN CHOICE, log 8.) -/
opaque flitAck : List Byte → Option (BitVec 32 × List (BitVec 32))

end Sys2Proof.Config
end

