-- ==== Sys2Proof/Machine/HealthTypes.lean ====
section
/-! DEFINITION. The state of the management controller, of the monitors and of the dispatcher's front end, as plain data (spec/17_bringup_health.md, 04_dispatcher.md R138, R139, R143). -/

namespace Sys2Proof.Machine

open Sys2Proof

/-- The record of a start step (R441), kept in flash. -/
structure StepRec where
  code : Nat
  mode : Nat
  fails : Nat
deriving DecidableEq, Repr

/-- The management controller and the monitors (R432 to R445, R143). -/
structure Health where
  /-- `STARTSTAT` (R440). -/
  state : Nat
  step : Nat
  linkdn : Bool
  podout : Bool
  dieout : Bool
  hbmout : Bool
  /-- Step records by step (R441), and image slots (0 A, 1 B): bytes that differ from 0xFF (R437). -/
  recs : Map StepRec
  slots : Map (Map Byte)
  /-- Fused minimum security version (R435). -/
  minSvn : Nat
  /-- `MCFW` of the running image and its digest (R436, R439). -/
  mcfw : BitVec 32
  digest : List Byte
  /-- The image mailbox (R437): `OP`, `LEN`, `MBARG`, an operation in progress, the result that it has found, the last result. -/
  mbop : Byte
  mblen : BitVec 17
  mbarg : BitVec 64
  busy : Bool
  found : Option Nat
  result : Nat
  mbbuf : Map Byte
  /-- `PLACECFG` (R143); measured temperatures by core, cores excluded by temperature, cores removed as faulty (R442). -/
  placecfg : BitVec 32
  temps : Map (BitVec 8)
  hot : List Nat
  faulty : List Nat
  /-- By die: the ring-oscillator frequency measured at start, droop events, time of the last one, throttle step, time of its last change, and the dies out of service (R442,
  R443). -/
  rosc : Map (BitVec 16)
  droops : Map Nat
  droopNs : Map Nat
  clkstep : Map Nat
  clkNs : Map Nat
  out : List Nat
  /-- `PWRSTAT` (R445), and whether the package is held in reset. -/
  pkgw : BitVec 16
  vin : Byte
  held : Bool
deriving DecidableEq, Repr

/-- The front end (R138, R139): the queue served last at each priority, and the context whose save a priority pre-emption
awaits. -/
structure FrontEnd where
  served : Map Nat
  saving : Option Nat
deriving DecidableEq, Repr

end Sys2Proof.Machine
end

