-- ==== Sys2Proof/Machine/State.lean ====
section
/-! DEFINITION. The state of the package as plain data, the machine after reset, and the reasons a step can stop. INVENTORY.md lists every field with its rule. -/

namespace Sys2Proof.Machine

open Sys2Proof

/-- What one wave asks of an engine: the participating lanes, what it read at issue, the lanes that have finished, and
whether the engine has answered it. -/
structure PendWave where
  wid : WaveId
  lanes : List Nat
  /-- Values of the operands A, B and C by lane. -/
  ops : Map (List Nat)
  /-- The tensor records as they stood at issue (R43). -/
  trs : List (BitVec 256)
  /-- What the engine has begun for it while it waits for room. -/
  ready : Option Part
  done : List Nat
  /-- The lanes that `DONEMASK` excluded when it issued (R177), and the live masks of its destinations before the issue (R206). -/
  prev : BitVec 64
  was : Map (BitVec 64)
  /-- The number of its issue, by which a `.pod` commit waits for the remote writes that come of it (R93, R403). -/
  ticket : Nat
  /-- The cycle of its issue (R337, R343). -/
  issued : Nat
  answered : Bool
  /-- The producer whose result it keeps its slot for (R366). -/
  await : Option Nat
  /-- Its threads stand after the instruction already. -/
  passed : Bool
  /-- Its elements were gone when the engine took the request: its threads sleep on the ring, at the instruction (R365). -/
  slept : Bool
  /-- The trap that it takes. -/
  refusal : Option Trap
deriving DecidableEq, Repr

/-- What some lanes of a wave ask of an engine, before anything is said of it. -/
def PendWave.fresh (w : WaveId) (lanes : List Nat) : PendWave :=
  { wid := w, lanes := lanes, ops := [], trs := [], ready := none, done := [], prev := 0, was := [], ticket := 0, issued := 0
    answered := false, await := none, passed := false, slept := false, refusal := none }

/-- A request that an issue slot has handed to an engine and that the engine has not accepted (R27). -/
structure Pend where
  instr : Instr
  waves : List PendWave
deriving DecidableEq, Repr

/-- An issue slot (R163): its run, a request waiting for acceptance, and the launch it served last (R166). -/
structure Slot where
  run : Option Run
  pend : Option Pend
  last : Nat
  /-- The context and the number of the fetch block that it last missed in the cache, and when, in nanoseconds (R45, R384). -/
  miss : Option (Nat × Nat × Nat) := none
deriving DecidableEq, Repr

/-- A core (R161, R163, R45, R92). -/
structure Core where
  slots : Map Slot
  /-- The gathering table, oldest entry first. -/
  table : List Entry
  /-- Fetch blocks by context and block number (R45). -/
  icache : List (Nat × Nat × List Byte)
  /-- Clean copies, most recently used first. -/
  cleans : List Clean
  /-- The barrier file, and the threads in BWAIT that wait for one of its 32 entries (R308). -/
  bfile : List BEntry
  bqueue : List ThreadId
  /-- The cycle and the slot of the last issue on the core (R171). -/
  acted : Option (Nat × Nat)
  mx : Matrix
deriving DecidableEq, Repr

/-- What the next move of the machine is: an issue slot, a step of an engine or of the outside, or a write of home memory by the
host (R132). (DESIGN CHOICE, log 1; DEDUCED, log 70.) -/
inductive Act where
  | issue (core slot : Nat)
  | event (i : Instr)
  | hostWrite (addr : Nat) (bytes : List Byte)
deriving DecidableEq, Repr

/-- A move and the time that passes before it. (DESIGN CHOICE, log 1, 2.) -/
structure Move where
  ns : Nat
  cycles : Nat
  act : Act
deriving DecidableEq, Repr

/-- The package. -/
structure State where
  /-- Home memory by physical address (R18, R19, R371). -/
  mem : List Host.Cell
  blocks : Map Block
  cores : Map Core
  ctxs : Map Ctx
  queues : Map Queue
  /-- Every queue that `queues` does not list (R127, R135). -/
  queueRest : Queue
  launches : Map Launch
  /-- Records of levels 1 to 3, newest first (R90). -/
  recs : List Rec
  /-- Race-detector shadow entries by sector number (R122). -/
  shadows : Map Shadow
  /-- Change filters by level and unit, windows newest first (R100): key = level + 8 * unit. -/
  filters : Map (List Window)
  /-- Barrier objects that BINIT has initialised (R300, R307), and rings that QBIND has initialised, with their
  n (R361, R362). -/
  barObjs : List Loc
  ringObjs : List (RingRef × Nat)
  /-- Waiting ring reservations, oldest first (R365), and elements in flight by number (R364). -/
  ringWaits : List RingWait
  ringElems : Map RingElem
  producers : Map Producer
  commits : Map CommitOp
  remotes : Map Remote
  copies : Map Copy
  batches : Map Batch
  credits : Map Credit
  arrivals : Map Arrival
  notices : Map Notice
  msts : Map Mst
  msReqs : Map MsReq
  fperms : Map Fperm
  parked : Map Parked
  /-- `SFCFG` (R384). -/
  sfcfg : BitVec 32
  cal : Calendar
  pe : PortEngine
  /-- Entries of PPERMs that have not entered their queues, by PPERM (R395, R413). -/
  permSends : Map (List VEntry)
  mc : Health
  fe : FrontEnd
  /-- Matrix engines of saved blocks (R352). -/
  mxSaved : Map Matrix
  /-- PKGID assigned at calends lock (R388). -/
  pkgid : Option Nat
  /-- Pod time estimate in nanoseconds (R393). -/
  podTime : BitVec 64
  /-- The model's own field: the moves that come next (DESIGN CHOICE, log 1, unsafe). -/
  agenda : List Move
  /-- The model's own field: the issue slot that acts when the agenda is empty (DESIGN CHOICE, log 1, unsafe). -/
  cur : Nat × Nat
  /-- Core cycles and nanoseconds passed (DESIGN CHOICE, log 2, safe). -/
  cycle : Nat
  ns : Nat
  /-- The model's own field: the number of the next block, launch or request (DESIGN CHOICE, log 1; DEDUCED, log 72). -/
  nextId : Nat
  /-- The model's own field: free values taken so far; the next is Config.freeValue of this number (DESIGN CHOICE, log 3, safe). -/
  free : Nat
  /-- What was sent to the outside, which nothing reads (DESIGN CHOICE, log 4, safe). -/
  out : List Out
deriving DecidableEq, Repr

/-- The machine stops with a fault. No step of this part does: traps, page faults, context faults and queue errors are
next states (R4, R175). The type has no value, which is safe. (DEDUCED, log 6.) -/
inductive Fault where
deriving DecidableEq, Repr

/-- The machine refuses an instruction. (DEDUCED, log 6.) -/
inductive Refusal where
  /-- An instruction whose meaning has not been written: exec's arms raise it, by name; safe. -/
  | notModelled (mnemonic : String)
deriving DecidableEq, Repr

/-- A context after reset (R154, R155, R269). (DESIGN CHOICE, log 10.) -/
def Ctx.reset : Ctx where
  st := .idle
  func := 0
  ctxpt := 0
  ctxpool := 0
  ctxpoolsz := 0
  ctxsig := 0
  ctxsign := 0
  ctxcset := 0
  ctxlog := 0
  ctxlogn := 0
  ctxlogwr := 0
  ctxlogrd := 0
  ctxmap := 0
  preemptok := false
  rerr := false
  yielded := false
  resetting := false
  pectx := 0
  pestat := 0
  ptva := 0
  ptent := 0
  ptop := 0
  ptbusy := false
  ptresult := 0
  unmapping := none
  pfbase := 0
  pfctl := 0x600
  pfwr := 0
  pfrd := 0
  pfreply := 0
  aptbase := 0
  aptctl := 0
  quadArea := []
  dieArea := []
  pages := []
  faults := []

/-- A queue after reset (R127, R130, R131). -/
def Queue.reset : Queue where
  func := 0
  wqbase := 0
  wqctl := 0x40000
  unbound := false
  wqwr := 0
  wqrd := 0
  erridx := 0
  errcode := 0
  cdec := false
  err := false
  placing := none
  prev := none

/-- The calendar after reset (R389, R391). (DESIGN CHOICE, log 10.) -/
def Calendar.reset : Calendar where
  locked := false
  ofs := 0
  lost := 0
  cfg := 0x180A0100
  stg := 0x180A0100
  go := false
  err := false
  next := 0
  epoch := 0
  active := []
  staged := []
  rot := 0
  base := 0
  slot := 0
  first := 0
  lostAt := 0
  skipped := 0

/-- The port engine after reset (R395, R398, R400, R405, R427). (DESIGN CHOICE, log 10.) -/
def PortEngine.reset : PortEngine where
  pevqBase := 0
  pevqLog := 17
  pevqAct := false
  pevqRef := false
  pebud := 0
  peany := 0x40000200
  petmo := 8
  opcfg := 0x20020002
  virt := []
  transit := []
  streams := []
  ports := []
  inbox := []
  landed := []
  transitIn := []
  rotations := 0

/-- The management controller after reset (R437, R440 to R445). (DESIGN CHOICE, log 10.) -/
def Health.reset : Health where
  state := 0
  step := 0
  linkdn := false
  podout := false
  dieout := false
  hbmout := false
  recs := []
  slots := []
  minSvn := 0
  mcfw := 0
  digest := []
  mbop := 0
  mblen := 0
  mbarg := 0
  busy := false
  found := none
  result := 0
  mbbuf := []
  placecfg := 0x5F60
  temps := []
  hot := []
  faulty := []
  rosc := []
  droops := []
  droopNs := []
  clkstep := []
  clkNs := []
  out := []
  pkgw := 0
  vin := 0
  held := false

/-- A port after reset (R418, R428). -/
def Port.reset : Port where
  peer := none
  leap := false
  opened := false
  fresh := false
  txUnit := 0
  rxUnit := 0
  dark := false
  early := none
  rxdark := []
  detoured := 0
  txfault := 0
  rxlos := 0
  evt := false
  feccor := 0
  fecunc := 0
  resend := 0
  eyesel := 0
  eyevalid := false
  eyemargin := 0
  txmap := []
  rxmap := []
  txold := []
  rxold := []
  profiles := []
  loaded := []
  stale := []
  low := []
  ready := []
  proposed := []
  darkRun := []
  darkTotal := []

/-- The stream with a peer at the start. (DESIGN CHOICE, log 10.) -/
def Stream.reset : Stream where
  seq := 0
  sent := []
  resend := []
  again := []
  rxNext := 0
  rxHeld := []
  cur := none
  resps := []
  detours := []
  ctl := []
  owed := []
  used := []
  credit := []

/-- An issue slot after reset. (DESIGN CHOICE, log 10.) -/
def Slot.reset : Slot := { run := none, pend := none, last := 0 }

/-- A matrix engine that no block holds. -/
def Matrix.free : Matrix := { holder := none, releasing := false, acc := [], flags := 0, queue := [] }

/-- A core after reset. -/
def Core.reset : Core where
  slots := []
  table := []
  icache := []
  cleans := []
  bfile := []
  bqueue := []
  acted := none
  mx := Matrix.free

/-- A thread as placed at an entry point (R160). -/
def Thread.placed (pc : DWord) (now : Nat) : Thread where
  pc := pc
  preds := 0
  live := true
  wait := .ready
  handler := false
  resume := false
  yielded := false
  since := now
  slot := 4
  ready := now
  fence := none
  rel := none
  priv := []

/-- The thread that a table does not list. -/
def Thread.absent : Thread := { Thread.placed 0 0 with live := false }

/-- A wave as placed, without its threads (R160, R181, R201, R203). -/
def Wave.placed (role : Role) (order : Nat) : Wave where
  scalars := []
  sEmpty := []
  vregs := []
  wstat := 0
  fstat := 0
  faultinfo := 0
  faultaddr := 0
  donemask := 0
  epc := 0
  trapvec := 0
  role := role
  lvl0 := []
  interval := 0
  reads := []
  starts := []
  restoredOpen := false
  batch := none
  order := order
  threads := []

/-- A block without waves (R144). -/
def Block.placed (ctx launch core pos : Nat) : Block where
  ctx := ctx
  launch := launch
  bx := 0
  by_ := 0
  bz := 0
  blin := 0
  cluster := 0
  rank := 0
  core := core
  pos := pos
  resident := true
  waves := []
  recs := []
  recStat := []
  scratch := []
  tags := []
  banks := []
  cvs := []
  queues := []
  drops := []
  chained := []
  exited := false

/-- A launch of a kernel descriptor. -/
def Launch.ofDesc (ctx queue : Nat) (packet desc : BitVec 512) : Launch where
  ctx := ctx
  queue := queue
  idx := 0
  prio := 0
  packet := packet
  desc := desc
  gx := 1
  gy := 1
  gz := 1
  st := .placed
  after := none
  group := []
  next := 0
  count := 0
  considered := false
  since := none
  chainSlots := []
  chaining := false

/-- The package right after reset: nothing is resident, memory lists nothing. (DESIGN CHOICE, log 10.) -/
def State.reset : State where
  mem := []
  blocks := []
  cores := []
  ctxs := []
  queues := []
  queueRest := Queue.reset
  launches := []
  recs := []
  shadows := []
  filters := []
  barObjs := []
  ringObjs := []
  ringWaits := []
  ringElems := []
  producers := []
  commits := []
  remotes := []
  copies := []
  batches := []
  credits := []
  arrivals := []
  notices := []
  msts := []
  msReqs := []
  fperms := []
  parked := []
  sfcfg := 20
  cal := Calendar.reset
  pe := PortEngine.reset
  permSends := []
  mc := Health.reset
  fe := { served := [], saving := none }
  mxSaved := []
  pkgid := none
  podTime := 0
  agenda := []
  cur := (0, 0)
  cycle := 0
  ns := 0
  nextId := 1
  free := 0
  out := []

end Sys2Proof.Machine
end

