-- ==== Sys2Proof/Machine/Ops.lean ====
section
/-! DEFINITION. Named operations on the state: home memory, contexts, threads, waves and registers, waking, the end of a context, taking a trap and returning from one. -/

namespace Sys2Proof.Machine

open Sys2Proof

/-! ### Accesses of the host -/

/-- No register but those of the management controller responds: a start ended in RECOVERY (R434), or the package is held in
reset (R445). -/
def State.deaf (s : State) : Bool := s.mc.held || decide (s.mc.state = 3)

/-- What a register access of the host does, unless the register does not respond. -/
def State.host (s t : State) : State := if s.deaf then s else t

/-! ### Home memory -/

/-- What an address that the memory does not list reads as: memory not written since the start reads zero (R371). (DEDUCED, log 9.) -/
def Memory.fill : Byte := 0

/-- One byte of a memory. (DEDUCED, log 9.) -/
def Memory.get : List Host.Cell → Nat → Byte
  | [], _ => Memory.fill
  | (a', b) :: t, a => if a = a' then b else Memory.get t a

/-- The memory with one byte written, in canonical form. (DEDUCED, log 9.) -/
def Memory.put : List Host.Cell → Nat → Byte → List Host.Cell
  | [], a, b => if b = Memory.fill then [] else [(a, b)]
  | (a', b') :: t, a, b =>
    if a < a' then (if b = Memory.fill then (a', b') :: t else (a, b) :: (a', b') :: t)
    else if a = a' then (if b = Memory.fill then t else (a, b) :: t)
    else (a', b') :: Memory.put t a b

/-- Addresses above `lo` that rise strictly, and no byte equal to what an unlisted address reads as. -/
def Memory.wfFrom : Nat → List Host.Cell → Bool
  | _, [] => true
  | lo, (a, b) :: t => decide (lo ≤ a) && decide (b ≠ Memory.fill) && Memory.wfFrom (a + 1) t

/-- The canonical form of a memory. (DEDUCED, log 9.) -/
def Memory.wf (m : List Host.Cell) : Bool := Memory.wfFrom 0 m

/-- One byte of home memory. (DEDUCED, log 9.) -/
def State.memByte (s : State) (a : Nat) : Byte := Memory.get s.mem a

/-- Home memory with one byte written. (DEDUCED, log 9.) -/
def State.setMemByte (s : State) (a : Nat) (b : Byte) : State := { s with mem := Memory.put s.mem a b }

/-- `n` bytes of home memory from `a` as a little-endian number (R7). -/
def State.memNat (s : State) (a n : Nat) : Nat := ofBytes ((rangeFrom a n).map s.memByte)

/-- Home memory with bytes written from `a` upwards. -/
def State.setMemBytes (s : State) (a : Nat) : List Byte → State
  | [] => s
  | b :: t => State.setMemBytes (s.setMemByte a b) (a + 1) t

/-- The host writes home memory at a physical address: the bytes are at `.pkg` when the write is performed (R132). A write
that reaches an address that does not exist (R19) changes nothing. (DEDUCED, log 70.) -/
def State.hostWrite (s : State) (a : Nat) (bs : List Byte) : State :=
  if a + bs.length ≤ Config.memTop then s.setMemBytes a bs else s

/-! ### Parts of the state -/

/-- A block that no table lists. -/
def Block.absent : Block := { Block.placed 0 0 0 0 with resident := false }

def State.blk (s : State) (b : Nat) : Block := mget Block.absent s.blocks b
def State.updBlk (s : State) (b : Nat) (f : Block → Block) : State :=
  { s with blocks := mput s.blocks b (f (s.blk b)) }

/-- A wave that no table lists. -/
def Wave.absent : Wave := Wave.placed .general 0

def State.wave (s : State) (w : WaveId) : Wave := mget Wave.absent (s.blk w.blk).waves w.wv
def State.updWave (s : State) (w : WaveId) (f : Wave → Wave) : State :=
  s.updBlk w.blk fun b => { b with waves := mput b.waves w.wv (f (mget Wave.absent b.waves w.wv)) }

def ThreadId.wid (t : ThreadId) : WaveId := { blk := t.blk, wv := t.wv }
def WaveId.thread (w : WaveId) (lane : Nat) : ThreadId := { blk := w.blk, wv := w.wv, lane := lane }

def State.thread (s : State) (t : ThreadId) : Thread := mget Thread.absent (s.wave t.wid).threads t.lane
def State.updThread (s : State) (t : ThreadId) (f : Thread → Thread) : State :=
  s.updWave t.wid fun w => { w with threads := mput w.threads t.lane (f (mget Thread.absent w.threads t.lane)) }

/-- Change each of some threads of a wave. -/
def State.updThreads (s : State) (w : WaveId) (lanes : List Nat) (f : Thread → Thread) : State :=
  lanes.foldl (fun s l => s.updThread (w.thread l) f) s

/-- (DEDUCED, log 11.) -/
def State.core (s : State) (c : Nat) : Core := mget Core.reset s.cores c
def State.updCore (s : State) (c : Nat) (f : Core → Core) : State :=
  { s with cores := mput s.cores c (f (s.core c)) }

def State.slot (s : State) (c k : Nat) : Slot := mget Slot.reset (s.core c).slots k
def State.updSlot (s : State) (c k : Nat) (f : Slot → Slot) : State :=
  s.updCore c fun x => { x with slots := mput x.slots k (f (mget Slot.reset x.slots k)) }

/-- (DEDUCED, log 11.) -/
def State.ctx (s : State) (c : Nat) : Ctx := mget Ctx.reset s.ctxs c
def State.updCtx (s : State) (c : Nat) (f : Ctx → Ctx) : State :=
  { s with ctxs := mput s.ctxs c (f (s.ctx c)) }

/-- (DEDUCED, log 11.) -/
def State.queue (s : State) (q : Nat) : Queue := mget s.queueRest s.queues q
def State.updQueue (s : State) (q : Nat) (f : Queue → Queue) : State :=
  { s with queues := mput s.queues q (f (s.queue q)) }

def State.launch (s : State) (l : Nat) : Launch := mget (Launch.ofDesc 0 0 0 0) s.launches l
def State.updLaunch (s : State) (l : Nat) (f : Launch → Launch) : State :=
  { s with launches := mput s.launches l (f (s.launch l)) }

/-- A fresh number and the state in which it is used. -/
def State.fresh (s : State) : Nat × State := (s.nextId, { s with nextId := s.nextId + 1 })

/-- Record that the device sends something to the host. (DESIGN CHOICE, log 4.) -/
def State.send (s : State) (o : Out) : State := { s with out := s.out ++ [o] }

/-! ### Placement of work on the hardware (R15, R16) -/

/-- Bits `[hi:lo]` of a wide word, as a number. -/
def bits {n : Nat} (x : BitVec n) (hi lo : Nat) : Nat := field x.toNat hi lo

def dieOf (core : Nat) : Nat := core / 32
/-- The quad of a core among all quads of the package. -/
def quadOf (core : Nat) : Nat := core / 4

def Launch.sreg (l : Launch) : Nat := bits l.desc 58 54
def Launch.sscr (l : Launch) : Nat := bits l.desc 63 59
def Launch.sl1 (l : Launch) : Nat := bits l.desc 68 64
def Launch.win (l : Launch) : Nat := 8 * bits l.desc 75 69
def Launch.floor (l : Launch) : Nat := bits l.desc 85 76
def Launch.nwaves (l : Launch) : Nat := bits l.desc 90 86
def Launch.clus (l : Launch) : Nat := bits l.desc 93 91
def Launch.chf (l : Launch) : Nat := bits l.desc 135 126
def Launch.chn (l : Launch) : Nat := bits l.desc 145 136
def Launch.bars (l : Launch) : Nat := bits l.desc 162 146
/-- Shadow areas of a launch in 64 KiB units, by level (R96, R134). -/
def Launch.shadow (l : Launch) (level : Nat) : Nat :=
  match level with
  | 1 => bits l.desc 170 163
  | 2 => bits l.desc 178 171
  | 3 => bits l.desc 186 179
  | _ => 0
/-- `ENTRY` as a generic address of this package (R134, R159). -/
def Launch.entry (l : Launch) : DWord := BitVec.ofNat 64 (0x3F * 2 ^ 56 + 4 * bits l.desc 53 0)
/-- The data-section address that R62 states; 0 when there is none. -/
def Launch.data (l : Launch) : Nat :=
  let p := bits l.packet 257 214
  4096 * (if p = 0 then bits l.desc 395 352 else p)
/-- Private bytes of a thread (R85, R133). -/
def Launch.priv (l : Launch) : Nat := 256 * bits l.packet 29 17
def Launch.alias_ (l : Launch) : Bool := l.packet.getLsbD 8
def Launch.privbase (l : Launch) : Nat := 65536 * bits l.packet 297 258
/-- The role of wave `i` (R134). -/
def Launch.role (l : Launch) (i : Nat) : Role :=
  match bits l.desc (95 + 2 * i) (94 + 2 * i) with
  | 0 => .general
  | 1 => .copy
  | 2 => .matrix
  | _ => .vector

def State.launchOf (s : State) (b : Nat) : Launch := s.launch (s.blk b).launch

/-- The blocks that hold resources of a core, ascending. -/
def State.blocksOn (s : State) (c : Nat) : List Nat :=
  (s.blocks.filter fun p => p.2.resident && p.2.core == c).map (·.1)

/-- The threads of a block issue: it is on its core, and its context is running (R148, R149). -/
def State.issues (s : State) (b : Nat) : Bool :=
  (s.blk b).resident && decide ((s.ctx (s.blk b).ctx).st = .run)

/-- Lanes of the live threads of a wave, ascending. -/
def Wave.liveLanes (w : Wave) : List Nat := (w.threads.filter fun p => p.2.live).map (·.1)

/-- Some thread of these lanes has not exited. -/
def State.anyLive (s : State) (w : WaveId) (lanes : List Nat) : Bool := lanes.any fun l => (s.thread (w.thread l)).live

/-! ### Waking (R32, R165, R169) -/

/-- The thread becomes ready now. -/
def Thread.wake (t : Thread) (now : Nat) : Thread := { t with wait := .ready, since := now, slot := 4, ready := now }

/-- Wake the threads of a wave that wait as `p` says. -/
def State.wakeWave (s : State) (w : WaveId) (p : Wait → Bool) : State :=
  s.updWave w fun x =>
    { x with threads := x.threads.map fun q => (q.1, if q.2.live && p q.2.wait then q.2.wake s.cycle else q.2) }

/-- Wake the threads that wait for a register of their wave (R32). -/
def State.wakeReg (s : State) (w : WaveId) (code : Nat) : State :=
  s.wakeWave w fun x => decide (x = .onReg code)

/-! ### Scalar registers (R201) -/

def Wave.scalar (w : Wave) (n : Nat) : Word := mget 0 w.scalars n
def Wave.setScalar (w : Wave) (n : Nat) (v : Word) : Wave := { w with scalars := mput w.scalars n v }

/-! ### Rename map (R202 to R218) -/

/-- The state of a vector name, none for UNMAPPED. -/
def Wave.vreg (w : Wave) (n : Nat) : Option VReg := mfind w.vregs n

/-- The lane of a mapped name; zero when it is unmapped. -/
def Wave.vlane (w : Wave) (n lane : Nat) : Word :=
  match w.vreg n with
  | some r => mget 0 r.lanes lane
  | none => 0

/-- A zero-filled FULL row. -/
def VReg.zero : VReg := { st := .full, lanes := [], live := 0, stamp := 0, reload := none }

/-- Pool rows bound to a wave's names (R200, rows(w)). -/
def Wave.rows (w : Wave) : Nat := (w.vregs.filter fun p => decide (p.2.st ≠ .spilled)).length

/-- Names of a wave in state SPILLED. -/
def Wave.spills (w : Wave) : Nat := (w.vregs.filter fun p => decide (p.2.st = .spilled)).length

/-- The bit of a lane in a 64-bit mask. -/
def laneBit (l : Nat) : BitVec 64 := BitVec.ofNat 64 (2 ^ l)

/-- The mask of some lanes. -/
def laneMask (ls : List Nat) : BitVec 64 := ls.foldl (fun m l => m ||| laneBit l) 0

/-- Waves on a core with their floors. -/
def State.wavesOn (s : State) (c : Nat) : List (WaveId × Nat) :=
  (s.blocksOn c).flatMap fun b =>
    (s.blk b).waves.map fun p => ({ blk := b, wv := p.1 }, (s.launchOf b).floor)

/-- Rows of the pool in use on a core. -/
def State.rowsUsed (s : State) (c : Nat) : Nat :=
  ((s.wavesOn c).map fun p => (s.wave p.1).rows).foldl (· + ·) 0

/-- A spill victim: stamp, order of placement of its wave, name and wave (R214, R215). -/
structure Victim where
  stamp : Nat
  order : Nat
  name : Nat
  wid : WaveId
deriving DecidableEq, Repr

/-- The victim to spill before another: oldest stamp, then the wave placed earlier, then the lower name. (DEDUCED, log 15.) -/
def Victim.before (a b : Victim) : Bool :=
  decide (a.stamp < b.stamp) ||
    (decide (a.stamp = b.stamp) &&
      (decide (a.order < b.order) || (decide (a.order = b.order) && decide (a.name < b.name))))

/-- The spillable rows of a core (R214): an instruction that waits for an allocation pins none of its own. (DEDUCED, log 15.) -/
def State.spillable (s : State) (c : Nat) : List Victim :=
  (s.wavesOn c).flatMap fun p =>
    let w := s.wave p.1
    if w.rows > p.2 then
      (w.vregs.filter fun r => decide (r.2.st = .full)).map
        fun r => { stamp := r.2.stamp, order := w.order, name := r.1, wid := p.1 }
    else []

/-- (DEDUCED, log 15.) -/
def firstVictim : List Victim → Option Victim
  | [] => none
  | v :: t =>
    match firstVictim t with
    | some u => some (if u.before v then u else v)
    | none => some v

/-- What asking for a row gives: the state after any spill, a wait of a cycle, or RFLOOR (R215). -/
inductive RowOut where
  | ok (s : State)
  | hold
  | rfloor
deriving Repr

/-- Spill a name (R216). -/
def State.spill (s : State) (v : Victim) : State :=
  s.updWave v.wid fun w =>
    { w with vregs := mupd VReg.zero w.vregs v.name (fun r => { r with st := .spilled }) }

/-- Obtain a free row for a wave (R215). -/
def State.allocRow (s : State) (w : WaveId) : RowOut :=
  let c := (s.blk w.blk).core
  let l := s.launchOf w.blk
  if s.rowsUsed c < 256 * l.sreg then .ok s
  else
    match firstVictim (s.spillable c) with
    | some v => .ok (s.spill v)
    | none =>
      if (s.wave w).rows ≥ l.floor ∧ (s.wavesOn c).all (fun p => decide ((s.wave p.1).rows ≤ p.2)) then .rfloor
      else .hold

/-- Allocate a row for a name and map it, zero-filled and FULL (R205). -/
def State.mapName (s : State) (w : WaveId) (n : Nat) : RowOut :=
  match s.allocRow w with
  | .ok s => .ok (s.updWave w fun x =>
      { x with vregs := mput x.vregs n { st := .full, lanes := [], live := 0, stamp := s.cycle, reload := none } })
  | r => r

/-- Start the reload of a SPILLED name: it is EMPTY until RELOAD_DONE (R218). -/
def State.startReload (s : State) (w : WaveId) (n : Nat) : RowOut :=
  match s.allocRow w with
  | .ok s => .ok (s.updWave w fun x =>
      { x with vregs := mupd VReg.zero x.vregs n (fun r => { r with st := .empty, reload := some s.ns }) })
  | r => r

/-- A name stays mapped: some lane of it is live, or it is EMPTY, which it stays until it is FULL (R207, R210). -/
def VReg.stays (r : VReg) : Bool := decide (r.live ≠ 0) || decide (r.st = .empty)

/-- Free the rows of a wave whose live mask is zero, and drop the images of such names (R207 step 3). -/
def Wave.freeRows (w : Wave) : Wave :=
  { w with vregs := w.vregs.filter fun p => (w.vreg p.1).any VReg.stays }

/-- Clear live bits of a name (R207 step 1). -/
def Wave.clearLive (w : Wave) (n : Nat) (mask : BitVec 64) : Wave :=
  { w with vregs := w.vregs.map fun p => if p.1 = n then (p.1, { p.2 with live := p.2.live &&& ~~~mask }) else p }

/-- Write lanes of a mapped name (R206). -/
def Wave.writeLanes (w : Wave) (n : Nat) (vals : List (Nat × Word)) (now : Nat) : Wave :=
  { w with vregs := w.vregs.map fun p =>
      if p.1 = n then
        (p.1, { p.2 with lanes := vals.foldl (fun m v => mput m v.1 v.2) p.2.lanes
                         live := p.2.live ||| laneMask (vals.map (·.1)), stamp := now })
      else p }

/-- A register is EMPTY: the operand code of a vector name or of a scalar (R202, R201). -/
def Wave.isEmpty (w : Wave) (code : Nat) : Bool :=
  if code < 768 then
    match w.vreg code with
    | some r => decide (r.st = .empty)
    | none => false
  else w.sEmpty.contains (code - 768)

/-- Mark a register EMPTY for a producer (R28). -/
def Wave.markEmpty (w : Wave) (code : Nat) : Wave :=
  if code < 768 then
    { w with vregs := w.vregs.map fun p => if p.1 = code then (p.1, { p.2 with st := .empty }) else p }
  else { w with sEmpty := insertN (code - 768) w.sEmpty }

/-- A register becomes FULL, and a row whose live mask is zero is then freed (R210). -/
def Wave.markFull (w : Wave) (code : Nat) : Wave :=
  if code < 768 then
    Wave.freeRows { w with vregs := w.vregs.map fun p =>
      if p.1 = code then (p.1, { p.2 with st := .full, reload := none }) else p }
  else { w with sEmpty := w.sEmpty.filter (· != code - 768) }

/-! ### Flags of a wave -/

/-- Set bits of `FSTAT` (R183). -/
def State.orFstat (s : State) (w : WaveId) (f : BitVec 32) : State :=
  s.updWave w fun x => { x with fstat := x.fstat ||| f }

/-- Set `WSTAT.URD` (R182, R211). -/
def State.setUrd (s : State) (w : WaveId) : State := s.updWave w fun x => { x with wstat := x.wstat ||| 1 }

def Wave.intrap (w : Wave) : Bool := w.wstat.getLsbD 1

/-! ### The end of a context (R149) -/

/-- Drop the runs, requests, gathering entries and barrier-file entries of the blocks that `p` names from a core. (DEDUCED, log 17.) -/
def Core.dropBlocks (c : Core) (p : Nat → Bool) : Core :=
  { c with
    slots := c.slots.map fun q => (q.1,
      match q.2.run with
      | some r => if r.group.members.any (fun t => p t.blk) then { q.2 with run := none, pend := none } else q.2
      | none => q.2)
    bfile := (c.bfile.map fun e => { e with waiters := e.waiters.filter fun t => !p t.blk }).filter fun e => !e.waiters.isEmpty
    bqueue := c.bqueue.filter fun t => !p t.blk
    table := (c.table.map fun e => { e with members := e.members.filter fun t => !p t.blk }).filter
      fun e => !e.members.isEmpty }

/-- A queue bound to a context that takes a context fault stops with code 7, enabled or not; a context's queues are those of its
function (R126, R135, R149). `ERRIDX` takes the read index. (DEDUCED, log 71; DESIGN CHOICE, log 92.) -/
def Queue.stopFor (q : Queue) (c : Nat) (func : BitVec 5) : Queue :=
  if q.unbound = false ∧ bits q.wqctl 35 24 = c ∧ q.func = func then
    { q with err := true, errcode := 7, erridx := q.wqrd, placing := none }
  else q

/-- The entry belongs to a context and no piece of it has been sent. -/
def VEntry.unsentOf (e : VEntry) (c : Nat) : Bool := decide (e.ctx = c) && !e.started

/-- The unsent entries of a context leave the queues of the package, and are no accesses any more (R405). -/
def State.dropUnsent (s : State) (c : Nat) : State :=
  let gone := s.pe.virt.flatMap fun q => (q.2.filter fun e => e.unsentOf c).map fun e => e.head.id
  { s with
    pe := { s.pe with virt := s.pe.virt.map fun q => (q.1, q.2.filter fun e => !e.unsentOf c) }
    permSends := s.permSends.map fun q => (q.1, q.2.filter fun e => !e.unsentOf c)
    remotes := s.remotes.filter fun r => !gone.contains r.1 }

/-- Results that arrive for the context are discarded: it is in FAULT, or its reset waits for them (R149). (DEDUCED, log 60.) -/
def State.discards (s : State) (c : Nat) : Bool := decide ((s.ctx c).st = .fault) || (s.ctx c).resetting

/-- The space is part of a block whose context's image stays as it is (R149). -/
def State.frozen (s : State) (sp : Space) : Bool :=
  match sp with
  | .scr b => s.discards (s.blk b).ctx
  | .priv b _ _ => s.discards (s.blk b).ctx
  | _ => false

/-- A context fault: its cores stop issuing for it, its queues stop with code 7, and its state becomes FAULT (R149).
A context that is not in RUN, HALT, SAVED or RESTORE is unchanged, and so is one that is being reset, whose results are discarded.
(DEDUCED, log 71.) -/
def State.ctxFault (s : State) (c : Nat) : State :=
  match (s.ctx c).st, (s.ctx c).resetting with
  | .idle, _ => s
  | .fault, _ => s
  | _, true => s
  | _, false =>
    let s := s.updCtx c fun x => { x with st := .fault }
    let qs := s.queues.map fun q => (q.1, q.2.stopFor c (s.ctx c).func)
    let s := { s with queues := qs, queueRest := s.queueRest.stopFor c (s.ctx c).func }
    let s := s.dropUnsent c
    { s with
      cores := s.cores.map fun p => (p.1, p.2.dropBlocks fun b => decide ((s.blk b).ctx = c))
      ringWaits := s.ringWaits.filter fun x => decide ((s.blk x.wid.blk).ctx ≠ c) }

/-! ### Program counters (R159, R81, R82) -/

/-- The generic address of this package with the given virtual address. -/
def pcOf (va : Nat) : DWord := BitVec.ofNat 64 (0x3F * 2 ^ 56 + va % 2 ^ 56)

/-- The virtual address bits of a PC. -/
def vaOf (pc : DWord) : Nat := pc.toNat % 2 ^ 56

/-- The address `n` bytes after an instruction. -/
def pcPlus (pc : DWord) (n : Int) : DWord := pcOf (truncI ((vaOf pc : Int) + n) 56)

/-- The value that `EPC` and `TRAPVEC` hold of an address (R186). -/
def epcField (x : BitVec 64) : BitVec 64 := x &&& 0x00FFFFFFFFFFFFFC#64

/-! ### Traps (R176 to R180, R184, R185) -/

/-- A whole trap without an address. -/
def Trap.whole (c : Cause) (sub opnd : Nat) : Trap :=
  { cause := c, sub := sub, opnd := opnd, acc := 0, addr := 0, lane := none, src := 0 }

/-- A lane trap of a memory access. -/
def Trap.lane_ (c : Cause) (sub acc addr l : Nat) : Trap :=
  { cause := c, sub := sub, opnd := 0, acc := acc, addr := addr, lane := some l, src := 0 }

/-- `FAULTINFO` (R184). (DEDUCED, log 34.) -/
def faultInfo (tr : Trap) (eng lane : Nat) : BitVec 32 :=
  BitVec.ofNat 32 (tr.cause.code % 256 * 2 ^ 24 + tr.sub % 256 * 2 ^ 16 + tr.opnd % 4 * 2 ^ 14 + lane % 64 * 2 ^ 8
    + eng % 16 * 16 + tr.acc % 16)

/-- The engine of a major opcode, in the codes of `FAULTINFO.ENGINE` (R26, R68, R184). -/
def engineOf (maj : Nat) : Nat :=
  if maj < 0x40 then 1 else if maj < 0x80 then 2 else if maj < 0xA0 then 3 else if maj < 0xC0 then 4
  else if maj < 0xD0 then 5 else if maj < 0xE0 then 6 else if maj < 0xE8 then 7 else if maj < 0xF0 then 8 else 0

/-- What taking a trap needs: the wave, the members of its group, the instruction's address and length, its engine,
the lowest participating lane, the lanes that completed at this issue, and those that `DONEMASK` excluded from it. -/
structure TrapSite where
  wid : WaveId
  members : List Nat
  pc : DWord
  len : Nat
  eng : Nat
  low : Nat
  done : BitVec 64
  prev : BitVec 64
deriving DecidableEq, Repr

/-- The value that `DONEMASK` takes (R176). (DEDUCED, log 20.) -/
def TrapSite.mask (t : TrapSite) (tr : Trap) : BitVec 64 :=
  match tr.lane with
  | some _ => t.done ||| t.prev
  | none => 0

/-- Taking a trap: the entry of the wave's handler (R178, R179). `EPC` saves the address, `FAULTINFO`, `FAULTADDR` and
`DONEMASK` the cause; `WSTAT.INTRAP` and the members' handler bits are set and their PCs go to `TRAPVEC`. Under `INTRAP` = 1 the lanes
that `DONEMASK` excludes go on. (DEDUCED, log 20, 69; DESIGN CHOICE, log 91.) -/
def State.deliver (s : State) (t : TrapSite) (tr : Trap) : State :=
  let ctx := (s.blk t.wid.blk).ctx
  let w := s.wave t.wid
  if t.members.any (fun l => (s.thread (t.wid.thread l)).handler) then s.ctxFault ctx
  else if w.intrap then
    t.members.foldl (fun s l =>
      if (t.done ||| t.prev).getLsbD l then
        s.updThread (t.wid.thread l) fun x => { x with pc := pcPlus t.pc t.len, wait := .ready, resume := false, rel := none }
      else s.updThread (t.wid.thread l) fun x => { x with pc := t.pc, wait := .onTrap, resume := false, rel := none }) s
  else if w.trapvec = 0 then s.ctxFault ctx
  else
    let lane := tr.lane.getD t.low
    let epc := match tr.cause with
      | .trap => pcPlus t.pc t.len
      | .brkpt => pcPlus t.pc t.len
      | _ => t.pc
    let s := s.updWave t.wid fun x =>
      { x with epc := epcField epc, faultinfo := faultInfo tr t.eng lane, faultaddr := BitVec.ofNat 64 tr.addr
               donemask := t.mask tr, wstat := x.wstat ||| 2 }
    s.updThreads t.wid t.members fun x =>
      { x with handler := true, pc := pcOf w.trapvec.toNat, wait := .ready, resume := false, rel := none }

/-- The lanes of the live threads of a wave that are in the handler. -/
def Wave.handlerLanes (w : Wave) : List Nat := (w.threads.filter fun p => p.2.live && p.2.handler).map (·.1)

/-- `WSTAT.INTRAP` clears, and the threads that wait for that are ready at their instruction, from now on (R167, R178, R179).
(DESIGN CHOICE, log 91.) -/
def State.clearIntrap (s : State) (w : WaveId) : State :=
  (s.updWave w fun x => { x with wstat := x.wstat &&& ~~~2#32 }).wakeWave w fun x => decide (x = .onTrap)

/-- Returning from a trap: every handler thread of the wave leaves the handler at `EPC` (R190). Its next issue excludes
the lanes of `DONEMASK` (R177). (DEDUCED, log 20.) -/
def State.trapReturn (s : State) (w : WaveId) : State :=
  let epc := (s.wave w).epc
  (s.updThreads w (s.wave w).handlerLanes fun x =>
    { x with handler := false, pc := pcOf epc.toNat, resume := true }).clearIntrap w

/-! ### Page faults (R273) -/

/-- `PFCTL.EN` as it reads, and the records of the ring (R269). -/
def Ctx.pfLog2 (c : Ctx) : Nat := bits c.pfctl 11 8
def Ctx.pfEn (c : Ctx) : Bool := c.pfctl.getLsbD 0 && decide (6 ≤ c.pfLog2 ∧ c.pfLog2 ≤ 12)
/-- The fault ring has a free slot (R273). -/
def Ctx.pfRoom (c : Ctx) : Bool := decide ((c.pfwr - c.pfrd).toNat < 2 ^ c.pfLog2)

/-- The bytes of a fault record (R273). (DEDUCED, log 72.) -/
def faultRecord (va tag core ctx wave acc src : Nat) : List Byte :=
  toBytes 32 (va % 2 ^ 64 * 2 ^ 192 + tag % 2 ^ 32 * 2 ^ 160 + core % 2 ^ 16 * 2 ^ 144 + ctx % 2 ^ 16 * 2 ^ 128
    + wave % 256 * 2 ^ 120 + acc % 256 * 2 ^ 112 + src % 256 * 2 ^ 104)

/-- Write a fault record to the ring, advance `WIDX` and send the vector (R273). -/
def State.writeFaultRecord (s : State) (c : Nat) (record : List Byte) : State :=
  let x := s.ctx c
  let s := s.send (.host (x.pfbase.toNat + 32 * (x.pfwr.toNat % 2 ^ x.pfLog2)) record)
  let s := s.send (.msix x.func.toNat (bits x.pfctl 31 16))
  s.updCtx c fun y => { y with pfwr := y.pfwr + 1 }

/-- The first tag from a number on that no unanswered record of the context bears (R273). (DEDUCED, log 72.) -/
def Ctx.freshTag (x : Ctx) : Nat → Nat → Nat
  | 0, n => n % 2 ^ 32
  | k + 1, n => if x.faults.any fun f => f.tag == n % 2 ^ 32 then x.freshTag k (n + 1) else n % 2 ^ 32

/-- A page fault goes to the fault service: a new record, or another waiter on the record of the same page (R273).
None when the service is disabled. (DEDUCED, log 65, 72.) -/
def State.pageFault (s : State) (c va core wave acc src : Nat) (wt : FaultWaiter) : Option State :=
  let x := s.ctx c
  let page := va % 2 ^ 56 / 65536
  if !x.pfEn then none
  else if x.faults.any (fun f => f.page == page) then
    some (s.updCtx c fun y => { y with faults := y.faults.map fun f =>
      if f.page = page then { f with waiters := f.waiters ++ [wt] } else f })
  else
    let tag := x.freshTag x.faults.length s.nextId
    let record := faultRecord va tag core c wave acc src
    let now := x.pfRoom && x.faults.all (·.written)
    let s := { s with nextId := s.nextId + 1 }
    let s := s.updCtx c fun y => { y with faults := y.faults ++
      [{ tag := tag, page := page, record := record, written := now, waiters := [wt] }] }
    some (if now then s.writeFaultRecord c record else s)

/-- The engines that read the count of a record at acceptance: matrix, copy, fabric and port (R267). -/
def countsAtEngine (eng : Nat) : Bool := eng == 3 || eng == 5 || eng == 7 || eng == 8

/-- The faulting threads of a wave wait for fault service, with `DONEMASK` and the fault recorded (R175, R176, R184);
the trap is delivered when the service is disabled (R273). -/
def State.serviceOrDeliver (s : State) (t : TrapSite) (tr : Trap) : State :=
  let b := s.blk t.wid.blk
  let lane := tr.lane.getD t.low
  let wt := FaultWaiter.threads t.wid t.members (faultInfo tr t.eng lane) (BitVec.ofNat 64 tr.addr) t.len
  let wave := if tr.src = 1 ∨ tr.src = 2 ∨ (tr.src = 3 ∧ countsAtEngine t.eng = true) then 0xFF else t.wid.wv
  match s.pageFault b.ctx tr.addr b.core wave tr.acc tr.src wt with
  | none => s.deliver t { tr with sub := 1 }
  | some s' =>
    let tag := match ((s'.ctx b.ctx).faults.find? fun f => f.page == tr.addr % 2 ^ 56 / 65536) with
      | some f => f.tag
      | none => 0
    let s' := s'.updWave t.wid fun x =>
      { x with faultinfo := faultInfo tr t.eng lane, faultaddr := BitVec.ofNat 64 tr.addr, donemask := t.mask tr }
    s'.updThreads t.wid t.members fun x => { x with pc := t.pc, wait := .fault tag, resume := false }

/-- Take a trap: fault service for PAGE, the handler for every other (R175). -/
def State.takeTrap (s : State) (t : TrapSite) (tr : Trap) : State :=
  match tr.cause with
  | .page => s.serviceOrDeliver t tr
  | _ => s.deliver t tr

end Sys2Proof.Machine
end

