-- ==== Sys2Proof/Machine/Levels.lean ====
section
/-! DEFINITION. Addresses, translation and the commit hierarchy: where a load looks, what a store, a commit, an abort, an acquire and an atomic do (spec/03_memory_model.md), with the race detector (R122 to R124) and the change filters (R100). -/

namespace Sys2Proof.Machine

open Sys2Proof

/-! ### Translation (R270 to R274) -/

/-- Bytes of a page (R6, R270). -/
def pageSize (e : BitVec 64) : Nat := if e.getLsbD 5 then 2 * 2 ^ 20 else 65536

/-- The physical address of the start of a page (R270). -/
def pagePA (e : BitVec 64) : Nat := bits e 40 16 * 65536

/-- `CMODE`, `RACE` and `APER` of a page entry (R270). -/
def pageCmode (e : BitVec 64) : Nat := bits e 63 61
def pageRace (e : BitVec 64) : Nat := bits e 60 59
def pageAper (e : BitVec 64) : Bool := e.getLsbD 57
/-- The descriptor index of an aperture page (R378). -/
def aperIndex (e : BitVec 64) : Nat := bits e 27 16

/-- The mapped page that holds a virtual address, with its page number in 64 KiB units (R270). -/
def Ctx.pageOf (c : Ctx) (va : Nat) : Option (Nat × Page) :=
  let v := va / 65536
  match mfind c.pages v with
  | some p => some (v, p)
  | none =>
    match mfind c.pages (v / 32 * 32) with
    | some p => if p.entry.getLsbD 5 then some (v / 32 * 32, p) else none
    | none => none

/-- Two ranges of addresses overlap. -/
def overlap (a n b m : Nat) : Bool := decide (a < b + m ∧ b < a + n ∧ 0 < n ∧ 0 < m)

/-- The range of a context's hardware-only pool (R447). -/
def Ctx.poolBase (c : Ctx) : Nat := bits c.ctxpool 40 16 * 65536
def Ctx.poolSize (c : Ctx) : Nat := bits c.ctxpoolsz 24 0 * 65536

/-- Metadata of some die's home range overlaps a physical range (R372). (DEDUCED, log 77.) -/
def inMetadata (pa n : Nat) : Bool :=
  (List.range 64).any fun d => overlap pa n ((d + 1) * Config.homeSize - 24 * 2 ^ 20) (24 * 2 ^ 20)

/-- The port engine's queue region (R395). -/
def PortEngine.regionBase (p : PortEngine) : Nat := p.pevqBase.toNat * 4096
def PortEngine.regionSize (p : PortEngine) : Nat := 320 * 2 ^ p.pevqLog.toNat

/-- A physical range overlaps hardware-only memory: a context's pool, a metadata region, or the port engine's queue
region (R86, R372, R395, R447). -/
def State.hwOnly (s : State) (pa n : Nat) : Bool :=
  s.ctxs.any (fun p => overlap pa n p.2.poolBase p.2.poolSize) || inMetadata pa n ||
    (s.pe.pevqAct && overlap pa n s.pe.regionBase s.pe.regionSize)

/-- What an access does, in the codes of `FAULTINFO.ACC` (R184). -/
inductive Acc where
  | load | store | atomic | fetch | eread | ewrite
  /-- The update of the barrier object of a request, which is no write of an aperture's bytes (R288, R380). -/
  | credit
deriving DecidableEq, Repr

def Acc.code : Acc → Nat
  | .load => 1 | .store => 2 | .atomic => 3 | .fetch => 4 | .eread => 5 | .ewrite => 6 | .credit => 6

/-- The page permits the access (R270). -/
def Acc.allowed (a : Acc) (e : BitVec 64) : Bool :=
  match a with
  | .load => e.getLsbD 2
  | .store => e.getLsbD 3
  | .atomic => e.getLsbD 2 && e.getLsbD 3
  | .fetch => e.getLsbD 4
  | .eread => e.getLsbD 2
  | .ewrite => e.getLsbD 3
  | .credit => e.getLsbD 3

/-- An aperture page takes stores and engine writes, and nothing else (R380). -/
def Acc.replicates : Acc → Bool
  | .store => true
  | .ewrite => true
  | _ => false

/-- A refused access: the cause with its sub-cause, and the generic address of the first faulting byte. -/
structure AddrFault where
  cause : Cause
  sub : Nat
  addr : Nat
deriving DecidableEq, Repr

/-- Translate a virtual address of a context for an access (R82, R86, R270, R273, R380); `ga` is the address to report. Of one page
PROT takes SUB 6 first, then SUB 1, then SUB 0, also for a fetch, for which R45 gives no order. (DEDUCED, log 32; for a fetch DESIGN
CHOICE, log 95.) -/
def State.translate (s : State) (ctx va ga : Nat) (a : Acc) : Except AddrFault Place :=
  match (s.ctx ctx).pageOf va with
  | none => .error { cause := .page, sub := 0, addr := ga }
  | some (v, p) =>
    let e := p.entry
    if pageAper e && !a.replicates then .error { cause := .prot, sub := 6, addr := ga }
    else if !pageAper e && s.hwOnly (pagePA e) (pageSize e) then .error { cause := .prot, sub := 1, addr := ga }
    else if !a.allowed e then .error { cause := .prot, sub := 0, addr := ga }
    else if pageAper e then .ok { loc := { sp := .aper ctx (aperIndex e), addr := va - v * 65536 }, entry := e }
    else .ok { loc := { sp := .glob, addr := pagePA e + (va - v * 65536) }, entry := e }

/-- The package fields of a global address name this package (R82): none when they do, else the sub-cause of PROT. -/
def State.pkgCheck (s : State) (ga : Nat) : Option Nat :=
  if ga.testBit 62 then
    match s.pkgid with
    | some p => if field ga 61 56 = p then none else some 3
    | none => some 3
  else if field ga 61 56 = 0x3F then none else some 8

/-- The block of a cluster that resides on a core (R84). -/
def State.peerOn (s : State) (cluster core : Nat) : Option Nat :=
  match s.blocks.find? (fun p => p.2.resident && p.2.cluster == cluster && p.2.core == core) with
  | some p => some p.1
  | none => none

/-- The virtual address at which the private memory of a thread of a launch with aliases lies (R85). -/
def State.aliasVa (s : State) (t : ThreadId) (ofs : Nat) : Nat :=
  let l := s.launchOf t.blk
  (l.privbase + (((s.blk t.blk).blin * 16 + t.wv) * 64 + t.lane) * l.priv + ofs) % 2 ^ 56

/-- The address that an access is made at and reports: the alias address for the private window of a launch with aliases
(R86), the address itself otherwise. -/
def State.effGa (s : State) (t : ThreadId) (ga : Nat) : Nat :=
  if ga.testBit 63 ∧ field ga 62 60 = 2 ∧ field ga 59 40 = 0 ∧ field ga 39 0 < (s.launchOf t.blk).priv ∧
      (s.launchOf t.blk).alias_ = true then (pcOf (s.aliasVa t (field ga 39 0))).toNat
  else ga

/-- Resolve a generic address against the thread that uses it (R81 to R87). (DEDUCED, log 32.) -/
def State.resolve (s : State) (t : ThreadId) (ga : Nat) (a : Acc) : Except AddrFault Place :=
  let b := s.blk t.blk
  let l := s.launchOf t.blk
  if ga.testBit 63 then
    let bad : Except AddrFault Place := .error { cause := .prot, sub := 2, addr := ga }
    let kind := field ga 62 60
    let qc := field ga 59 58
    let ofs := field ga 39 0
    if field ga 57 40 ≠ 0 then bad
    else if kind = 0 then
      if qc ≠ 0 then bad
      else if ofs ≥ l.sscr * 8192 then bad
      else .ok { loc := { sp := .scr t.blk, addr := ofs }, entry := 0 }
    else if kind = 1 then
      match s.peerOn b.cluster (b.core / 4 * 4 + qc) with
      | none => bad
      | some p =>
        if ofs ≥ (s.launchOf p).sscr * 8192 then bad
        else .ok { loc := { sp := .scr p, addr := ofs }, entry := 0 }
    else if kind = 2 then
      if qc ≠ 0 then bad
      else if ofs ≥ l.priv then bad
      else if l.alias_ then
        let va := s.aliasVa t ofs
        s.translate b.ctx va (pcOf va).toNat a
      else .ok { loc := { sp := .priv t.blk t.wv t.lane, addr := ofs }, entry := 0 }
    else bad
  else
    match s.pkgCheck ga with
    | some sub => .error { cause := .prot, sub := sub, addr := ga }
    | none => s.translate b.ctx (ga % 2 ^ 56) ga a

/-! ### Bytes at home -/

def Loc.plus (l : Loc) (n : Nat) : Loc := { l with addr := l.addr + n }
def Loc.sec (l : Loc) : Nat := l.addr / 32
def Loc.off (l : Loc) : Nat := l.addr % 32

/-- One byte at its home (R91 step 6, R93). (DEDUCED, log 30.) -/
def State.homeByte (s : State) (l : Loc) : Byte :=
  match l.sp with
  | .glob => s.memByte l.addr
  | .scr b => mget 0 (s.blk b).scratch l.addr
  | .priv b w t => mget 0 (s.thread { blk := b, wv := w, lane := t }).priv l.addr
  | .aper _ _ => 0

/-- One byte written at its home, as the home's own logic writes it. -/
def State.setHomeByte (s : State) (l : Loc) (v : Byte) : State :=
  match l.sp with
  | .glob => s.setMemByte l.addr v
  | .scr b => s.updBlk b fun x => { x with scratch := mput x.scratch l.addr v }
  | .priv b w t => s.updThread { blk := b, wv := w, lane := t } fun x => { x with priv := mput x.priv l.addr v }
  | .aper _ _ => s

def State.homeBytes (s : State) (l : Loc) (n : Nat) : List Byte := (List.range n).map fun i => s.homeByte (l.plus i)
def State.homeNat (s : State) (l : Loc) (n : Nat) : Nat := ofBytes (s.homeBytes l n)
def State.setHomeBytes (s : State) (l : Loc) : List Byte → State
  | [] => s
  | b :: t => State.setHomeBytes (s.setHomeByte l b) (l.plus 1) t

/-- Bytes of a ring of 2^n slots (R361). -/
def ringBytes (n : Nat) : Nat := 32 + 4 * 2 ^ n + 2 ^ n / 8

/-- Where a byte of a ring lies. -/
def RingRef.loc (r : RingRef) (off : Nat) : Loc :=
  match r.sp with
  | .glob => { sp := .glob, addr := nth 0 r.chunks ((r.first + off) / 65536) + (r.first + off) % 65536 }
  | sp => { sp := sp, addr := r.first + off }

/-- A location is a byte of a ring of 2^n slots. -/
def RingRef.covers (r : RingRef) (n : Nat) (l : Loc) : Bool :=
  decide (l.sp = r.sp) &&
    (match r.sp with
     | .glob => (List.range r.chunks.length).any fun i =>
        let c := nth 0 r.chunks i
        decide (c ≤ l.addr ∧ l.addr < c + 65536) &&
          (let o := i * 65536 + (l.addr - c)
           decide (r.first ≤ o ∧ o < r.first + ringBytes n))
     | _ => decide (r.first ≤ l.addr ∧ l.addr < r.first + ringBytes n))

/-- The byte belongs to an initialised barrier object or ring, which programs and engines cannot write (R307, R362). (DEDUCED, log 40.) -/
def State.guarded (s : State) (l : Loc) : Bool :=
  s.barObjs.any (fun o => decide (o.sp = l.sp) && overlap l.addr 1 o.addr 16 && (s.homeByte o).getLsbD 3) ||
  s.ringObjs.any (fun r => r.1.covers r.2 l && (s.homeByte (r.1.loc 0)).getLsbD 0)

/-- `trim` (R120). (DEDUCED, log 77.) -/
def trim (x : Nat) (bf : Bool) (t : Nat) : Nat :=
  let inf := if bf then 0x7F80 else 0x7C00
  let m := x % 0x8000
  let sign := x / 0x8000 % 2 * 0x8000
  if m > inf then
    let y := m / 2 ^ t * 2 ^ t
    sign + (if y = inf then inf + (if bf then 0x40 else 0x200) else y)
  else if m = inf ∨ m = 0 then x
  else
    let q := m / 2 ^ t
    let rem := m % 2 ^ t
    let half := 2 ^ (t - 1)
    let q := if rem > half ∨ (rem = half ∧ q % 2 = 1) then q + 1 else q
    let y := q * 2 ^ t
    sign + (if y ≥ inf then inf - 2 ^ t else y)

/-- What enters level 4 under a compression mode (R120, R270). (DEDUCED, log 77.) -/
def trimMode (cm x : Nat) : Nat :=
  match cm with
  | 2 => trim x false 2
  | 3 => trim x false 4
  | 4 => trim x true 2
  | 5 => trim x true 4
  | _ => x

/-- Trim the 2-byte element that holds a byte just written at home (R120). (DEDUCED, log 77.) -/
def State.trimAt (s : State) (l : Loc) (cm : Nat) : State :=
  if 2 ≤ cm ∧ cm ≤ 5 then
    let e := { l with addr := l.addr / 2 * 2 }
    s.setHomeBytes e (toBytes 2 (trimMode cm (s.homeNat e 2)))
  else s

/-- Bytes of a sector written at their home by a program or an engine: bytes of a guarded object are discarded, and the
elements of a trim page are trimmed once the bytes stand (R120, R307, R362). -/
def State.homeWrite (s : State) (sp : Space) (no cm : Nat) (bytes : Map Byte) : State :=
  let kept := bytes.filter fun p => !s.guarded { sp := sp, addr := 32 * no + p.1 }
  let s := kept.foldl (fun s p => s.setHomeByte { sp := sp, addr := 32 * no + p.1 } p.2) s
  kept.foldl (fun s p => s.trimAt { sp := sp, addr := 32 * no + p.1 } cm) s

/-! ### Change filters and intervals (R98 to R101) -/

/-- The number of a sector in signatures and filters; none for scratchpad and for private memory without aliases
(R99, R380). (DEDUCED, log 33.) -/
def secNumber (sp : Space) (no : Nat) : Option Nat :=
  match sp with
  | .glob => some no
  | .aper _ idx => some (idx * 65536 + no)
  | _ => none

/-- (DEDUCED, log 33.) -/
def hashH1 (x : Nat) : Nat := field x 10 0
/-- (DEDUCED, log 33.) -/
def hashH2 (x : Nat) : Nat := (field x 21 11 ^^^ field x 32 22) ^^^ field x 35 33
/-- (DEDUCED, log 33.) -/
def hashG (x : Nat) : Nat := ((field x 9 0 ^^^ field x 19 10) ^^^ field x 29 20) ^^^ field x 35 30

/-- The level-k unit of a block: the block, its quad, its die, the package (R91). -/
def State.unitOf (s : State) (level b : Nat) : Nat :=
  let c := (s.blk b).core
  match level with
  | 1 => b
  | 2 => quadOf c
  | 3 => dieOf c
  | _ => 0

def filterKey (level unit : Nat) : Nat := level + 8 * unit

/-- The unit whose filter records a change of sector `n`: at level 4 the home die of the sector (R100). -/
def filterUnit (level unit n : Nat) : Nat := if level = 4 then n * 32 / Config.homeSize % 64 else unit

/-- The windows of a unit, newest first; a unit that has seen no change has one empty window (R100). -/
def State.windows (s : State) (level unit : Nat) : List Window :=
  mget [{ seq := 0, opened := 0, changes := [] }] s.filters (filterKey level unit)

/-- Open a new window; the ninth-oldest is dropped (R100). -/
def openWindow (now : Nat) (ws : List Window) : List Window :=
  match ws with
  | [] => [{ seq := 0, opened := now, changes := [] }]
  | w :: _ => ({ seq := w.seq + 1, opened := now, changes := [] } :: ws).take 8

/-- Record a change in the newest window, opening another when it has recorded 512 (R100). (DEDUCED, log 31.) -/
def addChange (now : Nat) (ch : Nat × Option WaveId) (ws : List Window) : List Window :=
  let add : List Window → List Window
    | [] => []
    | w :: t => { w with changes := ch :: w.changes } :: t
  match ws with
  | [] => add (openWindow now [])
  | w :: _ => if w.changes.length ≥ Config.windowChanges then add (openWindow now ws) else add ws

/-- A sector changes at a level's unit, or, at level 4, at its home (R100). (DEDUCED, log 31.) -/
def State.changed (s : State) (level unit : Nat) (sp : Space) (no : Nat) (by_ : Option WaveId) : State :=
  match secNumber sp no with
  | none => s
  | some n =>
    let u := filterUnit level unit n
    { s with filters := mput s.filters (filterKey level u) (addChange s.cycle (n, by_) (s.windows level u)) }

/-- The filters that a checked commit of a block at a level looks at: that of its unit, or those of the 64 home dies (R100). -/
def State.filtersOf (s : State) (level b : Nat) : List Nat := if level = 4 then List.range 64 else [s.unitOf level b]

/-- The current window of each unit of a block at levels 1 to 3, and of each home die (R98, R100, R101). -/
def State.currentWindows (s : State) (b : Nat) : List Nat :=
  [1, 2, 3, 4].flatMap fun k => (s.filtersOf k b).map fun u =>
    match s.windows k u with
    | w :: _ => w.seq
    | [] => 0

/-- The end of an interval (R98). -/
def State.endInterval (s : State) (w : WaveId) : State :=
  let cur := s.currentWindows w.blk
  s.updWave w fun x => { x with interval := x.interval + 1, reads := [], starts := cur, restoredOpen := false }

/-- The first instruction of a wave opens interval 0 (R98). -/
def State.openInterval (s : State) (w : WaveId) : State :=
  if (s.wave w).starts.isEmpty then
    let cur := s.currentWindows w.blk
    s.updWave w fun x => { x with starts := cur }
  else s

/-- A load or an acquiring atomic reads a sector (R99). -/
def State.noteRead (s : State) (w : WaveId) (l : Loc) : State :=
  match secNumber l.sp l.sec with
  | none => s
  | some n => s.updWave w fun x => { x with reads := insertN n x.reads }

/-! ### Records of levels 1 to 3 (R90, R96, R97) -/

/-- Units of room a record takes: at level 1 a 128-byte line of its owner, above it a sector of its owner. -/
def roomKey (level owner : Nat) (sp : Space) (no : Nat) : Nat × Space × Nat :=
  (owner, sp, if level = 1 then no / 4 else no)

def dedupKeys : List (Nat × Space × Nat) → List (Nat × Space × Nat)
  | [] => []
  | x :: t => if t.contains x then dedupKeys t else x :: dedupKeys t

/-- A record lies in a level's storage: at level 1 that of the core; the records of a saved context lie in its image (R151). -/
def State.sameStore (s : State) (level unit : Nat) (r : Rec) : Bool :=
  decide (r.level = level) && decide ((s.ctx r.ctx).st ≠ .saved) &&
    (if level = 1 then decide ((s.blk r.owner).core = (s.blk unit).core) else decide (r.unit = unit))

/-- Units of room in use in a level's storage (not in shadow areas). -/
def State.storeUsed (s : State) (level unit : Nat) : Nat :=
  (dedupKeys ((s.recs.filter fun r => s.sameStore level unit r && !r.shadow).map
    fun r => roomKey level r.owner r.sec.sp r.sec.no)).length

/-- Capacity of a level's storage in its units (R40, R96, R260). -/
def State.storeCap (s : State) (level blk : Nat) : Nat :=
  match level with
  | 1 => 512 * (s.launchOf blk).sl1
  | 2 => 8192
  | 3 => 262144
  | _ => 0

/-- Capacity of the shadow area of a block's records at a level, in that level's units (R96). -/
def State.areaCap (s : State) (level blk : Nat) : Nat :=
  let b := s.blk blk
  match level with
  | 1 => (s.launchOf blk).shadow 1 * 512
  | 2 => mget 0 (s.ctx b.ctx).quadArea (quadOf b.core) * 2048
  | _ => mget 0 (s.ctx b.ctx).dieArea (dieOf b.core) * 2048

/-- Units in use in that area: the owner block's at level 1, its context's for the quad or die above it (R96). -/
def State.areaUsed (s : State) (level unit blk : Nat) : Nat :=
  let ctx := (s.blk blk).ctx
  (dedupKeys ((s.recs.filter fun r => decide (r.level = level) && r.shadow && decide (r.unit = unit) &&
      (if level = 1 then decide (r.owner = blk) else decide (r.ctx = ctx))).map
    fun r => roomKey level r.owner r.sec.sp r.sec.no)).length

/-- Room for more units of a block's records at a level, storage and shadow area together (R97). -/
def State.roomFor (s : State) (level blk : Nat) : Nat :=
  let u := s.unitOf level blk
  (s.storeCap level blk - s.storeUsed level u) + (s.areaCap level blk - s.areaUsed level u blk)

/-- The units that sectors need at a level beyond those that the block's records there take already (R97). -/
def State.roomNeeded (s : State) (level blk : Nat) (secs : List (Space × Nat)) : Nat :=
  let u := s.unitOf level blk
  let have_ := (s.recs.filter fun r => decide (r.level = level ∧ r.unit = u ∧ r.owner = blk)).map
    fun r => roomKey level blk r.sec.sp r.sec.no
  ((dedupKeys (secs.map fun p => roomKey level blk p.1 p.2)).filter fun k => !have_.contains k).length

/-- Sectors that a commit reserves room for: scratchpad bytes go to their scratchpad and need none (R93). -/
def needsRoom : Space → Bool
  | .scr _ => false
  | _ => true

/-- The reservation of R93 for levels 1 to `top`. -/
def State.canReserve (s : State) (blk top : Nat) (secs : List (Space × Nat)) : Bool :=
  let secs := secs.filter fun p => needsRoom p.1
  (rangeFrom 1 (min top 3)).all fun k => decide (s.roomNeeded k blk secs ≤ s.roomFor k blk)

/-- The bytes of a map that another map does not hold. -/
def mminus (m n : Map Byte) : Map Byte := m.filter fun p => (mfind n p.1).isNone

/-- Two lists of what waves wrote as one. -/
def joinWrote (a b : List (WaveId × Nat)) : List (WaveId × Nat) := a ++ b.filter fun x => !a.contains x

/-- The bytes of a sector as writes of a wave. -/
def Sector.by_ (x : Sector) (w : WaveId) : Sector := { x with wrote := x.bytes.map fun p => (w, p.1) }

/-- The bytes of `m` over those of `n`. -/
def mover (m n : Map Byte) : Map Byte := m.foldl (fun a p => mput a p.1 p.2) n

/-- Two records of one unit of room: at level 1 they lie in one line (R96). -/
def Rec.shares (r q : Rec) : Bool :=
  decide (r.level = q.level ∧ r.unit = q.unit ∧
    roomKey r.level r.owner r.sec.sp r.sec.no = roomKey q.level q.owner q.sec.sp q.sec.no)

/-- The records of a unit of room go to their shadow area, or return from it, together. -/
def State.setShadow (s : State) (q : Rec) (b : Bool) : State :=
  { s with recs := s.recs.map fun r => if r.shares q then { r with shadow := b } else r }

/-- Remove the last clean copy with a hint. -/
def dropLastHint (h : Nat) : List Clean → Option (List Clean)
  | [] => none
  | c :: t =>
    match dropLastHint h t with
    | some t' => some (c :: t')
    | none => if c.hint = h then some t else none

/-- Evict one clean copy: `.stream` first, then the others in least-recently-used order, `.keep` last (R261, R276). (DEDUCED, log 29.) -/
def evictClean (cs : List Clean) : List Clean :=
  match dropLastHint 2 cs with
  | some t => t
  | none =>
    match dropLastHint 0 cs with
    | some t => t
    | none =>
      match dropLastHint 1 cs with
      | some t => t
      | none => cs

/-- Keep as many clean copies as L1 has room for beside the level-1 records (R96, R261). -/
def evictTo : Nat → Nat → List Clean → List Clean
  | 0, _, cs => cs
  | n + 1, room, cs => if cs.length ≤ room then cs else evictTo n room (evictClean cs)

/-- Clean copies make room for the level-1 records of a core (R96, R261). -/
def State.trimCleans (s : State) (blk : Nat) : State :=
  let room := s.storeCap 1 blk - s.storeUsed 1 blk
  if (s.core (s.blk blk).core).cleans.length ≤ room then s
  else s.updCore (s.blk blk).core fun c => { c with cleans := evictTo c.cleans.length room c.cleans }

/-- A record enters a level: its bytes become the newest there (R90). It joins the records of its own unit of room where they
lie; else it takes room in the level's storage, from which a full level spills the oldest unit whose owner's area has room;
when there is none, it lies in its own owner's area (R96, R261). (DEDUCED, log 79.) -/
def State.placeRec (s : State) (level blk : Nat) (sec : Sector) : State :=
  let u := s.unitOf level blk
  let under := s.recs.filter fun r => decide (r.level = level ∧ r.unit = u ∧ r.owner = blk ∧ r.sec.sp = sec.sp ∧ r.sec.no = sec.no)
  let sec := { sec with wrote := under.foldl (fun l r => joinWrote l r.sec.wrote) sec.wrote }
  let new : Rec := { level := level, unit := u, ctx := (s.blk blk).ctx, owner := blk, sec := sec, shadow := false }
  let mates := s.recs.find? new.shares
  let old := s.recs.map fun r =>
    if r.level = level ∧ r.unit = u ∧ r.owner = blk ∧ r.sec.sp = sec.sp ∧ r.sec.no = sec.no then
      { r with sec := { r.sec with bytes := mminus r.sec.bytes sec.bytes } }
    else r
  let s : State := { s with recs := old.filter fun r => !r.sec.bytes.isEmpty }
  let enter (s : State) (shadow : Bool) : State :=
    let s : State := { s with recs := { new with shadow := shadow } :: s.recs }
    if level = 1 then s.trimCleans blk else s
  match mates with
  | some r => enter s r.shadow
  | none =>
    if s.storeUsed level u < s.storeCap level blk then enter s false
    else
      let can : Rec → Bool := fun r => s.sameStore level u r && !r.shadow &&
        Nat.blt (s.areaUsed level r.unit r.owner) (s.areaCap level r.owner)
      match s.recs.reverse.find? can with
      | some r => enter (s.setShadow r true) false
      | none => enter s true

/-! ### Race detector (R122 to R124) -/

/-- The access comes from a thread or an engine acting for a wave: its core, block index, wave and interval. -/
def State.shadowOf (s : State) (w : WaveId) (scope : Nat) (atom : Bool) : Shadow :=
  let b := s.blk w.blk
  { blk := w.blk, atom := atom, core := b.core, blin := b.blin, wv := w.wv, interval := (s.wave w).interval.toNat % 65536, scope := scope }

/-- An access of wave `w` to a sector conflicts with its shadow entry (R123). -/
def State.conflicts (s : State) (w : WaveId) (no : Nat) : Option Shadow :=
  let b := s.blk w.blk
  match mfind s.shadows no with
  | none => none
  | some e =>
    let same := decide (e.core = b.core ∧ e.blin = b.blin ∧ e.wv = w.wv)
    let inUnit := match e.scope with
      | 0 => false
      | 1 => decide (e.core = b.core ∧ e.blin = b.blin)
      | 2 => decide (quadOf e.core = quadOf b.core)
      | 3 => decide (dieOf e.core = dieOf b.core)
      | _ => true
    if same || e.scope == 7 || inUnit then none else some e

/-- A write on a page with the race attribute sets the shadow entry (R122). -/
def State.noteWriteAs (s : State) (w : WaveId) (p : Place) (scope : Nat) (atom : Bool) : State :=
  match p.loc.sp with
  | .glob =>
    if pageRace p.entry = 0 then s
    else { s with shadows := mput s.shadows p.loc.sec (s.shadowOf w scope atom) }
  | _ => s

/-- A store or an engine's write sets the shadow entry, and an atomic does (R122). -/
def State.noteWrite (s : State) (w : WaveId) (p : Place) (scope : Nat) : State := s.noteWriteAs w p scope false
def State.noteAtomic (s : State) (w : WaveId) (p : Place) (scope : Nat) : State := s.noteWriteAs w p scope true

/-- A commit of a wave moves a sector to a level: the entry of the wave, or of a sibling whose record moved (R122). -/
def State.noteCommit (s : State) (w : WaveId) (sp : Space) (no level : Nat) : State :=
  let b := s.blk w.blk
  match sp with
  | .glob =>
    match mfind s.shadows no with
    | none => s
    | some e =>
      if e.core = b.core ∧ e.blin = b.blin ∧ (e.wv = w.wv ∨ (1 ≤ e.scope ∧ e.scope < min level 4)) then
        { s with shadows := mput s.shadows no { e with scope := level, atom := e.atom && e.scope == level } }
      else s
  | _ => s

/-- An abort discards the writer's data for a sector (R122). -/
def State.noteAbort (s : State) (w : WaveId) (sp : Space) (no level : Nat) (deep : Bool) : State :=
  let b := s.blk w.blk
  match sp with
  | .glob =>
    match mfind s.shadows no with
    | none => s
    | some e =>
      if e.core = b.core ∧ e.blin = b.blin ∧ e.scope < level ∧ (e.wv = w.wv ∨ 1 ≤ e.scope ∨ deep = true) then
        { s with shadows := mput s.shadows no { e with scope := 7 } }
      else s
  | _ => s

/-- The bytes of one access as a sector: `n` bytes from a location, which lie in one sector. -/
def sectorOf (l : Loc) (cm : Nat) (bytes : List Byte) : Sector :=
  { sp := l.sp, no := l.sec, cm := cm, bytes := (List.range bytes.length).map fun i => (l.off + i, nth 0 bytes i) }

/-! ### Bytes entering level 4, replicated through an aperture (R93, R120, R380) -/

/-- The loads of a wave no longer find, in the clean copies of a sector's line, the bytes that the wave has written and that have come
home (R108). (DEDUCED, log 29.) -/
def State.hideClean (s : State) (core no : Nat) (wrote : List (WaveId × Nat)) : State :=
  if !wrote.isEmpty && (s.core core).cleans.any (fun c => c.line == no / 4) then
    s.updCore core fun k => { k with cleans := k.cleans.map fun c =>
      if c.line = no / 4 then { c with skip := joinWrote c.skip (wrote.map fun p => (p.1, 32 * (no % 4) + p.2)) } else c }
  else s

/-- A sector's bytes are written at a home, where the sector changes. -/
def State.homeChange (s : State) (by_ : Option WaveId) (sp : Space) (sec : Sector) (no : Nat) : State :=
  let s := (s.homeWrite sp no sec.cm sec.bytes).changed 4 0 sp no by_
  match sp, by_ with
  | .glob, some w => s.hideClean (s.blk w.blk).core no sec.wrote
  | _, _ => s

/-- Bytes of a sector enter level 4: at their home, or at each member page of an aperture, whose writes `note` records in the
shadow entries (R380). (DEDUCED, log 33.) -/
def State.enterHomeWith (s : State) (by_ : Option WaveId) (note : State → Place → State) (sec : Sector) : State :=
  match sec.sp with
  | .aper ctx idx =>
    match (s.ctx ctx).pages.find? fun p => pageAper p.2.entry && aperIndex p.2.entry == idx with
    | none => s
    | some p =>
      p.2.members.foldl (fun s m =>
        let no := pagePA m / 32 + sec.no
        note (s.homeChange by_ .glob sec no) { loc := { sp := .glob, addr := 32 * no }, entry := m })
        (s.changed 4 0 sec.sp sec.no by_)
  | sp => s.homeChange by_ sp sec sec.no

/-- Bytes of a sector enter level 4 for a wave, or for the device itself. -/
def State.enterHome (s : State) (by_ : Option WaveId) (sec : Sector) : State :=
  s.enterHomeWith by_ (fun s p => match by_ with
    | some w => s.noteWrite w p 4
    | none => s) sec

/-! ### Conflicts (R123, R124) -/

/-- Count a discarded log record (R155). -/
def Ctx.lost (c : Ctx) : Ctx :=
  let n := bits c.ctxlogn 63 32
  { c with ctxlogn := BitVec.ofNat 64 (setField c.ctxlogn.toNat 63 32 (min (n + 1) (2 ^ 32 - 1))) }

/-- Who makes an access, as a race-log record names it (R124). -/
structure Accessor where
  ctx : Nat
  core : Nat
  wv : Nat
  blin : Nat
  interval : Nat

/-- Write a conflict to the context's race-log ring (R124, R155). -/
def State.raceLogAs (s : State) (a : Accessor) (e : Shadow) (kind ga : Nat) : State :=
  let c := s.ctx a.ctx
  let n := bits c.ctxlogn 4 0
  let rec_ := toBytes 32 (e.core * 2 ^ 240 + e.wv % 16 * 2 ^ 228 + e.scope % 16 * 2 ^ 224 + e.blin % 2 ^ 32 * 2 ^ 192
    + e.interval * 2 ^ 176 + a.interval % 65536 * 2 ^ 160 + a.core * 2 ^ 144 + a.wv % 16 * 2 ^ 132
    + kind * 2 ^ 128 + a.blin % 2 ^ 32 * 2 ^ 96 + ga % 2 ^ 64)
  if n = 0 ∨ (c.ctxlogwr - c.ctxlogrd).toNat = 2 ^ n then s.updCtx a.ctx Ctx.lost
  else
    let va := (bits c.ctxlog 55 12 * 4096 + 32 * (c.ctxlogwr.toNat % 2 ^ n)) % 2 ^ 56
    match s.translate a.ctx va va .ewrite with
    | .error _ => s.updCtx a.ctx Ctx.lost
    | .ok p =>
      (s.enterHome none (sectorOf p.loc (pageCmode p.entry) rec_)).updCtx a.ctx fun x => { x with ctxlogwr := x.ctxlogwr + 1 }

/-- The log record of an access of a wave. -/
def State.raceLog (s : State) (w : WaveId) (e : Shadow) (kind ga : Nat) : State :=
  let b := s.blk w.blk
  s.raceLogAs { ctx := b.ctx, core := b.core, wv := w.wv, blin := b.blin, interval := (s.wave w).interval.toNat } e kind ga

/-- What the race detector says of an access: go on, or RACE. -/
inductive RaceOut where
  | ok (s : State)
  | race

/-- The check of an access to a page with the race attribute (R123, R124). Two atomics at one place lie in one unit of it, so
that only those of another package need an exception (State.remoteRace). -/
def State.raceCheck (s : State) (w : WaveId) (p : Place) (kind ga : Nat) : RaceOut :=
  match p.loc.sp with
  | .glob =>
    if pageRace p.entry = 0 then .ok s
    else
      match s.conflicts w p.loc.sec with
      | none => .ok s
      | some e =>
        if pageRace p.entry = 1 then .race
        else .ok (s.raceLog w e kind ga)
  | _ => .ok s

/-! ### Stores into level 0 (R40, R88) -/

/-- Bytes enter a wave's level-0 buffer: a new sector as the newest there; one that stands there already keeps its age. (DESIGN
CHOICE, log 85.) -/
def Wave.enter0 (w : Wave) (sec : Sector) : Wave :=
  if w.lvl0.any (fun x => decide (x.sp = sec.sp ∧ x.no = sec.no)) then
    { w with lvl0 := w.lvl0.map fun x =>
        if x.sp = sec.sp ∧ x.no = sec.no then { x with bytes := mover sec.bytes x.bytes, cm := sec.cm } else x }
  else { w with lvl0 := w.lvl0 ++ [sec] }

/-- Place a sector of a wave at a level from 1 to 4 (R93): scratchpad bytes at their scratchpad, others as records of the
block or at home. -/
def State.rise (s : State) (w : WaveId) (level : Nat) (sec : Sector) : State :=
  match sec.sp with
  | .scr _ => s.homeWrite sec.sp sec.no sec.cm sec.bytes
  | _ =>
    if level ≥ 4 then s.enterHome (some w) sec
    else (s.placeRec level w.blk sec).changed level (s.unitOf level w.blk) sec.sp sec.no (some w)

/-- Bytes of one access enter level 0 (R88). A 65th sector first forces the oldest up to level 1 (R40); none when level 1
has no room for it (R97). -/
def State.store0 (s : State) (w : WaveId) (sec : Sector) : Option State :=
  let lv := (s.wave w).lvl0
  if lv.any (fun x => decide (x.sp = sec.sp ∧ x.no = sec.no)) ∨ lv.length < Config.lvl0Max then
    some (s.updWave w fun x => x.enter0 sec)
  else
    match lv with
    | [] => some (s.updWave w fun x => x.enter0 sec)
    | old :: rest =>
      if s.canReserve w.blk 1 [(old.sp, old.no)] then
        let s := s.updWave w fun x => { x with lvl0 := rest }
        let s := s.rise w 1 (old.by_ w)
        let s := s.noteCommit w old.sp old.no 1
        some (s.updWave w fun x => x.enter0 sec)
      else none

/-! ### Commits and aborts (R93, R101 to R103) -/

/-- The sectors that a commit or abort of a wave below level `top` concerns: level 0 of the wave, and the records of its
block at levels 1 to top-1. -/
def State.movedSecs (s : State) (w : WaveId) (top : Nat) (p : Space → Nat → Bool) : List (Space × Nat) :=
  let a := ((s.wave w).lvl0.filter fun x => p x.sp x.no).map fun x => (x.sp, x.no)
  let b := (s.recs.filter fun r => decide (r.owner = w.blk ∧ r.level < top) && p r.sec.sp r.sec.no).map
    fun r => (r.sec.sp, r.sec.no)
  (b.foldl (fun acc k => if acc.contains k then acc else acc ++ [k]) a)

/-- One sector as a commit carries it: level 0 over the lower records of the block, newest first, with the waves that wrote it. -/
def State.carried (s : State) (w : WaveId) (top : Nat) (k : Space × Nat) : Sector :=
  let l0 := ((s.wave w).lvl0.filter fun x => decide (x.sp = k.1 ∧ x.no = k.2)).map fun x => x.by_ w
  let at_ (n : Nat) := (s.recs.filter fun r => decide (r.owner = w.blk ∧ r.level = n ∧ n < top ∧ r.sec.sp = k.1 ∧ r.sec.no = k.2)).map
    fun r => r.sec
  let all := l0 ++ at_ 1 ++ at_ 2 ++ at_ 3
  { sp := k.1, no := k.2, bytes := all.foldr (fun x m => mover x.bytes m) []
    cm := match all with | x :: _ => x.cm | [] => 0
    wrote := all.foldl (fun l x => joinWrote l x.wrote) [] }

/-- Units of records return from their shadow areas while a level's storage has room, those entered last first (R96). (DESIGN
CHOICE, log 78.) -/
def State.backToStore (s : State) (level blk : Nat) : Nat → State
  | 0 => s
  | n + 1 =>
    let u := s.unitOf level blk
    if s.storeUsed level u < s.storeCap level blk then
      match s.recs.find? fun r => r.shadow && s.sameStore level u r with
      | some r => State.backToStore (s.setShadow r false) level blk n
      | none => s
    else s

/-- Records leave a level's storage: others return to it (R96). (DESIGN CHOICE, log 78.) -/
def State.unshadow (s : State) (level blk : Nat) : State :=
  let s := s.backToStore level blk s.recs.length
  if level = 1 then s.trimCleans blk else s

/-- Take one sector away from level 0 of a wave and from its block's records below `top`, noting the change of each
level that loses bytes. -/
def State.takeSector (s : State) (w : WaveId) (top : Nat) (k : Space × Nat) : State :=
  let lost := (s.recs.filter fun r => decide (r.owner = w.blk ∧ r.level < top ∧ r.sec.sp = k.1 ∧ r.sec.no = k.2)).map (·.level)
  let kept := s.recs.filter fun r =>
    !decide (r.owner = w.blk ∧ r.level < top ∧ r.sec.sp = k.1 ∧ r.sec.no = k.2)
  let s := { s with recs := kept }
  let s := s.updWave w fun x => { x with lvl0 := x.lvl0.filter fun y => !decide (y.sp = k.1 ∧ y.no = k.2) }
  (sortN lost).foldl (fun s n => s.changed n (s.unitOf n w.blk) k.1 k.2 (some w)) s

/-- Move the sectors that `p` accepts up to a level from 1 to 4, without a reservation; `scope` is that of the commit (R122). -/
def State.moveSecs (s : State) (w : WaveId) (top scope : Nat) (p : Space → Nat → Bool) : State :=
  let keys := s.movedSecs w top p
  let s := keys.foldl (fun s k =>
    let sec := s.carried w top k
    let s := s.takeSector w top k
    (s.rise w top sec).noteCommit w k.1 k.2 scope) s
  (rangeFrom 1 (min top 4 - 1)).foldl (fun s n => s.unshadow n w.blk) s

def anySec : Space → Nat → Bool := fun _ _ => true

/-- What `commit(w, L)` moves (R93); none when it traps WBOVF (R97). The interval has not ended. (DEDUCED, log 73.) -/
def State.commitMoves (s : State) (w : WaveId) (level : Nat) : Option State :=
  if level = 0 then some s
  else
    let top := min level 4
    if s.canReserve w.blk top (s.movedSecs w top anySec) then some (s.moveSecs w top level anySec) else none

/-- `commit(w, L)` that awaits no acknowledgement (R93); none when it traps WBOVF (R97). (DEDUCED, log 73.) -/
def State.commit (s : State) (w : WaveId) (level : Nat) : Option State := (s.commitMoves w level).map fun t => t.endInterval w

/-- The commit of the sectors of some accesses before an atomic is performed at a level (R116); it ends no interval. (DEDUCED, log 73.) -/
def State.commitSecs (s : State) (w : WaveId) (level : Nat) (keys : List (Space × Nat)) : Option State :=
  if level = 0 then some s
  else
    let top := min level 4
    let p := fun sp no => keys.contains (sp, no)
    if s.canReserve w.blk top (s.movedSecs w top p) then some (s.moveSecs w top level p) else none

/-- The windows that a checked commit looks at, none when the starting window has been dropped (R101). -/
def windowsSince (start : Nat) (ws : List Window) : Option (List Window) :=
  if ws.any (fun w => w.seq == start) then some (ws.filter fun w => decide (start ≤ w.seq)) else none

/-- The sectors that other waves changed in some windows (R100). (DEDUCED, log 31.) -/
def changesOf (w : WaveId) (ws : List Window) : List Nat :=
  ws.flatMap fun x => (x.changes.filter fun c => decide (c.2 ≠ some w)).map (·.1)

/-- The filter finds a conflict of a wave's read signature or of its moved sectors with changes (R101). (DEDUCED, log 31.) -/
def filterConflict (reads moved changes : List Nat) : Bool :=
  let g1 := changes.map hashG
  let g2 := changes.map hashH1 ++ changes.map hashH2
  reads.any (fun r => g1.contains (hashG r)) || moved.any (fun m => g2.contains (hashH1 m) && g2.contains (hashH2 m))

/-- The decision of `COMMIT.L.chk`: whether the commit may be made (R101). (DEDUCED, log 31.) -/
def State.checkPasses (s : State) (w : WaveId) (level : Nat) : Bool :=
  let x := s.wave w
  let since := (s.filtersOf level w.blk).map fun u =>
    windowsSince (nth 0 x.starts (if level = 4 then 3 + u else level - 1)) (s.windows level u)
  let moved := (s.movedSecs w level anySec).filterMap fun k => secNumber k.1 k.2
  since.all Option.isSome && !x.restoredOpen &&
    !filterConflict x.reads moved (since.flatMap fun ws => changesOf w (ws.getD []))

/-- Discard the level-0 buffer of a wave (R102, R103). -/
def State.dropLevel0 (s : State) (w : WaveId) : State := s.updWave w fun x => { x with lvl0 := [] }

/-- `ABORT.L` (R102, R103). A sibling that has issued nothing has no interval that could end (R98). (DEDUCED, log 73.) -/
def State.abort (s : State) (w : WaveId) (level : Nat) (deep : Bool) : State :=
  let keys := s.movedSecs w level anySec
  let s := keys.foldl (fun s k => (s.takeSector w level k).noteAbort w k.1 k.2 level false) s
  let s := (s.dropLevel0 w).endInterval w
  let s := if deep then
      (s.blk w.blk).waves.foldl (fun s p =>
        let v : WaveId := { blk := w.blk, wv := p.1 }
        if p.1 = w.wv then s
        else
          let secs := (s.wave v).lvl0
          let s := secs.foldl (fun s x => s.noteAbort v x.sp x.no level true) s
          if (s.wave v).starts.isEmpty then s else (s.dropLevel0 v).endInterval v) s
    else s
  (rangeFrom 1 (min level 4 - 1)).foldl (fun s n => s.unshadow n w.blk) s

/-! ### Loads (R91, R92, R110) -/

/-- The newest byte that a level's records hold for a block's lookup (R90, R91, R156). (DEDUCED, log 30.) -/
def State.levelByte (s : State) (level blk : Nat) (l : Loc) : Option Byte :=
  let u := s.unitOf level blk
  let ctx := (s.blk blk).ctx
  (s.recs.find? fun r => decide (r.level = level ∧ r.unit = u ∧ r.ctx = ctx ∧ r.sec.sp = l.sp ∧ r.sec.no = l.sec) &&
    (mfind r.sec.bytes l.off).isSome).bind fun r => mfind r.sec.bytes l.off

/-- The byte of a wave's level-0 buffer. (DEDUCED, log 30.) -/
def State.bufByte (s : State) (w : WaveId) (l : Loc) : Option Byte :=
  ((s.wave w).lvl0.find? fun x => decide (x.sp = l.sp ∧ x.no = l.sec)).bind fun x => mfind x.bytes l.off

/-- The byte that a clean copy of its line in L1 gives a wave's load. Barrier objects and rings are read at their home (R307,
R362). (DEDUCED, log 29.) -/
def State.cleanByte (s : State) (w : WaveId) (l : Loc) : Option Byte :=
  match l.sp with
  | .glob =>
    match (s.core (s.blk w.blk).core).cleans.find? fun c => c.line == l.addr / 128 with
    | some c => if s.guarded l || c.skip.contains (w, l.addr % 128) then none else some (mget 0 c.data (l.addr % 128))
    | none => none
  | _ => none

/-- The places of R91 for a lookup from a level upwards; `clean` says whether it takes step 5. (DEDUCED, log 30.) -/
def State.lookup (s : State) (w : WaveId) (from_ : Nat) (clean : Bool) (l : Loc) : Byte :=
  let lv (k : Nat) : Option Byte := if from_ ≤ k then s.levelByte k w.blk l else none
  let b0 : Option Byte := if from_ = 0 then s.bufByte w l else none
  let cl : Option Byte := if clean then s.cleanByte w l else none
  match b0.orElse fun _ => (lv 1).orElse fun _ => (lv 2).orElse fun _ => (lv 3).orElse fun _ => cl with
  | some b => b
  | none => s.homeByte l

/-- No record of levels 0 to 3 gives a wave's load the byte. -/
def State.pastRecords (s : State) (w : WaveId) (l : Loc) : Bool :=
  (s.bufByte w l).isNone && (s.levelByte 1 w.blk l).isNone && (s.levelByte 2 w.blk l).isNone && (s.levelByte 3 w.blk l).isNone

/-- A lookup that goes past the records and the clean copies reads home (R91 step 6). -/
def State.readsHome (s : State) (w : WaveId) (l : Loc) : Bool := s.pastRecords w l && (s.cleanByte w l).isNone

/-- A lookup that goes past the records takes its byte from a clean copy (R91 step 5). -/
def State.readsClean (s : State) (w : WaveId) (l : Loc) : Bool := s.pastRecords w l && (s.cleanByte w l).isSome

/-- A load that reads home installs a clean copy of the line, for which others make room (R92, R261, R276); a copy that stands already
stays. (DEDUCED, log 29.) -/
def State.installClean (s : State) (w : WaveId) (hint : Nat) (l : Loc) : State :=
  let core := (s.blk w.blk).core
  match l.sp with
  | .glob =>
    let line := l.addr / 128
    let data := ((List.range 128).map fun i => (i, s.memByte (128 * line + i))).filter fun p => decide (p.2 ≠ 0)
    let room := s.storeCap 1 w.blk - s.storeUsed 1 w.blk
    if room = 0 ∨ (s.core core).cleans.any (fun x => x.line == line) = true then s
    else
      s.updCore core fun c =>
        { c with cleans := { line := line, data := data, hint := hint, skip := [] } :: evictTo c.cleans.length (room - 1) c.cleans }
  | _ => s

/-- A use of a copy moves it to the front, and a hint other than normal marks it anew (R261, R276). (DEDUCED, log 29.) -/
def State.touchClean (s : State) (w : WaveId) (hint : Nat) (l : Loc) : State :=
  let mark (x : Clean) : Clean := if hint = 0 then x else { x with hint := hint }
  match l.sp with
  | .glob => s.updCore (s.blk w.blk).core fun c =>
      { c with cleans := (c.cleans.filter fun x => x.line == l.addr / 128).map mark ++ c.cleans.filter fun x => x.line != l.addr / 128 }
  | _ => s

/-- An acquire at `.die` or wider invalidates the clean copies that the block's loads could read (R110). (DEDUCED, log 29.) -/
def State.invalidateCleans (s : State) (blk : Nat) : State :=
  s.updCore (s.blk blk).core fun c => { c with cleans := [] }

/-- The bytes of a clean copy that are older than home. -/
def State.staleBytes (s : State) (c : Clean) : List Nat :=
  (List.range 128).filter fun i => decide (mget 0 c.data i ≠ s.memByte (128 * c.line + i))

/-- A narrower acquire leaves the copies, but the loads of its wave no longer find the bytes of them that are older than home (R111,
R115). (DEDUCED, log 29.) -/
def State.hideStale (s : State) (w : WaveId) : State :=
  s.updCore (s.blk w.blk).core fun k =>
    { k with cleans := k.cleans.map fun c => { c with skip := joinWrote c.skip ((s.staleBytes c).map fun i => (w, i)) } }

/-- The bytes of a plain load at the moment it is performed (R91), with the clean copies it installs. (DEDUCED, log 30.) -/
def State.plainRead (s : State) (w : WaveId) (hint : Nat) (bypass : Bool) (ls : List Loc) : Nat × State :=
  let v := ofBytes (ls.map (s.lookup w 0 (!bypass)))
  let s := match ls with
    | [] => s
    | l :: _ =>
      if bypass then s
      else
        let t := if ls.any (s.readsClean w) then s.touchClean w hint l else s
        if ls.any (s.readsHome w) then t.installClean w hint l else t
  (v, s)

/-- The bytes of an engine's read: steps 2, 3, 4 and 6 of R91 (R30, R276, R293). -/
def State.engineRead (s : State) (w : WaveId) (l : Loc) : Byte := s.lookup w 1 false l

/-- Bytes of one sector that an engine writes for a wave at a level (R30, R90, R293); scratchpad bytes land in the
scratchpad. Of a context that discards its results only home is written (R149). (DEDUCED, log 60.) -/
def State.engineWrite (s : State) (w : WaveId) (level : Nat) (p : Place) (bytes : List Byte) : State :=
  if s.frozen p.loc.sp || (s.discards (s.blk w.blk).ctx && Nat.blt level 4) then s
  else (s.rise w (min level 4) ((sectorOf p.loc (pageCmode p.entry) bytes).by_ w)).noteWrite w p level

end Sys2Proof.Machine
end

