-- ==== Sys2Proof/Machine/Atomics.lean ====
section
/-! DEFINITION. Atomic operations: the new value, and how the memory-side engine performs a request (spec/12_memory_side.md R355 to R359; spec/08_memory_engine.md R280). -/

namespace Sys2Proof.Machine

open Sys2Proof

/-- The new value of an atomic (R280, R357). -/
def atomicNew (op : Nat) (t : Ty) (old b c : Nat) : Nat :=
  let m := 2 ^ t.bits
  match op with
  | 0 =>
    if t.isFloat then (t.ffmt.deliver ((t.ffmt.value old).add (t.ffmt.value b) .rne).1 .rne false 0).1
    else (old + b) % m
  | 1 => if t.val old ≤ t.val b then old % m else b % m
  | 2 => if t.val b ≤ t.val old then old % m else b % m
  | 3 => (old &&& b) % m
  | 4 => (old ||| b) % m
  | 5 => (old ^^^ b) % m
  | 6 => b % m
  | 7 => if old % m = b % m then c % m else old % m
  | _ => if old % m < b % m then (old + 1) % m else old % m

/-- One step of FMLD's reduction of an element with the next member's, and of member 0's element alone (R381). -/
def reduceStep (op : Nat) (t : Ty) (r m : Nat) : Nat :=
  if t.isFloat ∧ op ≠ 0 then (FFmt.minMax t.ffmt (op == 2) r m).1 else atomicNew op t r m 0
def reduceFirst (t : Ty) (m : Nat) : Nat := if t.isFloat then (t.ffmt.deliver (t.ffmt.value m) .rne false 0).1 else m

/-- The reduction over the members, in the descriptor's order. -/
def reduceMembers (op : Nat) (t : Ty) : List Nat → Nat
  | [] => 0
  | m :: rest => rest.foldl (reduceStep op t) (reduceFirst t m)

/-- The home of a location of global memory: the die that holds it (R18, R355). -/
def Loc.homeDie (l : Loc) : Nat := l.addr / Config.homeSize

/-- A request waits for an earlier one of its wave at the same home: one of another instruction, or one of a lower lane on
the same element (R358, R359). (DEDUCED, log 38.) -/
def State.msBlocked (s : State) (id : Nat) (r : MsReq) : Bool :=
  s.msReqs.any fun q => decide (q.1 < id ∧ q.2.wid = r.wid ∧ q.2.place.loc.homeDie = r.place.loc.homeDie) &&
    (decide (q.2.group ≠ r.group) || decide (q.2.place.loc = r.place.loc))

/-- The old value goes to the lane of the destination register. -/
def Producer.answer (p : Producer) (kind : ProdKind) (w : WaveId) (dest lane v : Nat) : Producer :=
  if p.kind = kind ∧ p.wid = w ∧ p.dest = dest then { p with lanes := mput p.lanes lane (.known v) } else p

/-- One element is read and written at its level-4 place as one indivisible step (R358, R373). (DEDUCED, log 38.) -/
def State.msPerform (s : State) (id : Nat) (r : MsReq) : State :=
  let n := r.ty.bits / 8
  let old := s.homeNat r.place.loc n
  let sec := sectorOf r.place.loc (pageCmode r.place.entry) (toBytes n (atomicNew r.op r.ty old r.b r.c))
  let s := (s.enterHome (some r.wid) (sec.by_ r.wid)).noteAtomic r.wid r.place 4
  let s : State := { s with msReqs := mdel s.msReqs id }
  match r.dest with
  | none => s
  | some d => { s with producers := s.producers.map fun p => (p.1, p.2.answer .mside r.wid d r.lane old) }

/-- Every outstanding request of a wave is performed, in the order of its issue. (DEDUCED, log 38.) -/
def State.msDrain (s : State) (w : WaveId) : State :=
  (s.msReqs.filter fun p => decide (p.2.wid = w)).foldl (fun s p => s.msPerform p.1 p.2) s

end Sys2Proof.Machine
end

