-- ==== Sys2Proof/Machine/Rings.lean ====
section
/-! DEFINITION. Stage rings at their homes: reservations, pushes, pops, landings and waiters (spec/12_memory_side.md R361 to R366), and the acquire (R110). -/

namespace Sys2Proof.Machine

open Sys2Proof

/-! ### Acquire (R108, R110, R113, R114) -/

/-- A lane of a load reads now, if it has not yet (R108). -/
def State.settleLane (s : State) (w : WaveId) (hint : Nat) (x : LaneSrc) : LaneSrc × State :=
  match x with
  | .read at_ bypass => ((.known (s.plainRead w hint bypass at_).1), (s.plainRead w hint bypass at_).2)
  | .reduce op ty ms => (.known (reduceMembers op ty (ms.map fun ls => ofBytes (ls.map s.homeByte))), s)
  | y => (y, s)

/-- The bytes that a lane of a load has still to read. -/
def LaneSrc.unread : LaneSrc → List Loc
  | .read at_ _ => at_
  | .reduce _ _ ms => ms.flatten
  | _ => []

/-- The lanes of a load that `p` accepts read now. -/
def State.settleLanes (s : State) (w : WaveId) (hint : Nat) (p : Nat → Bool) : Map LaneSrc → Map LaneSrc × State
  | [] => ([], s)
  | (l, x) :: t =>
    let r := if p l then s.settleLane w hint x else (x, s)
    let rest := State.settleLanes r.2 w hint p t
    ((l, r.1) :: rest.1, rest.2)

/-- The outstanding plain loads of a wave that `p` accepts, by producer and lane, are performed now, in the order of their issue.
(DEDUCED, log 28.) -/
def State.settle (s : State) (w : WaveId) (p : Nat → Nat → Bool) : State :=
  (s.producers.filter fun q => decide (q.2.wid = w)).foldl (fun s q =>
    let r := s.settleLanes w q.2.hint (p q.1) q.2.lanes
    { r.2 with producers := mput r.2.producers q.1 { q.2 with lanes := r.1 } }) s

/-- Two accesses share a byte. -/
def shareByte (ls ms : List Loc) : Bool := ls.any ms.contains

/-- Of a thread's outstanding loads, latest first, those that some later one of them, or the access of the bytes `ls`, shares a
byte with. -/
def sharing (ls : List Loc) : List (Nat × List Loc) → List Nat
  | [] => []
  | (id, at_) :: t => if shareByte at_ ls then id :: sharing (at_ ++ ls) t else sharing ls t

/-- The loads of a thread before producer `bound` that share a byte with an access are performed, so that its accesses to one byte
take effect in program order (R108). (DEDUCED, log 28.) -/
def State.settleFor (s : State) (w : WaveId) (lane bound : Nat) (ls : List Loc) : State :=
  let mine := (s.producers.filter fun q => decide (q.2.wid = w ∧ q.1 < bound)).map fun q =>
    (q.1, ((mfind q.2.lanes lane).map LaneSrc.unread).getD [])
  match sharing ls mine.reverse with
  | [] => s
  | ids => s.settle w fun id l => l == lane && ids.contains id

/-- Order every later access of a wave after its earlier loads and memory-side atomics (R108, R113, R114). (DEDUCED, log 28, 38.) -/
def State.orderLoads (s : State) (w : WaveId) : State := (s.settle w fun _ _ => true).msDrain w

/-- An acquire of a wave at a scope, but for its own read (R110). (DEDUCED, log 29.) -/
def State.acquire (s : State) (w : WaveId) (scope : Nat) : State :=
  let s := s.orderLoads w
  if 3 ≤ scope then s.invalidateCleans w.blk else s.hideStale w

/-! ### Ring records (R361) -/

def rTAIL : Nat := 28
def rHEAD : Nat := 24
def rFREE : Nat := 20
def rAVAIL : Nat := 16
def rPSTALL : Nat := 12
def rQSTALL : Nat := 8

/-- A 32-bit field of a ring's record, or a slot. -/
def State.ringWord (s : State) (r : RingRef) (off : Nat) : Nat := s.homeNat (r.loc off) 4
def State.setRingWord (s : State) (r : RingRef) (off v : Nat) : State :=
  s.setHomeBytes (r.loc off) (toBytes 4 (v % 2 ^ 32))

/-- Slots of a ring. -/
def State.ringSlots (s : State) (r : RingRef) : Nat := 2 ^ field (s.homeByte (r.loc 0)).toNat 7 3

/-- The scope of a ring, in the codes of R56 (R362). -/
def RingRef.scope (r : RingRef) : Nat :=
  match r.sp with
  | .glob => 4
  | _ => 1

/-- The element of index `i` has landed (R361). -/
def State.ringLanded (s : State) (r : RingRef) (i : Nat) : Bool :=
  let n := s.ringSlots r
  (s.homeByte (r.loc (32 + 4 * n + i % n / 8))).getLsbD (i % n % 8) == decide (i / n % 2 = 1)

/-- Two bindings are of one ring: its record lies at one place (R363). -/
def RingRef.same (r q : RingRef) : Bool := decide (r.loc 0 = q.loc 0)

/-- A ring as its home knows it now: an init may have given it other slots since it was bound (R363, R368). -/
def State.ringNow (s : State) (r : RingRef) : RingRef := ((s.ringObjs.find? fun o => o.1.same r).map (·.1)).getD r

/-- The queue register's ring (R363). -/
def State.binding (s : State) (b q : Nat) : Option RingRef := (mfind (s.blk b).queues q).map s.ringNow

/-! ### Waiters (R365) -/

/-- The waiting entry that a wave's threads already have. -/
def RingWait.isOf (x : RingWait) (r : RingRef) (push : Bool) (w : WaveId) (lanes : List Nat) : Bool :=
  x.ring.same r && decide (x.push = push ∧ x.wid = w) && x.lanes.any lanes.contains

/-- An older reservation of the same kind waits. -/
def olderWaits (r : RingRef) (push : Bool) (w : WaveId) (lanes : List Nat) : List RingWait → Bool
  | [] => false
  | x :: t =>
    if x.isOf r push w lanes then false else (x.ring.same r && decide (x.push = push)) || olderWaits r push w lanes t

/-- Send a wake notice to the oldest waiter of a kind. -/
def noticeFirst (r : RingRef) (push : Bool) : List RingWait → List RingWait
  | [] => []
  | x :: t => if x.ring.same r && decide (x.push = push) then { x with notice := true } :: t else x :: noticeFirst r push t

/-- `FREE` or `AVAIL` of a ring has changed (R365). -/
def State.ringChanged (s : State) (r : RingRef) (push : Bool) : State :=
  { s with ringWaits := noticeFirst r push s.ringWaits }

/-- Set `FREE` or `AVAIL`. -/
def State.setFree (s : State) (r : RingRef) (v : Nat) : State := (s.setRingWord r rFREE v).ringChanged r true
def State.setAvail (s : State) (r : RingRef) (v : Nat) : State := (s.setRingWord r rAVAIL v).ringChanged r false

/-- A stalled execution sleeps on the ring: it is counted and takes its place among the waiters (R365). When only the reservations
of earlier waves of its group stood in its way, `room` says so, and it is woken at once. -/
def State.ringStall (s : State) (r : RingRef) (push : Bool) (w : WaveId) (lanes : List Nat) (q : Nat) (room : Bool) : State :=
  if s.ringWaits.any fun x => x.isOf r push w lanes then
    { s with ringWaits := s.ringWaits.map fun x => if x.isOf r push w lanes then { x with notice := x.notice || room } else x }
  else
    let off := if push then rPSTALL else rQSTALL
    let s := s.setRingWord r off (min (s.ringWord r off + 1) (2 ^ 32 - 1))
    { s with
      ringWaits := s.ringWaits ++
        [{ ring := r, push := push, wid := w, lanes := lanes, queue := q, id := s.nextId, notice := room }]
      nextId := s.nextId + 1 }

/-- The reservation of waiting threads has been made. -/
def State.ringServed (s : State) (r : RingRef) (push : Bool) (w : WaveId) (lanes : List Nat) : State :=
  { s with ringWaits := s.ringWaits.filter fun x => !x.isOf r push w lanes }

/-- Threads that go on, or that cannot go on with a ring, wait for no reservation any more. -/
def State.forgetWaits (s : State) (w : WaveId) (lanes : List Nat) : State :=
  { s with ringWaits := s.ringWaits.filter fun x => !(decide (x.wid = w) && x.lanes.any lanes.contains) }

/-! ### Push and pop (R364) -/

/-- A pop of `k` elements can be made by these threads now (R365). -/
def State.canPop (s : State) (r : RingRef) (w : WaveId) (lanes : List Nat) (k : Nat) : Bool :=
  decide (k ≤ s.ringWord r rAVAIL) && !olderWaits r false w lanes s.ringWaits

/-- A push of `k` elements can be reserved by these threads now. -/
def State.canPush (s : State) (r : RingRef) (w : WaveId) (lanes : List Nat) (k : Nat) : Bool :=
  decide (k ≤ s.ringWord r rFREE) && !olderWaits r true w lanes s.ringWaits

/-- The element `i` places behind `HEAD`. -/
def State.ringPeek (s : State) (r : RingRef) (i : Nat) : Nat :=
  s.ringWord r (32 + 4 * ((s.ringWord r rHEAD + i) % s.ringSlots r))

/-- Take `k` elements, and acquire at the ring's scope. -/
def State.ringPop (s : State) (r : RingRef) (w : WaveId) (lanes : List Nat) (k : Nat) : State :=
  let s := s.ringServed r false w lanes
  let s := s.setRingWord r rHEAD (s.ringWord r rHEAD + k)
  let s := s.setAvail r (s.ringWord r rAVAIL - k)
  let s := s.setFree r (s.ringWord r rFREE + k)
  s.acquire w r.scope

/-- Reserve `k` indices for a push: the elements in flight, with the first of their numbers. -/
def State.ringReserve (s : State) (r : RingRef) (w : WaveId) (lanes : List Nat) (vals : List (Option Word)) : Nat × State :=
  let k := vals.length
  let tail := s.ringWord r rTAIL
  let first := s.nextId
  let s := s.ringServed r true w lanes
  let s := s.setRingWord r rTAIL (tail + k)
  let s := s.setFree r (s.ringWord r rFREE - k)
  let new := (List.range k).map fun j =>
    (first + j, ({ ring := r, index := (tail + j) % 2 ^ 32, value := nth none vals j } : RingElem))
  (first, { s with ringElems := new.foldl (fun m p => mput m p.1 p.2) s.ringElems, nextId := first + k })

/-- `AVAIL` rises while the next element has landed. -/
def State.raiseAvail (s : State) (r : RingRef) : Nat → State
  | 0 => s
  | n + 1 =>
    let a := s.ringWord r rAVAIL
    let i := (s.ringWord r rHEAD + a) % 2 ^ 32
    if a < s.ringSlots r - s.ringWord r rFREE ∧ s.ringLanded r i = true then State.raiseAvail (s.setAvail r (a + 1)) r n
    else s

/-- An element lands in its slot (R364). -/
def State.ringLand (s : State) (r : RingRef) (i : Nat) (v : Word) : State :=
  let n := s.ringSlots r
  let s := s.setRingWord r (32 + 4 * (i % n)) v.toNat
  let at_ := r.loc (32 + 4 * n + i % n / 8)
  let b := (s.homeByte at_).toNat
  let s := s.setHomeByte at_ (BitVec.ofNat 8 (setField b (i % n % 8) (i % n % 8) (i / n % 2)))
  s.raiseAvail r n

end Sys2Proof.Machine
end

