-- ==== Sys2Proof/Decode.lean ====
section
/-! DEFINITION. The decoder and the encoder of instruction words (spec/02_encoding.md R44 to R50, R53, R67). -/

namespace Sys2Proof

open Sys2Proof.Machine

/-- `TY` as a type (R53). -/
def Ty.ofCode (c : BitVec 4) : Ty :=
  match c.toNat with
  | 0 => .b32 | 1 => .s8 | 2 => .s16 | 3 => .s32 | 4 => .s64 | 5 => .n8 | 6 => .n16 | 7 => .n32
  | 8 => .n64 | 9 => .b64 | 10 => .f32 | 11 => .f16 | 12 => .bf16 | 13 => .e4m3 | 14 => .e5m2 | _ => .q4

/-- The code of a type (R53). -/
def Ty.code : Ty → BitVec 4
  | .b32 => 0 | .s8 => 1 | .s16 => 2 | .s32 => 3 | .s64 => 4 | .n8 => 5 | .n16 => 6 | .n32 => 7
  | .n64 => 8 | .b64 => 9 | .f32 => 10 | .f16 => 11 | .bf16 => 12 | .e4m3 => 13 | .e5m2 => 14 | .q4 => 15

/-- The special source of a code from 912 to 932 (R62). -/
def Special.ofCode (c : Nat) : Option Special :=
  match c with
  | 912 => some .lane | 913 => some .wave | 914 => some .blockx | 915 => some .blocky | 916 => some .blockz
  | 917 => some .gridx | 918 => some .gridy | 919 => some .gridz | 920 => some .nwave | 921 => some .clurank
  | 922 => some .width | 923 => some .core | 924 => some .dieid | 925 => some .pkgid | 926 => some .slot
  | 927 => some .cyclelo | 928 => some .cyclehi | 929 => some .clocklo | 930 => some .clockhi
  | 931 => some .datalo | 932 => some .datahi | _ => none

/-- What an operand code names (R57). -/
def Operand.ofCode (c : BitVec 10) : Operand :=
  let n := c.toNat
  if n < 768 then .vec n
  else if n < 896 then .sca (n - 768)
  else if n < 912 then .que (n - 896)
  else if n < 960 then
    match Special.ofCode n with
    | some k => .spec k
    | none => .rsv
  else if n < 992 then .imm ((n : Int) - 960)
  else if n < 1008 then .imm (991 - (n : Int))
  else if n < 1016 then .flt (n - 1008)
  else if n = 1016 then .lit
  else .rsv

/-- Why a word does not decode: `LEN` 0b11 (R46), an unassigned opcode or a length that its format does not
permit (R49, R67), or fewer bytes than the instruction has. -/
inductive DecodeError where
  | illen | illop | short
deriving DecidableEq, Repr

/-- The base format of a major opcode (R49, R67). -/
inductive Fmt where
  | a64 | c96 | k96 | m128
deriving DecidableEq, Repr

/-- The fields of an instruction by its format, or none for a row that no word encodes. -/
inductive Form where
  | fa (x : FA) | fc (x : FC) | fk (x : FK) | fm (x : FM) | none
deriving DecidableEq, Repr

/-- The base format of each assigned major opcode (R67). -/
def fmtOf (maj : Nat) : Option Fmt :=
  match maj with
  | 0x00 => some .k96
  | 0x01 => some .a64
  | 0x02 => some .k96
  | 0x03 => some .a64
  | 0x04 => some .a64
  | 0x05 => some .a64
  | 0x20 => some .a64
  | 0x21 => some .a64
  | 0x22 => some .k96
  | 0x23 => some .c96
  | 0x40 => some .a64
  | 0x41 => some .a64
  | 0x42 => some .c96
  | 0x44 => some .a64
  | 0x45 => some .c96
  | 0x46 => some .c96
  | 0x50 => some .a64
  | 0x51 => some .a64
  | 0x52 => some .m128
  | 0x53 => some .c96
  | 0x80 => some .a64
  | 0x81 => some .m128
  | 0xA0 => some .m128
  | 0xA1 => some .a64
  | 0xA2 => some .m128
  | 0xA3 => some .a64
  | 0xC0 => some .m128
  | 0xC1 => some .a64
  | 0xC2 => some .a64
  | 0xC3 => some .c96
  | 0xD0 => some .m128
  | 0xD1 => some .a64
  | 0xE0 => some .m128
  | 0xE8 => some .m128
  | 0xE9 => some .a64
  | 0xF0 => some .a64
  | _ => none

/-- The instruction of format A64 at (`MAJ`, `FN`) with the given fields (R67). -/
def instrA (maj fn : Nat) (x : FA) : Option Instr :=
  match maj, fn with
  | 0x01, 0 => some (.brx x)
  | 0x01, 1 => some (.ret x)
  | 0x01, 2 => some (.exit x)
  | 0x01, 3 => some (.exitChain x)
  | 0x01, 4 => some (.eret x)
  | 0x01, 5 => some (.brkpt x)
  | 0x01, 6 => some (.nop x)
  | 0x01, 7 => some (.yield x)
  | 0x01, 8 => some (.sleep x)
  | 0x01, 9 => some (.cvg x)
  | 0x03, 0 => some (.rls x)
  | 0x04, 0 => some (.rdsr x)
  | 0x04, 1 => some (.wrsr x)
  | 0x05, 0 => some (.pand x)
  | 0x05, 1 => some (.por x)
  | 0x05, 2 => some (.pxor x)
  | 0x05, 3 => some (.pnot x)
  | 0x05, 4 => some (.pmov x)
  | 0x05, 5 => some (.pmovToScalar x)
  | 0x05, 6 => some (.pmovFromScalar x)
  | 0x20, 0 => some (.sadd x)
  | 0x20, 1 => some (.ssub x)
  | 0x20, 2 => some (.smul x)
  | 0x20, 3 => some (.smulh x)
  | 0x20, 4 => some (.sand x)
  | 0x20, 5 => some (.sor x)
  | 0x20, 6 => some (.sxor x)
  | 0x20, 7 => some (.sshl x)
  | 0x20, 8 => some (.sshr x)
  | 0x20, 9 => some (.smin x)
  | 0x20, 10 => some (.smax x)
  | 0x20, 11 => some (.smov x)
  | 0x20, 12 => some (.sffs x)
  | 0x20, 13 => some (.spopc x)
  | 0x21, 0 => some (.scmp x)
  | 0x21, 1 => if x.hd.md.getLsbD 0 then some (.smovxSt x) else some (.smovx x)
  | 0x40, 0 => some (.vadd x)
  | 0x40, 1 => some (.vsub x)
  | 0x40, 2 => some (.vmul x)
  | 0x40, 3 => some (.vmulh x)
  | 0x40, 4 => some (.vmin x)
  | 0x40, 5 => some (.vmax x)
  | 0x40, 6 => some (.vabs x)
  | 0x40, 7 => some (.vneg x)
  | 0x40, 8 => some (.vand x)
  | 0x40, 9 => some (.vor x)
  | 0x40, 10 => some (.vxor x)
  | 0x40, 11 => some (.vnot x)
  | 0x40, 12 => some (.vshl x)
  | 0x40, 13 => some (.vshr x)
  | 0x40, 14 => some (.vpopc x)
  | 0x40, 15 => some (.vclz x)
  | 0x41, 0 => some (.vcmp x)
  | 0x41, 1 => some (.vmov x)
  | 0x41, 2 => if x.hd.md.getLsbD 0 then some (.vmovxSt x) else some (.vmovx x)
  | 0x44, 0 => some (.vfadd x)
  | 0x44, 1 => some (.vfsub x)
  | 0x44, 2 => some (.vfmul x)
  | 0x44, 3 => some (.vfmin x)
  | 0x44, 4 => some (.vfmax x)
  | 0x44, 5 => some (.vfabs x)
  | 0x44, 6 => some (.vfneg x)
  | 0x44, 7 => some (.vfcmp x)
  | 0x44, 8 => some (.vfclass x)
  | 0x44, 9 => some (.vfrnd x)
  | 0x50, 0 => some (.lxor x)
  | 0x50, 1 => some (.lshf x)
  | 0x50, 2 => some (.lperm x)
  | 0x50, 3 => some (.lbc x)
  | 0x50, 4 => some (.lred x)
  | 0x50, 5 => some (.lscan x)
  | 0x50, 6 => some (.lvote x)
  | 0x51, 0 => some (.vrcp x)
  | 0x51, 1 => some (.vrsq x)
  | 0x51, 2 => some (.vsqrt x)
  | 0x51, 3 => some (.vexp2 x)
  | 0x51, 4 => some (.vlog2 x)
  | 0x51, 5 => some (.vsin x)
  | 0x51, 6 => some (.vcos x)
  | 0x51, 7 => some (.vtanh x)
  | 0x51, 8 => some (.vact x)
  | 0x80, 0 => some (.mrsv x)
  | 0x80, 1 => some (.mrel x)
  | 0x80, 2 => some (.cvset x)
  | 0x80, 3 => some (.mzero x)
  | 0xA1, 0 => if x.hd.md.getLsbD 3 then some (.commitChk x) else some (.commit x)
  | 0xA1, 1 => some (.abort x)
  | 0xA1, 2 => some (.fence x)
  | 0xA3, 0 => some (.tlook x)
  | 0xA3, 1 => some (.tins x)
  | 0xA3, 2 => some (.tdel x)
  | 0xC1, 0 => some (.cseal x)
  | 0xC2, 0 => some (.binit x)
  | 0xC2, 1 => some (.barv x)
  | 0xC2, 2 => some (.bexp x)
  | 0xC2, 3 => some (.btest x)
  | 0xC2, 4 => some (.bdrop x)
  | 0xD1, 0 => if x.hd.md.getLsbD 1 then some (.qbindOff x) else if x.hd.md.getLsbD 0 then some (.qbindInit x) else some (.qbind x)
  | 0xD1, 1 => some (.qstat x)
  | 0xE9, 0 => some (.pqst x)
  | 0xF0, 0 => some (.launch x)
  | 0xF0, 1 => some (.yieldGrid x)
  | _, _ => none

/-- The instruction of format C96 at (`MAJ`, `FN`) with the given fields (R67). -/
def instrC (maj fn : Nat) (x : FC) : Option Instr :=
  match maj, fn with
  | 0x23, 0 => some (.ssel x)
  | 0x23, 1 => some (.sbfx x)
  | 0x42, 0 => some (.vmad x)
  | 0x42, 1 => some (.vsel x)
  | 0x42, 2 => some (.vbfx x)
  | 0x42, 3 => some (.vbfi x)
  | 0x45, 0 => some (.vffma x)
  | 0x45, 1 => some (.vffms x)
  | 0x45, 2 => some (.vffnma x)
  | 0x45, 3 => some (.vffnms x)
  | 0x46, 0 => some (.vcvt x)
  | 0x46, 1 => if x.hd.ty = .q4 then some (.vpackQ4 x) else some (.vpack x)
  | 0x46, 2 => some (.vunpack x)
  | 0x46, 3 => some (.vscl x)
  | 0x53, 0 => some (.vtopk x)
  | 0x53, 1 => some (.vrng x)
  | 0xC3, 0 => some (.bwait x)
  | _, _ => none

/-- The instruction of format K96 at (`MAJ`, `FN`) with the given fields (R67). -/
def instrK (maj fn : Nat) (x : FK) : Option Instr :=
  match maj, fn with
  | 0x00, 0 => some (.bra x)
  | 0x00, 1 => some (.call x)
  | 0x00, 2 => some (.trap x)
  | 0x02, 0 => some (.stage x)
  | 0x22, 0 => some (.sli x)
  | _, _ => none

/-- The instruction of format M128 at (`MAJ`, `FN`) with the given fields (R67). -/
def instrM (maj fn : Nat) (x : FM) : Option Instr :=
  match maj, fn with
  | 0x52, 0 => some (.atld x)
  | 0x81, 0 => some (.mma x)
  | 0x81, 1 => if x.hd.md.getLsbD 2 then some (.mldV x) else some (.mld x)
  | 0x81, 2 => some (.mst x)
  | 0xA0, 0 => some (.ld x)
  | 0xA0, 1 => some (.st x)
  | 0xA0, 2 => some (.ldg x)
  | 0xA0, 3 => some (.sts x)
  | 0xA0, 4 => some (.atom x)
  | 0xA0, 5 => some (.red x)
  | 0xA0, 6 => some (.pref x)
  | 0xA2, 0 => some (.trec x)
  | 0xA2, 1 => some (.tset x)
  | 0xA2, 2 => some (.tget x)
  | 0xC0, 0 => some (.cpy x)
  | 0xC0, 1 => some (.cpyt x)
  | 0xD0, 0 => some (.matom x)
  | 0xD0, 1 => some (.mred x)
  | 0xE0, 0 => some (.fmld x)
  | 0xE0, 1 => some (.fperm x)
  | 0xE8, 0 => some (.pwr x)
  | 0xE8, 1 => some (.prd x)
  | 0xE8, 2 => some (.patom x)
  | 0xE8, 3 => if x.hd.md.getLsbD 5 then some (.psigAdd x) else some (.psigArv x)
  | 0xE8, 4 => some (.pperm x)
  | _, _ => none

/-- `LEN` of word 0 (R46). -/
def lenCode (w0 : Word) : Nat := (w0.extractLsb' 0 2).toNat

/-- `MAJ` of word 0 (R46). -/
def majOf (w0 : Word) : Nat := (w0.extractLsb' 3 8).toNat

/-- `FN` of word 0 (R46). -/
def fnOf (w0 : Word) : Nat := (w0.extractLsb' 11 4).toNat

/-- The length in bytes that `LEN` gives; none for 0b11 (R46). -/
def lenBytes (w0 : Word) : Option Nat :=
  match lenCode w0 with
  | 0 => some 8
  | 1 => some 12
  | 2 => some 16
  | _ => none

/-- The fields of word 0 that every instruction has (R46). -/
def headOf (w0 : Word) : Head :=
  { eor := w0.getLsbD 2, pg := w0.extractLsb' 15 4, pn := w0.getLsbD 19,
    ty := Ty.ofCode (w0.extractLsb' 20 4), md := w0.extractLsb' 24 6 }

/-- Destination, source A and source B (R46, R47). -/
def dOf (w1 : Word) : BitVec 10 := w1.extractLsb' 0 10
def aOf (w1 : Word) : Src := { code := w1.extractLsb' 10 10, last := w1.getLsbD 20, tie := w1.getLsbD 21 }
def bOf (w0 w1 : Word) : Src := { code := w1.extractLsb' 22 10, last := w0.getLsbD 30, tie := w0.getLsbD 31 }

/-- Source C of word 2 (R48). -/
def cOf (w2 : Word) : Src := { code := w2.extractLsb' 0 10, last := w2.getLsbD 10, tie := w2.getLsbD 11 }

/-- The instruction that words 0 to 3 hold; words beyond its length are not looked at (R44 to R50, R67). -/
def decodeWords (w0 w1 w2 w3 : Word) : Except DecodeError Instr :=
  let ofOpt (o : Option Instr) : Except DecodeError Instr :=
    match o with
    | some i => .ok i
    | none => .error .illop
  if lenCode w0 = 3 then .error .illen
  else
    match fmtOf (majOf w0), lenCode w0 with
    | some .a64, 0 => ofOpt (instrA (majOf w0) (fnOf w0)
        { hd := headOf w0, d := dOf w1, a := aOf w1, b := bOf w0 w1, ext := none })
    | some .a64, 1 => ofOpt (instrA (majOf w0) (fnOf w0)
        { hd := headOf w0, d := dOf w1, a := aOf w1, b := bOf w0 w1, ext := some w2 })
    | some .c96, 1 => ofOpt (instrC (majOf w0) (fnOf w0)
        { hd := headOf w0, d := dOf w1, a := aOf w1, b := bOf w0 w1, c := cOf w2,
          xmod := w2.extractLsb' 12 20, ext := none })
    | some .c96, 2 => ofOpt (instrC (majOf w0) (fnOf w0)
        { hd := headOf w0, d := dOf w1, a := aOf w1, b := bOf w0 w1, c := cOf w2,
          xmod := w2.extractLsb' 12 20, ext := some w3 })
    | some .k96, 1 => ofOpt (instrK (majOf w0) (fnOf w0)
        { hd := headOf w0, d := dOf w1, a := aOf w1, b := bOf w0 w1, k := w2 })
    | some .m128, 2 => ofOpt (instrM (majOf w0) (fnOf w0)
        { hd := headOf w0, d := dOf w1, a := aOf w1, b := bOf w0 w1, c := cOf w2,
          xmod := w2.extractLsb' 25 7, hint := w2.extractLsb' 23 2, ord := w2.extractLsb' 21 2,
          scope := w2.extractLsb' 18 3, tr := w2.extractLsb' 12 6, ofs := w3 })
    | _, _ => .error .illop

/-- The 32-bit word of four bytes, the first least significant (R7, R44). -/
def wordOf (b0 b1 b2 b3 : Byte) : Word := b3 ++ b2 ++ b1 ++ b0

/-- Word `i` of a list of bytes; zero bytes stand for those beyond its end. -/
def wordAt (bs : List Byte) (i : Nat) : Word :=
  wordOf (bs.getD (4 * i) 0) (bs.getD (4 * i + 1) 0) (bs.getD (4 * i + 2) 0) (bs.getD (4 * i + 3) 0)

/-- The instruction at the head of the bytes and the bytes that follow it. -/
def decode (bs : List Byte) : Except DecodeError (Instr × List Byte) :=
  if bs.length < 4 then .error .short
  else
    match lenBytes (wordAt bs 0) with
    | none => .error .illen
    | some n =>
      if bs.length < n then .error .short
      else
        match decodeWords (wordAt bs 0) (wordAt bs 1) (wordAt bs 2) (wordAt bs 3) with
        | .ok i => .ok (i, bs.drop n)
        | .error e => .error e

/-- (`MAJ`, `FN`) of an encoded row; none for a step that no word encodes (R67). -/
def Instr.opcode : Instr → Option (BitVec 8 × BitVec 4)
  | .bra _ => some (0x00, 0)
  | .call _ => some (0x00, 1)
  | .trap _ => some (0x00, 2)
  | .brx _ => some (0x01, 0)
  | .ret _ => some (0x01, 1)
  | .exit _ => some (0x01, 2)
  | .exitChain _ => some (0x01, 3)
  | .eret _ => some (0x01, 4)
  | .brkpt _ => some (0x01, 5)
  | .nop _ => some (0x01, 6)
  | .yield _ => some (0x01, 7)
  | .sleep _ => some (0x01, 8)
  | .cvg _ => some (0x01, 9)
  | .stage _ => some (0x02, 0)
  | .rls _ => some (0x03, 0)
  | .rdsr _ => some (0x04, 0)
  | .wrsr _ => some (0x04, 1)
  | .pand _ => some (0x05, 0)
  | .por _ => some (0x05, 1)
  | .pxor _ => some (0x05, 2)
  | .pnot _ => some (0x05, 3)
  | .pmov _ => some (0x05, 4)
  | .pmovToScalar _ => some (0x05, 5)
  | .pmovFromScalar _ => some (0x05, 6)
  | .sadd _ => some (0x20, 0)
  | .ssub _ => some (0x20, 1)
  | .smul _ => some (0x20, 2)
  | .smulh _ => some (0x20, 3)
  | .sand _ => some (0x20, 4)
  | .sor _ => some (0x20, 5)
  | .sxor _ => some (0x20, 6)
  | .sshl _ => some (0x20, 7)
  | .sshr _ => some (0x20, 8)
  | .smin _ => some (0x20, 9)
  | .smax _ => some (0x20, 10)
  | .smov _ => some (0x20, 11)
  | .sffs _ => some (0x20, 12)
  | .spopc _ => some (0x20, 13)
  | .scmp _ => some (0x21, 0)
  | .smovx _ => some (0x21, 1)
  | .smovxSt _ => some (0x21, 1)
  | .sli _ => some (0x22, 0)
  | .ssel _ => some (0x23, 0)
  | .sbfx _ => some (0x23, 1)
  | .vadd _ => some (0x40, 0)
  | .vsub _ => some (0x40, 1)
  | .vmul _ => some (0x40, 2)
  | .vmulh _ => some (0x40, 3)
  | .vmin _ => some (0x40, 4)
  | .vmax _ => some (0x40, 5)
  | .vabs _ => some (0x40, 6)
  | .vneg _ => some (0x40, 7)
  | .vand _ => some (0x40, 8)
  | .vor _ => some (0x40, 9)
  | .vxor _ => some (0x40, 10)
  | .vnot _ => some (0x40, 11)
  | .vshl _ => some (0x40, 12)
  | .vshr _ => some (0x40, 13)
  | .vpopc _ => some (0x40, 14)
  | .vclz _ => some (0x40, 15)
  | .vcmp _ => some (0x41, 0)
  | .vmov _ => some (0x41, 1)
  | .vmovx _ => some (0x41, 2)
  | .vmovxSt _ => some (0x41, 2)
  | .vmad _ => some (0x42, 0)
  | .vsel _ => some (0x42, 1)
  | .vbfx _ => some (0x42, 2)
  | .vbfi _ => some (0x42, 3)
  | .vfadd _ => some (0x44, 0)
  | .vfsub _ => some (0x44, 1)
  | .vfmul _ => some (0x44, 2)
  | .vfmin _ => some (0x44, 3)
  | .vfmax _ => some (0x44, 4)
  | .vfabs _ => some (0x44, 5)
  | .vfneg _ => some (0x44, 6)
  | .vfcmp _ => some (0x44, 7)
  | .vfclass _ => some (0x44, 8)
  | .vfrnd _ => some (0x44, 9)
  | .vffma _ => some (0x45, 0)
  | .vffms _ => some (0x45, 1)
  | .vffnma _ => some (0x45, 2)
  | .vffnms _ => some (0x45, 3)
  | .vcvt _ => some (0x46, 0)
  | .vpack _ => some (0x46, 1)
  | .vpackQ4 _ => some (0x46, 1)
  | .vunpack _ => some (0x46, 2)
  | .vscl _ => some (0x46, 3)
  | .lxor _ => some (0x50, 0)
  | .lshf _ => some (0x50, 1)
  | .lperm _ => some (0x50, 2)
  | .lbc _ => some (0x50, 3)
  | .lred _ => some (0x50, 4)
  | .lscan _ => some (0x50, 5)
  | .lvote _ => some (0x50, 6)
  | .vrcp _ => some (0x51, 0)
  | .vrsq _ => some (0x51, 1)
  | .vsqrt _ => some (0x51, 2)
  | .vexp2 _ => some (0x51, 3)
  | .vlog2 _ => some (0x51, 4)
  | .vsin _ => some (0x51, 5)
  | .vcos _ => some (0x51, 6)
  | .vtanh _ => some (0x51, 7)
  | .vact _ => some (0x51, 8)
  | .atld _ => some (0x52, 0)
  | .vtopk _ => some (0x53, 0)
  | .vrng _ => some (0x53, 1)
  | .mrsv _ => some (0x80, 0)
  | .mrel _ => some (0x80, 1)
  | .cvset _ => some (0x80, 2)
  | .mzero _ => some (0x80, 3)
  | .mma _ => some (0x81, 0)
  | .mld _ => some (0x81, 1)
  | .mldV _ => some (0x81, 1)
  | .mst _ => some (0x81, 2)
  | .ld _ => some (0xA0, 0)
  | .st _ => some (0xA0, 1)
  | .ldg _ => some (0xA0, 2)
  | .sts _ => some (0xA0, 3)
  | .atom _ => some (0xA0, 4)
  | .red _ => some (0xA0, 5)
  | .pref _ => some (0xA0, 6)
  | .commit _ => some (0xA1, 0)
  | .commitChk _ => some (0xA1, 0)
  | .abort _ => some (0xA1, 1)
  | .fence _ => some (0xA1, 2)
  | .trec _ => some (0xA2, 0)
  | .tset _ => some (0xA2, 1)
  | .tget _ => some (0xA2, 2)
  | .tlook _ => some (0xA3, 0)
  | .tins _ => some (0xA3, 1)
  | .tdel _ => some (0xA3, 2)
  | .cpy _ => some (0xC0, 0)
  | .cpyt _ => some (0xC0, 1)
  | .cseal _ => some (0xC1, 0)
  | .binit _ => some (0xC2, 0)
  | .barv _ => some (0xC2, 1)
  | .bexp _ => some (0xC2, 2)
  | .btest _ => some (0xC2, 3)
  | .bdrop _ => some (0xC2, 4)
  | .bwait _ => some (0xC3, 0)
  | .matom _ => some (0xD0, 0)
  | .mred _ => some (0xD0, 1)
  | .qbind _ => some (0xD1, 0)
  | .qbindInit _ => some (0xD1, 0)
  | .qbindOff _ => some (0xD1, 0)
  | .qstat _ => some (0xD1, 1)
  | .fmld _ => some (0xE0, 0)
  | .fperm _ => some (0xE0, 1)
  | .pwr _ => some (0xE8, 0)
  | .prd _ => some (0xE8, 1)
  | .patom _ => some (0xE8, 2)
  | .psigArv _ => some (0xE8, 3)
  | .psigAdd _ => some (0xE8, 3)
  | .pperm _ => some (0xE8, 4)
  | .pqst _ => some (0xE9, 0)
  | .launch _ => some (0xF0, 0)
  | .yieldGrid _ => some (0xF0, 1)
  | .slotSelect _ _ => none
  | .groupAged _ _ => none
  | .fetchFill _ _ => none
  | .sleepWake _ _ _ => none
  | .requestAccept _ _ => none
  | .producerResult _ _ => none
  | .reloadDone _ _ _ => none
  | .commitComplete _ => none
  | .abortComplete _ => none
  | .filterWindowClose _ _ => none
  | .faultRecordRelease _ _ => none
  | .pfreplyRetry _ _ => none
  | .pfreplyUnserviceable _ _ => none
  | .ptcmdMap _ => none
  | .ptcmdUnmap _ => none
  | .unmapDone _ => none
  | .copyLand _ _ _ => none
  | .copyComplete _ => none
  | .batchComplete _ => none
  | .barrierCredit _ => none
  | .barrierArrival _ => none
  | .wakeNotice _ => none
  | .bwaitTimeout _ _ _ => none
  | .clusterStuck _ => none
  | .atldInstall _ _ _ => none
  | .matrixRequest _ _ => none
  | .mstComplete _ => none
  | .matrixRelease _ => none
  | .msAtomicPerform _ => none
  | .ringElementLand _ => none
  | .ringWake _ => none
  | .fpermPieceArrive _ _ _ => none
  | .fpermComplete _ => none
  | .keepWaitingSend _ => none
  | .keepWaitingReceive _ => none
  | .responseTimeout _ => none
  | .calendsLock _ _ _ => none
  | .lockLoss => none
  | .almnextGo _ => none
  | .almanacSwitch => none
  | .slotStart => none
  | .windowOpen _ => none
  | .flitSend _ _ => none
  | .windowClose _ => none
  | .flitReceive _ _ _ => none
  | .transitArrive _ => none
  | .remoteEntryPerform _ _ => none
  | .remoteAck _ _ => none
  | .transitCredit _ _ _ => none
  | .remoteFailure _ _ _ => none
  | .remoteTimeout _ => none
  | .ppermComplete _ => none
  | .pevqWrite _ => none
  | .lossOfLight _ _ _ => none
  | .lmapProposal _ _ _ => none
  | .lmapAnswer _ _ _ _ => none
  | .marginLow _ _ _ _ => none
  | .retrainDone _ _ _ _ => none
  | .laneLockFail _ _ _ => none
  | .wqwrWrite _ _ _ => none
  | .wqctlWrite _ _ _ => none
  | .wqstatErrClear _ _ => none
  | .qfuncWrite _ _ => none
  | .cfuncWrite _ _ => none
  | .packetTake _ => none
  | .dependencyPoll _ => none
  | .clusterPlace _ => none
  | .priorityPreempt _ => none
  | .blockRelease _ => none
  | .launchComplete _ => none
  | .ctxctlPreempt _ => none
  | .ctxctlRestore _ => none
  | .ctxctlReset _ => none
  | .imageSeal _ => none
  | .restoreDone _ => none
  | .resetDone _ => none
  | .ctxpoolWrite _ _ _ => none
  | .ctxlogWrite _ _ => none
  | .ctxlognWrite _ _ => none
  | .tempSample _ _ => none
  | .throttleStep _ _ => none
  | .droopEvent _ => none
  | .coreFault _ => none
  | .packageReset _ _ _ _ _ _ => none
  | .startclrWrite _ => none
  | .mbErase _ => none
  | .mbWrite _ => none
  | .mbKeys => none
  | .mbMeasure => none
  | .mbOpDone => none
  | .undervoltage _ => none
  | .powerRestore _ => none
  | .vfFlr _ => none
  | .registerWrite _ _ _ _ => none
  | .laserFailure _ _ => none
  | .laneLockLate _ _ _ => none
  | .eyeSample _ _ => none

/-- The fields of an instruction. -/
def Instr.form : Instr → Form
  | .bra x => .fk x
  | .call x => .fk x
  | .trap x => .fk x
  | .brx x => .fa x
  | .ret x => .fa x
  | .exit x => .fa x
  | .exitChain x => .fa x
  | .eret x => .fa x
  | .brkpt x => .fa x
  | .nop x => .fa x
  | .yield x => .fa x
  | .sleep x => .fa x
  | .cvg x => .fa x
  | .stage x => .fk x
  | .rls x => .fa x
  | .rdsr x => .fa x
  | .wrsr x => .fa x
  | .pand x => .fa x
  | .por x => .fa x
  | .pxor x => .fa x
  | .pnot x => .fa x
  | .pmov x => .fa x
  | .pmovToScalar x => .fa x
  | .pmovFromScalar x => .fa x
  | .sadd x => .fa x
  | .ssub x => .fa x
  | .smul x => .fa x
  | .smulh x => .fa x
  | .sand x => .fa x
  | .sor x => .fa x
  | .sxor x => .fa x
  | .sshl x => .fa x
  | .sshr x => .fa x
  | .smin x => .fa x
  | .smax x => .fa x
  | .smov x => .fa x
  | .sffs x => .fa x
  | .spopc x => .fa x
  | .scmp x => .fa x
  | .smovx x => .fa x
  | .smovxSt x => .fa x
  | .sli x => .fk x
  | .ssel x => .fc x
  | .sbfx x => .fc x
  | .vadd x => .fa x
  | .vsub x => .fa x
  | .vmul x => .fa x
  | .vmulh x => .fa x
  | .vmin x => .fa x
  | .vmax x => .fa x
  | .vabs x => .fa x
  | .vneg x => .fa x
  | .vand x => .fa x
  | .vor x => .fa x
  | .vxor x => .fa x
  | .vnot x => .fa x
  | .vshl x => .fa x
  | .vshr x => .fa x
  | .vpopc x => .fa x
  | .vclz x => .fa x
  | .vcmp x => .fa x
  | .vmov x => .fa x
  | .vmovx x => .fa x
  | .vmovxSt x => .fa x
  | .vmad x => .fc x
  | .vsel x => .fc x
  | .vbfx x => .fc x
  | .vbfi x => .fc x
  | .vfadd x => .fa x
  | .vfsub x => .fa x
  | .vfmul x => .fa x
  | .vfmin x => .fa x
  | .vfmax x => .fa x
  | .vfabs x => .fa x
  | .vfneg x => .fa x
  | .vfcmp x => .fa x
  | .vfclass x => .fa x
  | .vfrnd x => .fa x
  | .vffma x => .fc x
  | .vffms x => .fc x
  | .vffnma x => .fc x
  | .vffnms x => .fc x
  | .vcvt x => .fc x
  | .vpack x => .fc x
  | .vpackQ4 x => .fc x
  | .vunpack x => .fc x
  | .vscl x => .fc x
  | .lxor x => .fa x
  | .lshf x => .fa x
  | .lperm x => .fa x
  | .lbc x => .fa x
  | .lred x => .fa x
  | .lscan x => .fa x
  | .lvote x => .fa x
  | .vrcp x => .fa x
  | .vrsq x => .fa x
  | .vsqrt x => .fa x
  | .vexp2 x => .fa x
  | .vlog2 x => .fa x
  | .vsin x => .fa x
  | .vcos x => .fa x
  | .vtanh x => .fa x
  | .vact x => .fa x
  | .atld x => .fm x
  | .vtopk x => .fc x
  | .vrng x => .fc x
  | .mrsv x => .fa x
  | .mrel x => .fa x
  | .cvset x => .fa x
  | .mzero x => .fa x
  | .mma x => .fm x
  | .mld x => .fm x
  | .mldV x => .fm x
  | .mst x => .fm x
  | .ld x => .fm x
  | .st x => .fm x
  | .ldg x => .fm x
  | .sts x => .fm x
  | .atom x => .fm x
  | .red x => .fm x
  | .pref x => .fm x
  | .commit x => .fa x
  | .commitChk x => .fa x
  | .abort x => .fa x
  | .fence x => .fa x
  | .trec x => .fm x
  | .tset x => .fm x
  | .tget x => .fm x
  | .tlook x => .fa x
  | .tins x => .fa x
  | .tdel x => .fa x
  | .cpy x => .fm x
  | .cpyt x => .fm x
  | .cseal x => .fa x
  | .binit x => .fa x
  | .barv x => .fa x
  | .bexp x => .fa x
  | .btest x => .fa x
  | .bdrop x => .fa x
  | .bwait x => .fc x
  | .matom x => .fm x
  | .mred x => .fm x
  | .qbind x => .fa x
  | .qbindInit x => .fa x
  | .qbindOff x => .fa x
  | .qstat x => .fa x
  | .fmld x => .fm x
  | .fperm x => .fm x
  | .pwr x => .fm x
  | .prd x => .fm x
  | .patom x => .fm x
  | .psigArv x => .fm x
  | .psigAdd x => .fm x
  | .pperm x => .fm x
  | .pqst x => .fa x
  | .launch x => .fa x
  | .yieldGrid x => .fa x
  | .slotSelect _ _ => .none
  | .groupAged _ _ => .none
  | .fetchFill _ _ => .none
  | .sleepWake _ _ _ => .none
  | .requestAccept _ _ => .none
  | .producerResult _ _ => .none
  | .reloadDone _ _ _ => .none
  | .commitComplete _ => .none
  | .abortComplete _ => .none
  | .filterWindowClose _ _ => .none
  | .faultRecordRelease _ _ => .none
  | .pfreplyRetry _ _ => .none
  | .pfreplyUnserviceable _ _ => .none
  | .ptcmdMap _ => .none
  | .ptcmdUnmap _ => .none
  | .unmapDone _ => .none
  | .copyLand _ _ _ => .none
  | .copyComplete _ => .none
  | .batchComplete _ => .none
  | .barrierCredit _ => .none
  | .barrierArrival _ => .none
  | .wakeNotice _ => .none
  | .bwaitTimeout _ _ _ => .none
  | .clusterStuck _ => .none
  | .atldInstall _ _ _ => .none
  | .matrixRequest _ _ => .none
  | .mstComplete _ => .none
  | .matrixRelease _ => .none
  | .msAtomicPerform _ => .none
  | .ringElementLand _ => .none
  | .ringWake _ => .none
  | .fpermPieceArrive _ _ _ => .none
  | .fpermComplete _ => .none
  | .keepWaitingSend _ => .none
  | .keepWaitingReceive _ => .none
  | .responseTimeout _ => .none
  | .calendsLock _ _ _ => .none
  | .lockLoss => .none
  | .almnextGo _ => .none
  | .almanacSwitch => .none
  | .slotStart => .none
  | .windowOpen _ => .none
  | .flitSend _ _ => .none
  | .windowClose _ => .none
  | .flitReceive _ _ _ => .none
  | .transitArrive _ => .none
  | .remoteEntryPerform _ _ => .none
  | .remoteAck _ _ => .none
  | .transitCredit _ _ _ => .none
  | .remoteFailure _ _ _ => .none
  | .remoteTimeout _ => .none
  | .ppermComplete _ => .none
  | .pevqWrite _ => .none
  | .lossOfLight _ _ _ => .none
  | .lmapProposal _ _ _ => .none
  | .lmapAnswer _ _ _ _ => .none
  | .marginLow _ _ _ _ => .none
  | .retrainDone _ _ _ _ => .none
  | .laneLockFail _ _ _ => .none
  | .wqwrWrite _ _ _ => .none
  | .wqctlWrite _ _ _ => .none
  | .wqstatErrClear _ _ => .none
  | .qfuncWrite _ _ => .none
  | .cfuncWrite _ _ => .none
  | .packetTake _ => .none
  | .dependencyPoll _ => .none
  | .clusterPlace _ => .none
  | .priorityPreempt _ => .none
  | .blockRelease _ => .none
  | .launchComplete _ => .none
  | .ctxctlPreempt _ => .none
  | .ctxctlRestore _ => .none
  | .ctxctlReset _ => .none
  | .imageSeal _ => .none
  | .restoreDone _ => .none
  | .resetDone _ => .none
  | .ctxpoolWrite _ _ _ => .none
  | .ctxlogWrite _ _ => .none
  | .ctxlognWrite _ _ => .none
  | .tempSample _ _ => .none
  | .throttleStep _ _ => .none
  | .droopEvent _ => .none
  | .coreFault _ => .none
  | .packageReset _ _ _ _ _ _ => .none
  | .startclrWrite _ => .none
  | .mbErase _ => .none
  | .mbWrite _ => .none
  | .mbKeys => .none
  | .mbMeasure => .none
  | .mbOpDone => .none
  | .undervoltage _ => .none
  | .powerRestore _ => .none
  | .vfFlr _ => .none
  | .registerWrite _ _ _ _ => .none
  | .laserFailure _ _ => .none
  | .laneLockLate _ _ _ => .none
  | .eyeSample _ _ => .none

/-- Word 0 (R46). -/
def encWord0 (len : BitVec 2) (maj : BitVec 8) (fn : BitVec 4) (h : Head) (b : Src) : Word :=
  BitVec.ofBool b.tie ++ BitVec.ofBool b.last ++ h.md ++ h.ty.code ++ BitVec.ofBool h.pn ++ h.pg ++ fn ++ maj
    ++ BitVec.ofBool h.eor ++ len

/-- Word 1 (R47). -/
def encWord1 (d : BitVec 10) (a b : Src) : Word :=
  b.code ++ BitVec.ofBool a.tie ++ BitVec.ofBool a.last ++ a.code ++ d

/-- Word 2 of C96 and X128 (R48). -/
def encWord2C (xmod : BitVec 20) (c : Src) : Word :=
  xmod ++ BitVec.ofBool c.tie ++ BitVec.ofBool c.last ++ c.code

/-- Word 2 of M128 (R48). -/
def encWord2M (x : FM) : Word :=
  x.xmod ++ x.hint ++ x.ord ++ x.scope ++ x.tr ++ BitVec.ofBool x.c.tie ++ BitVec.ofBool x.c.last ++ x.c.code

/-- The words of an instruction, none for a step that no word encodes (R44 to R50). -/
def encode (i : Instr) : Option (List Word) :=
  match i.opcode, i.form with
  | some (maj, fn), .fa x =>
    match x.ext with
    | none => some [encWord0 0 maj fn x.hd x.b, encWord1 x.d x.a x.b]
    | some k => some [encWord0 1 maj fn x.hd x.b, encWord1 x.d x.a x.b, k]
  | some (maj, fn), .fc x =>
    match x.ext with
    | none => some [encWord0 1 maj fn x.hd x.b, encWord1 x.d x.a x.b, encWord2C x.xmod x.c]
    | some k => some [encWord0 2 maj fn x.hd x.b, encWord1 x.d x.a x.b, encWord2C x.xmod x.c, k]
  | some (maj, fn), .fk x => some [encWord0 1 maj fn x.hd x.b, encWord1 x.d x.a x.b, x.k]
  | some (maj, fn), .fm x => some [encWord0 2 maj fn x.hd x.b, encWord1 x.d x.a x.b, encWord2M x, x.ofs]
  | _, _ => none

/-- The four bytes of a word, the least significant first (R7, R44). -/
def wordBytes (w : Word) : List Byte :=
  [w.extractLsb' 0 8, w.extractLsb' 8 8, w.extractLsb' 16 8, w.extractLsb' 24 8]

/-- The instruction that a number gives as its bits, bit 0 the least significant bit of word 0: its bytes in
little-endian order (R7, R44), with zero bits above `nbits`. -/
def tableBytes (nbits w : Nat) : List Byte := toBytes 16 (w % 2 ^ nbits)

/-- The instruction this decoder reads from the bits `w`. -/
def decodeTableWord (nbits w : Nat) : Option Instr :=
  match decode (tableBytes nbits w) with
  | .ok (i, _) => some i
  | .error _ => none

end Sys2Proof
end

