-- ==== Sys2Proof/WellFormed.lean ====
section
/-! DEFINITION. The checks of step 4 of R70: which words of an assigned opcode are legal instructions. A shape gives each operand field its class (R58) and the further conditions of the instruction's own rule. -/

namespace Sys2Proof

open Sys2Proof.Machine

/-- The class of an operand field (R58), with the type at which a source is read (R64). -/
inductive Cls where
  /-- Unused: code 0 and no bits. -/
  | unused
  /-- VS, and VS without the queue registers. -/
  | vs (t : Ty)
  | vsNoQueue (t : Ty)
  /-- VD, and VD without the queue registers. -/
  | vd (t : Ty)
  | vdNoQueue (t : Ty)
  | ss (t : Ty)
  | sd (t : Ty)
  | p | pd | cv
  /-- N, within limits. -/
  | num (lo hi : Nat)
  /-- A vector register whose number is a multiple of `m`, as a source, as a destination, or as a name. -/
  | vecSrc (m : Nat)
  | vecDst (m : Nat)
  | vecName
  /-- A vector register as the first name of STAGE, with last-use and trap bits of no effect (R192). -/
  | stageName
  /-- A scalar register whose number is a multiple of `m`, as a source or as a destination. -/
  | scaSrc (m : Nat)
  | scaDst (m : Nat)
  /-- An even vector or scalar register pair as an address (R188, R275). -/
  | pairSrc
  /-- A queue register by name. -/
  | queName
  /-- A distance of the first two rows of R313. -/
  | dist
deriving DecidableEq, Repr

/-- A field as the checks see it: its code, its two bits, and whether it is a source. -/
structure Field where
  code : BitVec 10
  last : Bool
  tie : Bool
deriving DecidableEq, Repr

def Field.plain (f : Field) : Bool := !f.last && !f.tie
def Field.op (f : Field) : Operand := Operand.ofCode f.code
def Src.field (x : Src) : Field := { code := x.code, last := x.last, tie := x.tie }
def dstField (d : BitVec 10) : Field := { code := d, last := false, tie := false }
def Field.zero : Field := { code := 0, last := false, tie := false }

/-- The literal meets the must-be-zero condition of its type (R65). -/
def litFits (t : Ty) (ext : Option Word) : Bool :=
  match ext with
  | none => false
  | some k =>
    if t = .q4 then false
    else if t.bits = 8 then decide (k.toNat < 2 ^ 8)
    else if t.bits = 16 then decide (k.toNat < 2 ^ 16)
    else true

/-- A source of a type: the rules R57 to R60, R63 to R65; `vec` admits vector registers and `LANE`, `que` queues. -/
def srcOk (t : Ty) (vec que : Bool) (ext : Option Word) (f : Field) : Bool :=
  match f.op with
  | .vec n => vec && (!t.is64 || n % 2 == 0)
  | .sca n => !t.is64 || n % 2 == 0
  | .que _ => que && !t.is64 && f.plain
  | .spec k =>
    f.plain && (vec || decide (k ≠ .lane)) &&
      !(t.is64 && (decide (k = .cyclehi) || decide (k = .clockhi) || decide (k = .datahi)))
  | .imm _ => f.plain && decide (t ≠ .q4)
  | .flt _ => f.plain && (t.isFloat || decide (t = .b32))
  | .lit => f.plain && litFits t ext
  | .rsv => false

/-- A field lies in its class (R58, R59). -/
def Cls.ok (c : Cls) (ext : Option Word) (f : Field) : Bool :=
  match c with
  | .unused => decide (f.code = 0) && f.plain
  | .vs t => srcOk t true true ext f
  | .vsNoQueue t => srcOk t true false ext f
  | .ss t => srcOk t false true ext f
  | .vd t =>
    match f.op with
    | .vec n => f.plain && (!t.is64 || n % 2 == 0)
    | .que _ => f.plain && !t.is64
    | _ => false
  | .vdNoQueue t =>
    match f.op with
    | .vec n => f.plain && (!t.is64 || n % 2 == 0)
    | _ => false
  | .sd t =>
    match f.op with
    | .sca n => f.plain && (!t.is64 || n % 2 == 0)
    | .que _ => f.plain && !t.is64
    | _ => false
  | .p => f.plain && decide (f.code.toNat < 16)
  | .pd => f.plain && decide (1 ≤ f.code.toNat ∧ f.code.toNat < 16)
  | .cv => f.plain && decide (f.code.toNat < 8)
  | .num lo hi => f.plain && decide (lo ≤ f.code.toNat ∧ f.code.toNat ≤ hi)
  | .vecSrc m => match f.op with | .vec n => n % m == 0 | _ => false
  | .vecDst m => match f.op with | .vec n => f.plain && n % m == 0 | _ => false
  | .vecName => match f.op with | .vec _ => f.plain | _ => false
  | .stageName => match f.op with | .vec _ => true | _ => false
  | .scaSrc m => match f.op with | .sca n => n % m == 0 | _ => false
  | .scaDst m => match f.op with | .sca n => f.plain && n % m == 0 | _ => false
  | .pairSrc => match f.op with | .vec n => n % 2 == 0 | .sca n => n % 2 == 0 | _ => false
  | .queName => match f.op with | .que _ => f.plain | _ => false
  | .dist =>
    let n := f.code.toNat
    f.plain && (decide (1 ≤ n ∧ n ≤ 63) || decide (257 ≤ n ∧ n ≤ 262))

/-- The class takes a value from its field when the instruction executes, so the literal selector and queue registers
mean in it what R50 and R66 say. -/
def Cls.isSource : Cls → Bool
  | .vs _ => true
  | .vsNoQueue _ => true
  | .ss _ => true
  | _ => false

/-- What an instruction's rule asks of its fields. -/
structure Shape where
  d : Cls
  a : Cls
  b : Cls
  c : Cls
  ok : Bool
deriving DecidableEq, Repr

/-- The fields of an instruction that the checks look at. -/
structure Fields where
  hd : Head
  d : Field
  a : Field
  b : Field
  c : Field
  ext : Option Word
deriving DecidableEq, Repr

def Form.fields : Form → Option Fields
  | .fa x => some { hd := x.hd, d := dstField x.d, a := x.a.field, b := x.b.field, c := .zero, ext := x.ext }
  | .fc x => some { hd := x.hd, d := dstField x.d, a := x.a.field, b := x.b.field, c := x.c.field, ext := x.ext }
  | .fk x => some { hd := x.hd, d := dstField x.d, a := x.a.field, b := x.b.field, c := .zero, ext := Option.none }
  | .fm x => some { hd := x.hd, d := dstField x.d, a := x.a.field, b := x.b.field, c := x.c.field, ext := Option.none }
  | .none => Option.none

def Head.m (h : Head) : Nat := h.md.toNat
/-- `MOD` bits `[hi:lo]`. -/
def Head.mf (h : Head) (hi lo : Nat) : Nat := field h.md.toNat hi lo

def tyIn (t : Ty) (l : List Ty) : Bool := l.contains t

def tySmall : List Ty := [.s8, .s16, .s32, .s64, .n8, .n16, .n32, .n64]
def tyScalarInt : List Ty := [.s32, .s64, .n32, .n64]
def tyRaw : List Ty := [.b32, .b64]
def tyFloat3 : List Ty := [.f32, .f16, .bf16]

/-- No type and no modifier (R54, R55). -/
def Head.bare (h : Head) : Bool := decide (h.ty = .b32) && decide (h.m = 0)

def Shape.bare (h : Head) (d a b : Cls) : Shape := { d := d, a := a, b := b, c := .unused, ok := h.bare }

/-- A scalar or vector operation with an optional `.sat` in `MOD[0]` (R195, R245). -/
def satOk (h : Head) (types : List Ty) (sat : Bool) : Bool :=
  tyIn h.ty types && (decide (h.m = 0) || (sat && decide (h.m = 1) && !h.ty.raw))

def Shape.scalar2 (h : Head) (types : List Ty) (sat : Bool) : Shape :=
  { d := .sd h.ty, a := .ss h.ty, b := .ss h.ty, c := .unused, ok := satOk h types sat }
def Shape.scalar1 (h : Head) (types : List Ty) : Shape :=
  { d := .sd h.ty, a := .ss h.ty, b := .unused, c := .unused, ok := satOk h types false }
def Shape.vector2 (h : Head) (types : List Ty) (sat : Bool) : Shape :=
  { d := .vd h.ty, a := .vs h.ty, b := .vs h.ty, c := .unused, ok := satOk h types sat }
def Shape.vector1 (h : Head) (types : List Ty) (sat : Bool) : Shape :=
  { d := .vd h.ty, a := .vs h.ty, b := .unused, c := .unused, ok := satOk h types sat }
/-- A float operation with a mode from 0 to `maxMode` (R248). -/
def Shape.float2 (h : Head) (maxMode : Nat) : Shape :=
  { d := .vd h.ty, a := .vs h.ty, b := .vs h.ty, c := .unused, ok := tyIn h.ty tyFloat3 && decide (h.m ≤ maxMode) }
def Shape.float1 (h : Head) (types : List Ty) (maxMode : Nat) : Shape :=
  { d := .vd h.ty, a := .vs h.ty, b := .unused, c := .unused, ok := tyIn h.ty types && decide (h.m ≤ maxMode) }
def Shape.fma (x : FC) : Shape :=
  { d := .vd x.hd.ty, a := .vs x.hd.ty, b := .vs x.hd.ty, c := .vs x.hd.ty
    ok := tyIn x.hd.ty tyFloat3 && decide (x.hd.m ≤ 3) && decide (x.xmod = 0) }

/-- VCVT's combinations of types, mode and `.sat` (R254). -/
def vcvtOk (dst src : Ty) (md : Nat) : Bool :=
  let mode := md % 8
  let sat := md / 8 % 2 == 1
  let okTy (t : Ty) : Bool := tyIn t tySmall || t.isFloat
  decide (md < 16) && okTy dst && okTy src &&
    (match dst.isFloat, src.isFloat with
     | false, false => decide (mode = 0)
     | true, _ => decide (mode ≤ 4) && (!sat || decide (dst ≠ .f32))
     | false, true => decide (mode ≤ 3) && !sat)

/-- Scope, order, hint and `XMOD` of the memory instructions (R275). -/
def memOk (x : FM) (ords : List Nat) (always : Bool) : Bool :=
  let sc := x.scope.toNat
  ords.contains x.ord.toNat && decide (x.xmod = 0) &&
    (if always || decide (x.ord ≠ 0) then decide (sc ≠ 6) else decide (sc = 0))

/-- The types of a core atomic (R280). -/
def atomTypes (op : Nat) : List Ty :=
  match op with
  | 0 => [.s32, .n32, .s64, .n64, .f32]
  | 1 => tyScalarInt
  | 2 => tyScalarInt
  | 3 => tyRaw | 4 => tyRaw | 5 => tyRaw | 6 => tyRaw | 7 => tyRaw
  | _ => []

/-- The types of a memory-side atomic (R357). -/
def matomTypes (op : Nat) : List Ty :=
  match op with
  | 0 => [.s32, .n32, .s64, .n64, .f32, .bf16]
  | 1 => tyScalarInt
  | 2 => tyScalarInt
  | 3 => tyRaw ++ tyScalarInt
  | 4 => tyRaw ++ tyScalarInt
  | 5 => tyRaw ++ tyScalarInt
  | 6 => tyRaw ++ tyScalarInt
  | 7 => tyRaw ++ tyScalarInt
  | 8 => [.n32, .n64]
  | _ => []

/-- `TY` 0 to 14 (R275). -/
def notQ4 (t : Ty) : Bool := decide (t ≠ .q4)

/-- Word 2 without scope, order, hint and `XMOD`. -/
def FM.word2zero (x : FM) : Bool :=
  decide (x.scope = 0) && decide (x.ord = 0) && decide (x.hint = 0) && decide (x.xmod = 0)

/-- The types of a reduction or scan (R315). -/
def redTypes (op : Nat) : List Ty :=
  match op with
  | 0 => [.s32, .n32, .s64, .n64, .f32]
  | 1 => [.s32, .n32, .s64, .n64, .f32]
  | 2 => [.s32, .n32, .s64, .n64, .f32]
  | 3 => tyRaw | 4 => tyRaw | 5 => tyRaw
  | _ => []

/-- The last slot of a matrix shape 0 to 2 (R331). -/
def lastSlot (shape : Nat) : Nat :=
  match shape with
  | 0 => 3
  | 1 => 1
  | _ => 0

/-- The shape that an MMA's type selects (R332). -/
def mmaShape (t : Ty) : Option Nat :=
  match t with
  | .f16 => some 0 | .bf16 => some 0
  | .e4m3 => some 1 | .e5m2 => some 1
  | .q4 => some 2
  | _ => none

/-- MLD and MST in their memory forms (R349). -/
def mldOk (x : FM) : Bool :=
  decide (x.hd.ty = .f32) && decide (x.hd.mf 1 0 ≤ 2) && decide (x.hd.mf 2 2 = 0) &&
    decide (x.hd.mf 5 4 ≤ lastSlot (x.hd.mf 1 0)) && decide (x.xmod = 0) && decide (x.ord = 0)

/-- LXOR and LSHF (R313, R314): `free` is the mask of the form's own modifiers. -/
def Shape.exchange (h : Head) (free : Nat) : Shape :=
  { d := .vd h.ty, a := .vs h.ty, b := if h.mf 5 5 = 1 then .ss .n32 else .dist, c := .unused
    ok := tyIn h.ty tyRaw && decide (h.m % 32 < free) }

/-- LXOR and LSHF take an inline constant or a literal only through the first two rows of R313. -/
def distReg (h : Head) (b : Src) : Bool :=
  h.mf 5 5 = 0 ||
    (match Operand.ofCode b.code with
     | .imm _ => false
     | .flt _ => false
     | .lit => false
     | _ => true)

/-- The common fields of the port instructions (R408): `md` is the mask of `MOD[5:3]` bits that the form defines. -/
def portOk (x : FM) (hints : Bool) (allowed : Nat) : Bool :=
  decide (x.scope = 0) && decide (x.ord = 0) && !x.c.last && !x.c.tie &&
    (hints || decide (x.hint = 0)) && decide (x.hd.mf 5 3 &&& allowed = x.hd.mf 5 3)

/-- The class of a barrier operand C: an even scalar pair with `.bar`, else unused. -/
def barC (bar : Bool) : Cls := if bar then .scaSrc 2 else .unused

/-- The shape of an instruction; none for a step that no word encodes. -/
def Instr.shape : Instr → Option Shape
  | .bra x => some { Shape.bare x.hd .unused .unused .unused with ok := x.hd.bare && decide (x.k.toNat % 4 = 0) }
  | .call x => some { Shape.bare x.hd (.vecDst 2) .unused .unused with ok := x.hd.bare && decide (x.k.toNat % 4 = 0) }
  | .trap x => some (Shape.bare x.hd .unused .unused .unused)
  | .brx x => some (Shape.bare x.hd .unused .pairSrc .unused)
  | .ret x => some (Shape.bare x.hd .unused .pairSrc .unused)
  | .exit x => some (Shape.bare x.hd .unused .unused .unused)
  | .exitChain x => some (Shape.bare x.hd .unused .unused .unused)
  | .eret x => some (Shape.bare x.hd .unused .unused .unused)
  | .brkpt x => some (Shape.bare x.hd .unused (.num 0 1023) .unused)
  | .nop x => some (Shape.bare x.hd .unused .unused .unused)
  | .yield x => some (Shape.bare x.hd .unused .unused .unused)
  | .sleep x => some (Shape.bare x.hd .unused (.ss .n32) .unused)
  | .cvg x => some (Shape.bare x.hd .unused .unused .unused)
  | .stage x => some { Shape.bare x.hd .unused .stageName .unused with
      ok := x.hd.bare && decide (x.k ≠ 0) && decide (popCount 32 x.k.toNat ≤ 16) &&
        decide (x.a.code.toNat + Nat.log2 x.k.toNat ≤ 767) }
  | .rls x => some { d := .unused, a := .vecName, b := .num 1 32, c := .unused
                     ok := decide (x.hd.ty = .b32) && decide (x.hd.m ≤ 1) }
  | .rdsr x => some { d := .scaDst (if x.hd.ty = .b64 then 2 else 1), a := .num 0 11, b := .unused, c := .unused
                      ok := decide (x.hd.m = 0) && tyIn x.hd.ty tyRaw &&
                        (decide (x.hd.ty = .b32) || [3, 5, 7, 9].contains x.a.code.toNat) }
  | .wrsr x => some { d := .unused, a := .num 0 11, b := .ss x.hd.ty, c := .unused
                      ok := decide (x.hd.m = 0) && tyIn x.hd.ty tyRaw &&
                        (decide (x.hd.ty = .b32) || [3, 5, 7, 9].contains x.a.code.toNat) }
  | .pand x => some (Shape.bare x.hd .pd .p .p)
  | .por x => some (Shape.bare x.hd .pd .p .p)
  | .pxor x => some (Shape.bare x.hd .pd .p .p)
  | .pnot x => some (Shape.bare x.hd .pd .p .unused)
  | .pmov x => some (Shape.bare x.hd .pd .p .unused)
  | .pmovToScalar x => some (Shape.bare x.hd (.scaDst 2) .p .unused)
  | .pmovFromScalar x => some (Shape.bare x.hd .pd (.ss .b64) .unused)
  | .sadd x => some (Shape.scalar2 x.hd (tyScalarInt ++ tyRaw) true)
  | .ssub x => some (Shape.scalar2 x.hd (tyScalarInt ++ tyRaw) true)
  | .smul x => some (Shape.scalar2 x.hd (tyScalarInt ++ tyRaw) true)
  | .smulh x => some (Shape.scalar2 x.hd tyScalarInt false)
  | .sand x => some (Shape.scalar2 x.hd tyRaw false)
  | .sor x => some (Shape.scalar2 x.hd tyRaw false)
  | .sxor x => some (Shape.scalar2 x.hd tyRaw false)
  | .sshl x => some (Shape.scalar2 x.hd (tyScalarInt ++ tyRaw) false)
  | .sshr x => some (Shape.scalar2 x.hd (tyScalarInt ++ tyRaw) false)
  | .smin x => some (Shape.scalar2 x.hd tyScalarInt false)
  | .smax x => some (Shape.scalar2 x.hd tyScalarInt false)
  | .smov x => some (Shape.scalar1 x.hd (tyScalarInt ++ tyRaw))
  | .sffs x => some (Shape.scalar1 x.hd tyRaw)
  | .spopc x => some (Shape.scalar1 x.hd tyRaw)
  | .scmp x => some { d := .pd, a := .ss x.hd.ty, b := .ss x.hd.ty, c := .unused
                      ok := tyIn x.hd.ty (tyScalarInt ++ tyRaw) && decide (x.hd.m ≤ if x.hd.ty.raw then 1 else 5) }
  | .smovx x => some { d := .sd .b32, a := .scaSrc 1, b := .ss .n32, c := .unused
                       ok := decide (x.hd.ty = .b32) && decide (x.hd.m = 0) }
  | .smovxSt x => some { d := .scaDst 1, a := .ss .b32, b := .ss .n32, c := .unused
                         ok := decide (x.hd.ty = .b32) && decide (x.hd.m = 1) }
  | .sli x => some { d := if x.hd.m = 1 then .scaDst 2 else .sd .b32, a := .unused, b := .unused, c := .unused
                     ok := decide (x.hd.ty = .b32) && decide (x.hd.m ≤ 1) }
  | .ssel x => some { d := .sd x.hd.ty, a := .ss x.hd.ty, b := .ss x.hd.ty, c := .ss x.hd.ty
                      ok := tyIn x.hd.ty tyRaw && decide (x.hd.m = 0) && decide (x.xmod = 0) }
  | .sbfx x => some { d := .sd x.hd.ty, a := .ss x.hd.ty, b := .ss x.hd.ty, c := .ss x.hd.ty
                      ok := tyIn x.hd.ty tyScalarInt && decide (x.hd.m = 0) && decide (x.xmod = 0) }
  | .vadd x => some (Shape.vector2 x.hd tySmall true)
  | .vsub x => some (Shape.vector2 x.hd tySmall true)
  | .vmul x => some (Shape.vector2 x.hd tySmall true)
  | .vmulh x => some (Shape.vector2 x.hd tySmall false)
  | .vmin x => some (Shape.vector2 x.hd tySmall false)
  | .vmax x => some (Shape.vector2 x.hd tySmall false)
  | .vabs x => some (Shape.vector1 x.hd [.s8, .s16, .s32, .s64] true)
  | .vneg x => some (Shape.vector1 x.hd [.s8, .s16, .s32, .s64] true)
  | .vand x => some (Shape.vector2 x.hd tyRaw false)
  | .vor x => some (Shape.vector2 x.hd tyRaw false)
  | .vxor x => some (Shape.vector2 x.hd tyRaw false)
  | .vnot x => some (Shape.vector1 x.hd tyRaw false)
  | .vshl x => some (Shape.vector2 x.hd (tySmall ++ tyRaw) false)
  | .vshr x => some (Shape.vector2 x.hd (tySmall ++ tyRaw) false)
  | .vpopc x => some (Shape.vector1 x.hd tyRaw false)
  | .vclz x => some (Shape.vector1 x.hd tyRaw false)
  | .vcmp x => some { d := .pd, a := .vs x.hd.ty, b := .vs x.hd.ty, c := .unused
                      ok := tyIn x.hd.ty (tySmall ++ tyRaw) && decide (x.hd.m ≤ if x.hd.ty.raw then 1 else 5) }
  | .vmov x => some (Shape.vector1 x.hd tyRaw false)
  | .vmovx x => some { d := .vd .b32, a := .vecSrc 1, b := .vs .n32, c := .unused
                       ok := decide (x.hd.ty = .b32) && decide (x.hd.m = 0) }
  | .vmovxSt x => some { d := .vecDst 1, a := .vs .b32, b := .vs .n32, c := .unused
                         ok := decide (x.hd.ty = .b32) && decide (x.hd.m = 1) }
  | .vmad x => some { d := .vd x.hd.ty, a := .vs x.hd.ty, b := .vs x.hd.ty, c := .vs x.hd.ty
                      ok := satOk x.hd tySmall true && decide (x.xmod = 0) }
  | .vsel x => some { d := .vd x.hd.ty, a := .vs x.hd.ty, b := .vs x.hd.ty, c := .p
                      ok := satOk x.hd tyRaw false && decide (x.xmod = 0) }
  | .vbfx x => some { d := .vd x.hd.ty, a := .vs x.hd.ty, b := .vs x.hd.ty, c := .vs x.hd.ty
                      ok := satOk x.hd tyScalarInt false && decide (x.xmod = 0) }
  | .vbfi x => some { d := .vd x.hd.ty, a := .vs x.hd.ty, b := .vs x.hd.ty, c := .vs .b32
                      ok := satOk x.hd tyRaw false && decide (x.xmod = 0) }
  | .vfadd x => some (Shape.float2 x.hd 3)
  | .vfsub x => some (Shape.float2 x.hd 3)
  | .vfmul x => some (Shape.float2 x.hd 3)
  | .vfmin x => some (Shape.float2 x.hd 0)
  | .vfmax x => some (Shape.float2 x.hd 0)
  | .vfabs x => some (Shape.float1 x.hd tyFloat3 0)
  | .vfneg x => some (Shape.float1 x.hd tyFloat3 0)
  | .vfcmp x => some { d := .pd, a := .vs x.hd.ty, b := .vs x.hd.ty, c := .unused
                       ok := tyIn x.hd.ty tyFloat3 && decide (x.hd.m ≤ 7) }
  | .vfclass x => some { Shape.float1 x.hd (tyFloat3 ++ [.e4m3, .e5m2]) 0 with d := .vd .n32 }
  | .vfrnd x => some (Shape.float1 x.hd tyFloat3 3)
  | .vffma x => some (Shape.fma x)
  | .vffms x => some (Shape.fma x)
  | .vffnma x => some (Shape.fma x)
  | .vffnms x => some (Shape.fma x)
  | .vcvt x =>
    let src := Ty.ofCode (x.xmod.extractLsb' 0 4)
    some { d := .vd x.hd.ty, a := .vs src, b := .unused, c := if x.hd.mf 2 0 = 4 then .vs .b32 else .unused
           ok := vcvtOk x.hd.ty src x.hd.m && decide (x.xmod.toNat < 16) }
  | .vpack x =>
    let narrow := decide (x.hd.ty = .e4m3) || decide (x.hd.ty = .e5m2)
    some { d := .vd .b32, a := .vs .f32, b := .vs .f32
           c := if narrow || decide (x.hd.mf 2 0 = 4) then .vs .b32 else .unused
           ok := (narrow || decide (x.hd.ty = .f16) || decide (x.hd.ty = .bf16)) && decide (x.hd.m < 16) &&
             decide (x.hd.mf 2 0 ≤ if narrow then 3 else 4) && decide (x.xmod = 0) }
  | .vpackQ4 x => some { d := .vecDst 2, a := .vecSrc 1, b := .unused, c := .vs .b32
                         ok := decide (x.hd.ty = .q4) && decide (x.hd.m < 4) && decide (x.xmod = 0) }
  | .vunpack x =>
    let q4 := decide (x.hd.ty = .q4)
    some { d := .vd .f32, a := if q4 then .vecSrc 2 else .vs x.hd.ty, b := .vs .n32, c := .unused
           ok := (q4 || tyIn x.hd.ty [.f16, .bf16, .e4m3, .e5m2]) && decide (x.hd.m < if q4 then 4 else 1) &&
             decide (x.xmod = 0) }
  | .vscl x => some { d := .vd x.hd.ty, a := .vs x.hd.ty, b := .vs .s32
                      c := if x.hd.m = 4 then .vs .b32 else .unused
                      ok := tyIn x.hd.ty tyFloat3 && decide (x.hd.m ≤ 4) && decide (x.xmod = 0) }
  | .lxor x => some { Shape.exchange x.hd 1 with ok := (Shape.exchange x.hd 1).ok && distReg x.hd x.b }
  | .lshf x => some { Shape.exchange x.hd 4 with ok := (Shape.exchange x.hd 4).ok && distReg x.hd x.b }
  | .lperm x => some { d := .vd x.hd.ty, a := .vs x.hd.ty, b := .vs .n32, c := .unused, ok := satOk x.hd tyRaw false }
  | .lbc x => some { d := .vd x.hd.ty, a := .vs x.hd.ty, b := .ss .n32, c := .unused, ok := satOk x.hd tyRaw false }
  | .lred x => some { d := .vd x.hd.ty, a := .vs x.hd.ty, b := .unused, c := .unused
                      ok := tyIn x.hd.ty (redTypes (x.hd.mf 3 0)) && decide (x.hd.m < 16) }
  | .lscan x => some { d := .vd x.hd.ty, a := .vs x.hd.ty, b := .unused, c := .unused
                       ok := tyIn x.hd.ty (redTypes (x.hd.mf 3 0)) && decide (x.hd.m < 32) }
  | .lvote x => some { d := if x.hd.m = 3 then .vd .n32 else .pd, a := .p, b := .unused, c := .unused
                       ok := decide (x.hd.ty = .b32) && decide (x.hd.m ≤ 3) }
  | .vrcp x => some (Shape.float1 x.hd tyFloat3 3)
  | .vrsq x => some (Shape.float1 x.hd tyFloat3 3)
  | .vsqrt x => some (Shape.float1 x.hd tyFloat3 3)
  | .vexp2 x => some (Shape.float1 x.hd tyFloat3 3)
  | .vlog2 x => some (Shape.float1 x.hd tyFloat3 3)
  | .vsin x => some (Shape.float1 x.hd tyFloat3 3)
  | .vcos x => some (Shape.float1 x.hd tyFloat3 3)
  | .vtanh x => some (Shape.float1 x.hd tyFloat3 3)
  | .vact x => some { Shape.float1 x.hd tyFloat3 15 with
      ok := tyIn x.hd.ty tyFloat3 && decide (x.hd.mf 2 0 ≤ 3) && decide (x.hd.m < 16) }
  | .atld x => some { d := .unused, a := .scaSrc 2, b := .unused, c := .unused
                      ok := decide (x.hd.ty = .b32) && decide (x.hd.m ≤ 1) && decide (x.scope = 0) &&
                        decide (x.ord = 0) && decide (x.xmod = 0) }
  | .vtopk x => some { d := .vecDst 1, a := .vs x.hd.ty, b := .vs .n32, c := .unused
                       ok := tyIn x.hd.ty [.f32, .s32, .n32] && decide (x.hd.m ≤ 7) && decide (x.xmod = 0) }
  | .vrng x => some { d := .vd .n32, a := .vs .n32, b := .vs .n32, c := .vs .n32
                      ok := x.hd.bare && decide (x.xmod = 0) }
  | .mrsv x => some (Shape.bare x.hd .pd .unused .unused)
  | .mrel x => some (Shape.bare x.hd .unused .unused .unused)
  | .cvset x => some (Shape.bare x.hd .cv (.ss .n32) .unused)
  | .mzero x => some (Shape.bare x.hd .unused (.num 1 15) .unused)
  | .mma x =>
    some { d := if x.hd.mf 3 3 = 1 then .cv else .unused, a := .ss .n32, b := .ss .n32, c := .unused
           ok := (match mmaShape x.hd.ty with
                  | some sh => decide (x.hd.mf 5 4 ≤ lastSlot sh)
                  | none => false) &&
             (decide (x.hd.ty = .q4) || decide (x.hd.mf 1 0 = 0)) &&
             decide (x.scope = 0) && decide (x.ord = 0) && decide (x.xmod.toNat < 64) &&
             decide (x.ofs.toNat % 32 = 0 ∧ 32 ≤ x.ofs.toNat ∧ x.ofs.toNat ≤ 1024) }
  | .mld x => some { d := .unused, a := .ss .n32, b := .unused, c := barC (x.hd.mf 3 3 == 1)
                     ok := mldOk x && decide (x.scope = 0) }
  | .mldV x => some { d := .unused, a := .vecSrc 1, b := .ss .n32, c := .unused
                      ok := decide (x.hd.ty = .f32) && decide (x.hd.m = 4) && x.word2zero && decide (x.tr = 0) &&
                        decide (x.ofs = 0) }
  | .mst x => some { d := .scaDst 1, a := .ss .n32, b := .unused, c := barC (x.hd.mf 3 3 == 1)
                     ok := mldOk x && decide (x.hint = 0) && decide (x.scope ≠ 0 ∧ x.scope ≠ 6) }
  | .ld x => some { d := .vd x.hd.ty, a := .vs .n32, b := .unused, c := .unused
                    ok := notQ4 x.hd.ty && decide (x.hd.m = 0) && memOk x [0, 1] false }
  | .st x => some { d := .unused, a := .vs .n32, b := .vs x.hd.ty, c := .unused
                    ok := notQ4 x.hd.ty && decide (x.hd.m = 0) && memOk x [0, 2] false }
  | .ldg x => some { d := .vd x.hd.ty, a := .pairSrc, b := .unused, c := .unused
                     ok := notQ4 x.hd.ty && decide (x.hd.m = 0) && memOk x [0, 1] false }
  | .sts x => some { d := .unused, a := .pairSrc, b := .vs x.hd.ty, c := .unused
                     ok := notQ4 x.hd.ty && decide (x.hd.m = 0) && memOk x [0, 2] false }
  | .atom x => some { d := .vd x.hd.ty, a := .vs .n32, b := .vs x.hd.ty
                      c := if x.hd.m = 7 then .vs x.hd.ty else .unused
                      ok := tyIn x.hd.ty (atomTypes x.hd.m) && memOk x [0, 1, 2, 3] true }
  | .red x => some { d := .unused, a := .vs .n32, b := .vs x.hd.ty, c := .unused
                     ok := tyIn x.hd.ty (atomTypes x.hd.m) && decide (x.hd.m ≤ 5) && memOk x [0, 2] true }
  | .pref x => some { d := .unused, a := .vsNoQueue .n32, b := .unused, c := .unused
                      ok := notQ4 x.hd.ty && decide (x.hd.m = 0) && memOk x [0] false }
  | .commit x => some { Shape.bare x.hd .unused .unused .unused with ok := decide (x.hd.ty = .b32) && decide (x.hd.m ≤ 5) }
  | .commitChk x => some { Shape.bare x.hd .pd .unused .unused with
      ok := decide (x.hd.ty = .b32) && decide (9 ≤ x.hd.m ∧ x.hd.m ≤ 12) }
  | .abort x => some { Shape.bare x.hd .unused .unused .unused with
      ok := decide (x.hd.ty = .b32) && decide (1 ≤ x.hd.m % 8 ∧ x.hd.m % 8 ≤ 4) && decide (x.hd.m < 16) }
  | .fence x => some { Shape.bare x.hd .unused .unused .unused with
      ok := decide (x.hd.ty = .b32) && decide (x.hd.m % 8 ≤ 5) && decide (8 ≤ x.hd.m ∧ x.hd.m < 32) }
  | .trec x => some { d := .unused, a := .scaSrc 2, b := .unused, c := .unused, ok := x.hd.bare && x.word2zero }
  | .tset x => some { d := .unused, a := .scaSrc 8, b := .unused, c := .unused
                      ok := x.hd.bare && x.word2zero && decide (1 ≤ x.ofs.toNat ∧ x.ofs.toNat < 256) }
  | .tget x => some { d := .scaDst 8, a := .unused, b := .unused, c := .unused
                      ok := decide (x.hd.ty = .b32) && decide (x.hd.m ≤ 1) && x.word2zero &&
                        decide (1 ≤ x.ofs.toNat ∧ x.ofs.toNat < 512) &&
                        !(x.ofs.getLsbD 8 && decide (x.d.toNat = 768 + 120)) }
  | .tlook x => some (Shape.bare x.hd (.vd .b32) (.vs .b32) .unused)
  | .tins x => some (Shape.bare x.hd (.vd .b32) (.vs .b32) (.vs .b32))
  | .tdel x => some (Shape.bare x.hd (.vd .b32) (.vs .b32) .unused)
  | .cpy x => some { d := .scaDst 1, a := .scaSrc 2, b := .scaSrc 2, c := barC (x.hd.mf 5 5 == 1)
                     ok := decide (x.hd.ty = .b32) && decide (x.hd.mf 3 0 = 0) && decide (x.tr = 0) &&
                       decide (x.xmod = 0) && decide (x.ord = 0) && decide (1 ≤ x.scope.toNat ∧ x.scope.toNat ≤ 5) &&
                       decide (x.ofs.toNat % 4 = 0 ∧ 4 ≤ x.ofs.toNat ∧ x.ofs.toNat ≤ 2 ^ 24) }
  | .cpyt x => some { d := .scaDst 1, a := .ss .n32, b := .num 0 3, c := barC (x.hd.mf 5 5 == 1)
                      ok := decide (x.hd.ty = .b32) && decide (x.hd.mf 2 0 ≤ 3) && decide (x.ord = 0) &&
                        decide (x.scope ≠ 0 ∧ x.scope ≠ 6) }
  | .cseal x => some (Shape.bare x.hd .unused .unused .unused)
  | .binit x => some { Shape.bare x.hd .unused (.scaSrc 2) (.ss .n32) with
      ok := decide (x.hd.ty = .b32) && decide (x.hd.m % 8 ≤ 5) && decide (x.hd.m < 16) }
  | .barv x => some (Shape.bare x.hd .unused (.scaSrc 2) .unused)
  | .bexp x => some (Shape.bare x.hd .unused (.scaSrc 2) (.ss .n32))
  | .btest x => some (Shape.bare x.hd .pd (.scaSrc 2) (.ss .n32))
  | .bdrop x => some (Shape.bare x.hd .unused (.scaSrc 2) .unused)
  | .bwait x => some { d := if x.hd.m = 1 then .pd else .unused, a := .scaSrc 2, b := .ss .n32
                       c := if x.hd.m = 1 then .ss .n32 else .unused
                       ok := decide (x.hd.ty = .b32) && decide (x.hd.m ≤ 1) && decide (x.xmod = 0) }
  | .matom x => some { d := .vdNoQueue x.hd.ty, a := .vs .n32, b := .vs x.hd.ty
                       c := if x.hd.m = 7 then .vs x.hd.ty else .unused
                       ok := tyIn x.hd.ty (matomTypes x.hd.m) && decide (x.scope = 4 ∨ x.scope = 5) &&
                         decide (x.hint = 0) && decide (x.xmod = 0) }
  | .mred x => some { d := .unused, a := .vs .n32, b := .vs x.hd.ty, c := .unused
                      ok := tyIn x.hd.ty (matomTypes x.hd.m) && decide (x.hd.m ≤ 5) &&
                        decide (x.scope = 4 ∨ x.scope = 5) && decide (x.ord = 0 ∨ x.ord = 2) &&
                        decide (x.hint = 0) && decide (x.xmod = 0) }
  | .qbind x => some (Shape.bare x.hd .queName (.scaSrc 2) .unused)
  | .qbindInit x => some { d := .queName, a := .scaSrc 2, b := .num 6 16, c := .unused
                           ok := decide (x.hd.ty = .b32) && decide (x.hd.m = 1) }
  | .qbindOff x => some { d := .queName, a := .unused, b := .unused, c := .unused
                          ok := decide (x.hd.ty = .b32) && decide (x.hd.m = 2) }
  | .qstat x => some (Shape.bare x.hd (.scaDst 1) .queName (.num 0 3))
  | .fmld x => some { d := .vdNoQueue x.hd.ty, a := .vs .n32, b := .unused, c := .unused
                      ok := tyIn x.hd.ty [.s32, .n32, .f32, .f16, .bf16] && decide (x.hd.m ≤ 2) &&
                        decide (x.xmod = 0) && decide (x.hint = 0) &&
                        decide ((x.ord = 0 ∧ x.scope = 0) ∨ (x.ord = 1 ∧ x.scope = 4)) }
  | .fperm x => some { d := .scaDst 1, a := .scaSrc 2, b := .scaSrc 2, c := barC (x.hd.mf 5 5 == 1)
                       ok := decide (x.hd.ty = .b32) && decide (x.hd.mf 4 0 = 0) && decide (x.xmod = 0) &&
                         decide (x.scope ≠ 0 ∧ x.scope ≠ 6) && decide (x.ord = 0) && decide (x.hint = 0) &&
                         decide (x.ofs = 0) }
  | .pwr x => some { d := .unused, a := .scaSrc 2, b := .scaSrc 2, c := barC (x.hd.mf 3 3 == 1)
                     ok := portOk x true 1 && decide (x.hd.ty = .b32) && decide (x.tr = 0) && decide (x.xmod = 0) &&
                       decide (x.ofs.toNat % 4 = 0 ∧ 4 ≤ x.ofs.toNat ∧ x.ofs.toNat ≤ 65536) }
  | .prd x => some { d := .vdNoQueue x.hd.ty, a := .vs .n32, b := .unused, c := .unused
                     ok := portOk x false 0 && notQ4 x.hd.ty && decide (x.xmod = 0) }
  | .patom x => some { d := .vdNoQueue x.hd.ty, a := .vs .n32, b := .vs x.hd.ty
                       c := if x.xmod = 7 then .vs x.hd.ty else .unused
                       ok := portOk x false 0 && tyIn x.hd.ty (matomTypes x.xmod.toNat) }
  | .psigArv x => some { d := .unused, a := .scaSrc 2, b := .unused, c := .unused
                         ok := portOk x false 2 && decide (x.hd.ty = .b32) && decide (x.tr = 0) &&
                           decide (x.xmod = 0) && decide (x.ofs = 0) }
  | .psigAdd x => some { d := .unused, a := .scaSrc 2, b := .scaSrc 2, c := .unused
                         ok := portOk x false 6 && x.hd.md.getLsbD 5 && decide (x.hd.ty = .n64) && decide (x.tr = 0) &&
                           decide (x.xmod = 0) && decide (x.ofs = 0) }
  | .pperm x => some { d := .scaDst 1, a := .scaSrc 2, b := .scaSrc 2, c := barC (x.hd.mf 3 3 == 1)
                       ok := portOk x true 1 && decide (x.hd.ty = .b32) && decide (x.xmod = 0) && decide (x.ofs = 0) }
  | .pqst x => some (Shape.bare x.hd (.scaDst 1) (.ss .n32) (.num 0 3))
  | .launch x => some (Shape.bare x.hd (.sd .b32) (.ss .n32) (.scaSrc 2))
  | .yieldGrid x => some (Shape.bare x.hd .pd .unused .unused)
  | _ => none

/-- A source field holds the literal selector (R50). -/
def usesLit (c : Cls) (f : Field) : Bool := c.isSource && decide (f.op = .lit)

/-- The queue register that a source field pops. -/
def sourceQueue (c : Cls) (f : Field) : Option Nat :=
  if c.isSource then
    match f.op with
    | .que n => some n
    | _ => none
  else none

/-- No queue register is named in two source fields (R66). -/
def queuesDistinct (qs : List (Option Nat)) : Bool :=
  decide ((qs.filterMap id).Nodup)

/-- Step 4 of R70 for an instruction of an assigned opcode and a permitted length. (DEDUCED, log 23.) -/
def Instr.wf (i : Instr) : Bool :=
  match i.shape, i.form.fields with
  | some sh, some f =>
    sh.ok && sh.d.ok f.ext f.d && sh.a.ok f.ext f.a && sh.b.ok f.ext f.b && sh.c.ok f.ext f.c &&
      (match f.ext with
       | none => true
       | some k => decide (k = 0) || usesLit sh.a f.a || usesLit sh.b f.b || usesLit sh.c f.c) &&
      queuesDistinct [sourceQueue sh.a f.a, sourceQueue sh.b f.b, sourceQueue sh.c f.c]
  | _, _ => false

end Sys2Proof
end

