-- ==== Sys2Proof/Machine/Operands.lean ====
section
/-! DEFINITION. Operand forms: what a source gives, the states that a read or a write waits on, and what finishing an instruction writes (spec/02_encoding.md R57 to R66, 06_registers.md R205 to R218, 12_memory_side.md R364 to R366). -/

namespace Sys2Proof

/-- The instructions whose requests wait for the acceptance of an engine (R27). -/
def Instr.requests : Instr → Bool
  | .cpy _ => true
  | .cpyt _ => true
  | .mma _ => true
  | .mzero _ => true
  | .mld _ => true
  | .mldV _ => true
  | .mst _ => true
  | .fperm _ => true
  | .pwr _ => true
  | .prd _ => true
  | .patom _ => true
  | .psigArv _ => true
  | .psigAdd _ => true
  | .pperm _ => true
  | _ => false

end Sys2Proof

namespace Sys2Proof.Machine

open Sys2Proof

/-! ### What an instruction names -/

/-- A source that an instruction reads: its field (1 A, 2 B, 3 C), what its code names, its bits (R59), the type at which
it is read (R64), the registers from its code upwards (R60), and whether it gives one value to each lane or one to the
wave (R66). -/
structure Rd where
  opnd : Nat
  op : Operand
  last : Bool
  tie : Bool
  ty : Ty
  n : Nat
  each : Bool
deriving DecidableEq, Repr

/-- A destination: what its code names, its type and registers, and the operand codes that it writes. -/
structure Dst where
  op : Operand
  ty : Ty
  n : Nat
  each : Bool
  codes : List Nat
deriving DecidableEq, Repr

/-- What an instruction reads and writes through its operand fields, and its literal. -/
structure Use where
  rds : List Rd
  dst : Option Dst
  k : Word
deriving DecidableEq, Repr

/-- Registers that a value of a type takes (R60). -/
def Ty.regs (t : Ty) : Nat := if t.is64 then 2 else 1

def rdOf (opnd : Nat) (x : Src) (t : Ty) (n : Nat) (each : Bool) : Rd :=
  { opnd := opnd, op := Operand.ofCode x.code, last := x.last, tie := x.tie, ty := t, n := n, each := each }

/-- A source of class VS, of class SS, and an even pair as an address. -/
def Rd.vs (opnd : Nat) (x : Src) (t : Ty) : Rd := rdOf opnd x t (Ty.regs t) true
def Rd.ss (opnd : Nat) (x : Src) (t : Ty) : Rd := rdOf opnd x t (Ty.regs t) false
def Rd.pair (opnd : Nat) (x : Src) (each : Bool) : Rd := rdOf opnd x .b64 2 each
/-- `n` registers from a code upwards. -/
def Rd.range (opnd : Nat) (x : Src) (n : Nat) (each : Bool) : Rd := rdOf opnd x .b32 n each

/-- The operand codes of the registers from a base upwards. -/
def regCodes (op : Operand) (n : Nat) : List Nat :=
  match op with
  | .vec b => rangeFrom b n
  | .sca b => rangeFrom (768 + b) n
  | _ => []

def Rd.codes (r : Rd) : List Nat := regCodes r.op r.n

def dstOf (op : Operand) (t : Ty) (n : Nat) (each : Bool) : Dst :=
  { op := op, ty := t, n := n, each := each, codes := regCodes op n }

/-- A destination of class VD, of class SD, and `n` registers from a code upwards. -/
def Dst.vd (d : BitVec 10) (t : Ty) : Dst := dstOf (Operand.ofCode d) t (Ty.regs t) true
def Dst.sd (d : BitVec 10) (t : Ty) : Dst := dstOf (Operand.ofCode d) t (Ty.regs t) false
def Dst.range (d : BitVec 10) (n : Nat) (each : Bool) : Dst := dstOf (Operand.ofCode d) .b32 n each

/-- The registers that the instruction writes, and all that it names, with the field that names each (R61). -/
def Use.dsts (u : Use) : List (Nat × Nat) :=
  match u.dst with
  | some d => d.codes.map fun c => (0, c)
  | none => []
def Use.names (u : Use) : List (Nat × Nat) := u.dsts ++ u.rds.flatMap fun r => r.codes.map fun c => (r.opnd, c)

/-- The operand is a vector register. -/
def Operand.isVec : Operand → Bool
  | .vec _ => true
  | _ => false

/-- The vector names of some sources. -/
def Rd.vnames (l : List Rd) : List (Nat × Nat) :=
  (l.filter fun r => Operand.isVec r.op).flatMap fun r => r.codes.map fun c => (r.opnd, c)

/-- The vector names that an instruction names, a range also beyond v767, with the field that names each; those of field `D` come
first, read or written (R61, R70 step 6). (DESIGN CHOICE, log 88.) -/
def Use.vnames (u : Use) : List (Nat × Nat) :=
  (match u.dst with
   | some d => if Operand.isVec d.op then d.codes.map fun c => (0, c) else []
   | none => []) ++
  Rd.vnames (u.rds.filter fun r => r.opnd == 0) ++ Rd.vnames (u.rds.filter fun r => r.opnd != 0)

/-! ### A wave that executes an instruction -/

/-- A wave of an issue group at an instruction: its members and those that participate (R174), the lanes that `DONEMASK`
excludes (R177), the instruction, and its address, length and engine. -/
structure Iss where
  core : Nat
  slot : Nat
  wid : WaveId
  members : List Nat
  lanes : List Nat
  prev : BitVec 64
  /-- `DONEMASK` as it stood at issue. -/
  mask : BitVec 64
  instr : Instr
  pc : DWord
  len : Nat
  eng : Nat
deriving DecidableEq, Repr

/-- What an instruction does for one wave: it completes; it takes a trap after the effects that stand; it cannot issue, so
threads wait after what `fx` does; or the group keeps its slot (R165). -/
inductive WOut where
  | done (s : State)
  | trap (tr : Trap) (s : State)
  | wait (w : Wait) (lanes : List Nat) (fx : State → State)
  | hold

/-! ### Values of sources (R57, R62 to R65) -/

/-- A float constant as significand and exponent, in the order of R57. -/
def floatConst (k : Nat) : FVal :=
  .fin (k % 2 == 1) 1 (nth 0 [-1, 0, 1, 2] (k / 2))

/-- An inline constant at a type (R64). -/
def immValue (t : Ty) (i : Int) : Nat :=
  if t.isFloat then (t.ffmt.deliver (.ofInt i) .rne false 0).1 else truncI i t.bits
def fltValue (t : Ty) (k : Nat) : Nat := (t.ffmt.deliver (floatConst k) .rne false 0).1

/-- The literal at a type (R65). -/
def litValue (t : Ty) (k : Word) : Nat :=
  match t with
  | .s64 => truncI (sextN k.toNat 32) 64
  | _ => k.toNat % 2 ^ t.bits

/-- The calendar runs (R391). -/
def Calendar.running (c : Calendar) : Bool := c.cfg.getLsbD 0
/-- Slots of a rotation, and nanoseconds of a slot and of a vigil, of a configuration (R391). -/
def almSlots (cfg : BitVec 32) : Nat := bits cfg 14 8
def almSlotNs (cfg : BitVec 32) : Nat := bits cfg 22 16 * 1000
def almVigil (cfg : BitVec 32) : Nat := bits cfg 31 24
def almRotNs (cfg : BitVec 32) : Nat := almSlots cfg * almSlotNs cfg

/-- `SLOT` and `CYCLE` as pod time gives them while the calendar runs, 0 while it does not (R392, R393). (DESIGN CHOICE, log 2.) -/
def State.slotNow (s : State) : Nat :=
  let c := s.cal
  if c.running ∧ c.base ≤ s.podTime.toNat then (s.podTime.toNat - c.base) % almRotNs c.cfg / almSlotNs c.cfg else 0
/-- (DESIGN CHOICE, log 2.) -/
def State.cycleNow (s : State) : Nat :=
  let c := s.cal
  if c.running ∧ c.base ≤ s.podTime.toNat then c.rot + (s.podTime.toNat - c.base) / almRotNs c.cfg else 0

/-- Rotations that have begun since reset, and the time in the one in progress, whatever the configurations of the calendar (R405,
R414). (DEDUCED, log 50.) -/
def State.turns (s : State) : Nat × Nat :=
  let c := s.cal
  if c.running ∧ c.base ≤ s.podTime.toNat then
    (s.pe.rotations + (s.cycleNow - c.first), (s.podTime.toNat - c.base) % almRotNs c.cfg)
  else (s.pe.rotations, 0)

/-- The same without the rotations that began while the package was unlocked (R388). (DEDUCED, log 50.) -/
def State.lockedTurns (s : State) : Nat × Nat :=
  let t := s.turns
  (if s.cal.locked then t.1 - s.cal.skipped else s.cal.lostAt - s.cal.skipped, t.2)

/-- Whole rotations from one such time to another (R405, R414). -/
def wholeTurns (a b : Nat × Nat) : Nat := b.1 - a.1 - (if b.2 < a.2 then 1 else 0)

/-- A special source at a width (R62, R63). -/
def State.special (s : State) (w : WaveId) (lane : Nat) (wide : Bool) (k : Special) : Nat :=
  let b := s.blk w.blk
  let l := s.launchOf w.blk
  let pair (x : Nat) (hi : Bool) : Nat := if hi then x / 2 ^ 32 else if wide then x else x % 2 ^ 32
  match k with
  | .lane => lane
  | .wave => w.wv
  | .blockx => b.bx
  | .blocky => b.by_
  | .blockz => b.bz
  | .gridx => l.gx
  | .gridy => l.gy
  | .gridz => l.gz
  | .nwave => l.nwaves
  | .clurank => b.rank
  | .width => Config.waveWidth
  | .core => b.core
  | .dieid => dieOf b.core
  | .pkgid => s.pkgid.getD 0xFFFFFFFF
  | .slot => s.slotNow
  | .cyclelo => pair (s.cycleNow % 2 ^ 48) false
  | .cyclehi => pair (s.cycleNow % 2 ^ 48) true
  | .clocklo => pair s.podTime.toNat false
  | .clockhi => pair s.podTime.toNat true
  | .datalo => pair l.data false
  | .datahi => pair l.data true

/-- Registers of a wave as one number, the first least significant (R60). -/
def Wave.regValue (w : Wave) (lane : Nat) : List Nat → Nat
  | [] => 0
  | c :: t => (if c < 768 then (w.vlane c lane).toNat else (w.scalar (c - 768)).toNat) + 2 ^ 32 * Wave.regValue w lane t

/-- The value that a source gives in a lane; `popped` holds the elements of a queue source by lane. -/
def State.srcValue (s : State) (w : WaveId) (k : Word) (popped : Map Nat) (r : Rd) (lane : Nat) : Nat :=
  let low (x : Nat) : Nat := if r.n = 1 then x % 2 ^ r.ty.bits else x
  match r.op with
  | .vec _ => low ((s.wave w).regValue lane r.codes)
  | .sca _ => low ((s.wave w).regValue lane r.codes)
  | .que _ => low (mget 0 popped (if r.each then lane else 0))
  | .spec q => s.special w lane (r.ty.bits == 64) q % 2 ^ r.ty.bits
  | .imm i => immValue r.ty i
  | .flt i => fltValue r.ty i
  | .lit => litValue r.ty k
  | .rsv => 0

/-! ### States of registers (R32, R33, R211, R212) -/

/-- The register is named with its trap-if-empty bit by some source (R59). -/
def Use.tie (u : Use) (c : Nat) : Bool := u.rds.any fun r => r.tie && r.codes.contains c
/-- The register is named with its last-use bit by some source (R59). -/
def Use.last (u : Use) (c : Nat) : Bool := u.rds.any fun r => r.last && r.codes.contains c

/-- What the state of one register says of an access: nothing, a trap, a trap after the reload has started, or a wait. -/
inductive Scan where
  | fine
  | trap (cause : Cause) (sub : Nat)
  | reloadTrap
  | wait
deriving DecidableEq, Repr

/-- A read of a register (R211). (DEDUCED, log 14.) -/
def Wave.scanRead (w : Wave) (c : Nat) (tie : Bool) : Scan :=
  if c < 768 then
    match w.vreg c with
    | none => if tie then .trap .relread 0 else .fine
    | some r =>
      match r.st with
      | .full => .fine
      | .empty => if tie then .trap .empty 0 else .wait
      | .spilled => if tie then .reloadTrap else .wait
  else if w.sEmpty.contains (c - 768) then (if tie then .trap .empty 0 else .wait)
  else .fine

/-- A write of a register (R33, R212). (DEDUCED, log 14.) -/
def Wave.scanWrite (w : Wave) (c : Nat) : Scan :=
  if c < 768 then
    match w.vreg c with
    | none => .fine
    | some r => if r.st = .full then .fine else .wait
  else if w.sEmpty.contains (c - 768) then .wait
  else .fine

/-- The first access that does not go on, with its field and register. (DEDUCED, log 13, 14.) -/
def firstScan : List (Nat × Nat × Scan) → Option (Nat × Nat × Scan)
  | [] => none
  | x :: t => if x.2.2 = .fine then firstScan t else some x

/-- The accesses of an instruction: sources in the order A, B, C, then the destination. (DEDUCED, log 13, 14.) -/
def Use.scans (u : Use) (w : Wave) : List (Nat × Nat × Scan) :=
  u.rds.flatMap (fun r => r.codes.map fun c => (r.opnd, c, w.scanRead c (u.tie c))) ++
    (match u.dst with
     | some d => d.codes.map fun c => (0, c, w.scanWrite c)
     | none => [])

/-- The vector names that `p` accepts, ascending, each with a field that names it. -/
def namesWhere (names : List (Nat × Nat)) (p : Nat → Bool) : List (Nat × Nat) :=
  let cs := sortN ((names.filter fun x => Nat.blt x.2 768 && p x.2).map (·.2))
  cs.map fun c => (((names.find? fun x => x.2 == c).map (·.1)).getD 0, c)

def Wave.isSpilled (w : Wave) (c : Nat) : Bool :=
  match w.vreg c with
  | some r => Nat.blt c 768 && decide (r.st = .spilled)
  | none => false

/-- The outcome of obtaining several rows (R217). -/
inductive RowsOut where
  | ok (s : State)
  | hold
  /-- RFLOOR at a field, in the state before any of the rows but for the spills. -/
  | rfloor (opnd : Nat) (s : State)

/-- Undo an allocation or the start of a reload: the name is as it was. -/
def State.unmapRow (s : State) (w : WaveId) (n : Nat) (was : Option VReg) : State :=
  s.updWave w fun x => { x with vregs := match was with
    | some r => mput x.vregs n r
    | none => mdel x.vregs n }

/-- Obtain the row that a name needs: of its reload when it is SPILLED, a new one when it is UNMAPPED (R205, R218). -/
def State.obtainRow (s : State) (w : WaveId) (n : Nat) : RowOut :=
  if (s.wave w).isSpilled n then s.startReload w n else s.mapName w n

/-- Obtain rows for names one at a time, in their order; `got` holds the names that have theirs, and what they were. On RFLOOR
those rows are freed, and the spills made for them stand (R214, R217). (DEDUCED, log 15.) -/
def State.obtainRows (s : State) (w : WaveId) (got : List (Nat × Option VReg)) : List (Nat × Nat) → RowsOut
  | [] => .ok s
  | (o, c) :: t =>
    match s.obtainRow w c with
    | .ok s' => State.obtainRows s' w ((c, (s.wave w).vreg c) :: got) t
    | .hold => .hold
    | .rfloor => .rfloor o (got.foldl (fun s g => s.unmapRow w g.1 g.2) s)

/-- The state in which the rows have been obtained, unchanged when they cannot be. (DEDUCED, log 14.) -/
def State.obtainAll (s : State) (w : WaveId) (names : List (Nat × Nat)) : State :=
  match s.obtainRows w [] names with
  | .ok s => s
  | _ => s

/-- The names for which an instruction needs rows, ascending: its SPILLED registers, and its UNMAPPED destinations (R212, R217). -/
def Use.needs (u : Use) (w : Wave) : List (Nat × Nat) :=
  namesWhere u.names fun c => w.isSpilled c || ((w.vreg c).isNone && u.dsts.any fun p => p.2 == c)

/-- A read of a SPILLED or EMPTY register, or a write of one, waits (R211, R212). When a register is SPILLED, the rows of all reloads
and of all UNMAPPED destinations are obtained at once, in ascending order of name (R217). (DEDUCED, log 14; DESIGN CHOICE, log 89.) -/
def State.waitReg (s : State) (x : Iss) (u : Use) (c : Nat) : WOut :=
  if u.names.any fun p => (s.wave x.wid).isSpilled p.2 then
    match s.obtainRows x.wid [] (u.needs (s.wave x.wid)) with
    | .hold => .hold
    | .rfloor o s => .trap (Trap.whole .rfloor 0 o) s
    | .ok _ => .wait (.onReg c) x.members fun s => s.obtainAll x.wid (u.needs (s.wave x.wid))
  else .wait (.onReg c) x.members fun s => s

/-! ### Queue operands (R364 to R366) -/

/-- The queue register of an operand. -/
def queueOf (op : Operand) : Option Nat :=
  match op with
  | .que q => some q
  | _ => none

/-- Some source of the instruction is a queue register. (DEDUCED, log 21.) -/
def Use.pops (u : Use) : Bool := u.rds.any fun r => (queueOf r.op).isSome

/-- Elements that an operand moves for some lanes (R66). -/
def elemCount (each : Bool) (lanes : Nat) : Nat := if each then lanes else min lanes 1

/-- What the queue operands say: they can move their elements, an unbound register, or a wait on a ring. -/
inductive QScan where
  | ok (s : State) (vals : Map (Map Nat))
  | unbound
  | wait (q : Nat) (r : RingRef) (push : Bool) (k : Nat)

/-- Reserve the pops of the sources in the order A, B, C, each with the elements of its lanes (R365). -/
def State.scanPops (s : State) (x : Iss) (acc : Map (Map Nat)) : List Rd → QScan
  | [] => .ok s acc
  | r :: t =>
    match queueOf r.op with
    | none => State.scanPops s x acc t
    | some q =>
      match s.binding x.wid.blk q with
      | none => .unbound
      | some ring =>
        let k := elemCount r.each x.lanes.length
        if s.canPop ring x.wid x.lanes k then
          let vals := (List.range k).map fun i => ((if r.each then nth 0 x.lanes i else 0), s.ringPeek ring i)
          State.scanPops (s.ringPop ring x.wid x.lanes k) x (mput acc r.opnd vals) t
        else .wait q ring false k

/-- Test the pops and then the push of an instruction (R365). -/
def State.scanQueues (s : State) (x : Iss) (u : Use) : QScan :=
  match s.scanPops x [] u.rds with
  | .ok s' vals =>
    match u.dst.bind fun d => (queueOf d.op).map fun q => (d, q) with
    | none => .ok s' vals
    | some (d, q) =>
      match s.binding x.wid.blk q with
      | none => .unbound
      | some ring =>
        let k := elemCount d.each x.lanes.length
        if s'.canPush ring x.wid x.lanes k then .ok s' vals else .wait q ring true k
  | o => o

/-- What an instruction finds in a ring now: `AVAIL` for a pop, `FREE` with the room that its own pops make for a push (R365). -/
def State.ringRoom (s : State) (x : Iss) (u : Use) (ring : RingRef) (push : Bool) : Nat :=
  if push then
    s.ringWord ring rFREE + (u.rds.map fun r =>
      match (queueOf r.op).bind (s.binding x.wid.blk) with
      | some q => if q.same ring then elemCount r.each x.lanes.length else 0
      | none => 0).foldl (· + ·) 0
  else s.ringWord ring rAVAIL

/-! ### Preparing an instruction -/

/-- A vector source is UNMAPPED, so its read sets `WSTAT.URD` (R211). -/
def Use.readsUnmapped (u : Use) (w : Wave) : Bool :=
  u.rds.any fun r => r.codes.any fun c => Nat.blt c 768 && (w.vreg c).isNone

/-- Obtain rows for the names of a list that are UNMAPPED, in ascending order (R205, R217). (DEDUCED, log 15.) -/
def State.obtainNew (s : State) (w : WaveId) (names : List (Nat × Nat)) : RowsOut :=
  s.obtainRows w [] (namesWhere names fun c => ((s.wave w).vreg c).isNone)

/-- Obtain the rows of an instruction's new names, and go on; RFLOOR names the field of the name (R217). When a row was taken from a
name that the instruction itself uses, which is not pinned while it waits for an allocation, the name is reloaded and the instruction
issues again (R211, R212, R214). (DEDUCED, log 15; DESIGN CHOICE, log 89.) -/
def State.withRows (s : State) (x : Iss) (u : Use) (new : List (Nat × Nat)) (k : State → WOut) : WOut :=
  match s.obtainNew x.wid new with
  | .hold => .hold
  | .rfloor o s => .trap (Trap.whole .rfloor 0 o) s
  | .ok t =>
    match u.names.find? fun p => (t.wave x.wid).isSpilled p.2 with
    | none => k t
    | some p =>
      .wait (.onReg p.2) x.members fun s =>
        let s := s.obtainAll x.wid (namesWhere new fun c => ((s.wave x.wid).vreg c).isNone)
        s.obtainAll x.wid (namesWhere u.names (s.wave x.wid).isSpilled)

/-- The value of a source in a lane by its field; `popped` holds the elements of the queue sources. -/
def State.value (s : State) (w : WaveId) (u : Use) (popped : Map (Map Nat)) (o lane : Nat) : Nat :=
  match u.rds.find? fun r => r.opnd == o with
  | some r => s.srcValue w u.k (mget [] popped o) r lane
  | none => 0

/-- Read the operands of an instruction for a wave, and make its destinations ready; `k` takes the value of each source in
each lane and the state in which it executes. A request with queue sources keeps its place among the waiters of a ring until it is
accepted (R365). (DEDUCED, log 22, 45.) -/
def State.withOperands (s : State) (x : Iss) (u : Use) (k : (Nat → Nat → Nat) → State → WOut) : WOut :=
  let w := s.wave x.wid
  match firstScan (u.scans w) with
  | some (o, _, .trap c sub) => .trap (Trap.whole c sub o) s
  | some (o, c, .reloadTrap) =>
    match s.obtainRows x.wid [] [(o, c)] with
    | .ok s => .trap (Trap.whole .empty 1 o) s
    | .rfloor o s => .trap (Trap.whole .rfloor 0 o) s
    | .hold => .hold
  | some (_, c, .wait) => s.waitReg x u c
  | _ =>
    match s.scanQueues x u with
    | .unbound => .trap (Trap.whole .bound 10 0) (s.forgetWaits x.wid x.lanes)
    | .wait q ring push n =>
      .wait (if push then .onPush q else .onPop q) x.lanes fun s =>
        s.ringStall ring push x.wid x.lanes q (Nat.ble n (s.ringRoom x u ring push))
    | .ok _ popped =>
      s.withRows x u u.dsts fun s' =>
        let s' := if u.readsUnmapped w then s'.setUrd x.wid else s'
        k (s.value x.wid u popped) (if x.instr.requests && u.pops then s' else s'.forgetWaits x.wid x.lanes)

/-! ### Finishing an instruction -/

/-- The register contents of a result (R60, R232). -/
def resultWords (t : Ty) (n v : Nat) : List Word :=
  if n = 1 then [BitVec.ofNat 32 (t.extend v)] else (List.range n).map fun i => BitVec.ofNat 32 (v / 2 ^ (32 * i))

/-- Write a result of some lanes to registers from a code upwards (R206, R201). -/
def State.writeRegs (s : State) (w : WaveId) (t : Ty) (n c : Nat) (vals : List (Nat × Nat)) : State :=
  (List.range n).foldl (fun s i =>
    let word (v : Nat) : Word := nth 0 (resultWords t n v) i
    s.updWave w fun y =>
      if c < 768 then y.writeLanes (c + i) (vals.map fun p => (p.1, word p.2)) s.cycle
      else
        match vals with
        | [] => y
        | p :: _ => y.setScalar (c + i - 768) (word p.2)) s

/-- Set the live bits of lanes of a row without writing it (R206). -/
def Wave.setLive (w : Wave) (n : Nat) (mask : BitVec 64) : Wave :=
  { w with vregs := w.vregs.map fun p => if p.1 = n then (p.1, { p.2 with live := p.2.live ||| mask }) else p }

/-- Start a long-latency producer with register destinations: they are EMPTY until it has written every lane (R28, R205,
R206). -/
def State.startProducer (s : State) (x : Iss) (kind : ProdKind) (d : Dst) (flags hint : Nat) (lanes : Map LaneSrc) :
    State :=
  if lanes.isEmpty then s
  else
    let c := nth 0 d.codes 0
    let s := s.updWave x.wid fun y =>
      d.codes.foldl (fun y c => (y.setLive c (laneMask (lanes.map (·.1)))).markEmpty c) y
    { s with
      producers := mput s.producers s.nextId
        { kind := kind, wid := x.wid, ctx := (s.blk x.wid.blk).ctx, dest := c, n := d.n, ty := d.ty, lanes := lanes
          elems := [], hint := hint, flags := flags, issuers := x.lanes, sent := s.ns }
      nextId := s.nextId + 1 }

/-- The trap of a commit that finds no room, at the lowest lane of the wave (R97). (DEDUCED, log 34.) -/
def wbovf (x : Iss) (addr : Nat) : Trap := Trap.lane_ .wbovf 0 0 addr (nth 0 x.lanes 0)

/-- Make the pops that an instruction's completed lanes account for (R176, R364). (DEDUCED, log 21.) -/
def State.takePops (s : State) (x : Iss) (u : Use) (done : Nat) : State :=
  u.rds.foldl (fun s r =>
    match (queueOf r.op).bind (s.binding x.wid.blk) with
    | some ring => s.ringPop ring x.wid x.lanes (elemCount r.each done)
    | none => s) s

/-- Last-use reads of completed lanes clear their live bits (R207). -/
def State.clearLast (s : State) (x : Iss) (u : Use) (done : List Nat) : State :=
  s.updWave x.wid fun w =>
    (u.rds.flatMap Rd.codes).foldl (fun w c => if u.last c then w.clearLive c (laneMask done) else w) w

/-- The commit at the ring's scope that a push begins with (R364); none when it traps WBOVF. -/
def State.commitPush (s : State) (x : Iss) (u : Use) : Option State :=
  match (u.dst.bind fun d => queueOf d.op).bind (s.binding x.wid.blk) with
  | none => some s
  | some ring => (s.orderLoads x.wid).commit x.wid ring.scope

/-- A push of values by lane after its commit: the reservation and the elements in flight (R364). The first part is the number of
the first element. -/
def State.push (s : State) (x : Iss) (q : Nat) (vals : List (Option Word)) : Nat × State :=
  match s.binding x.wid.blk q with
  | none => (0, s)
  | some ring => s.ringReserve ring x.wid x.lanes vals

/-- The numbers of the elements of a push by lane, from the first. -/
def elemNums (first : Nat) (lanes : List Nat) : Map Nat := lanes.mapIdx fun j l => (l, first + j)

/-- The arrival of popped elements that no register takes; the flags become visible with it. -/
def State.popArrival (s : State) (x : Iss) (flags : Nat) : Producer :=
  { kind := .pop, wid := x.wid, ctx := (s.blk x.wid.blk).ctx, dest := 0, n := 0, ty := .b32, lanes := [], elems := [], hint := 0
    flags := flags, issuers := x.lanes, sent := s.ns }

/-- A producer starts. -/
def State.addProducer (s : State) (p : Producer) : State :=
  { s with producers := mput s.producers s.nextId p, nextId := s.nextId + 1 }

/-- An instruction that pops and writes no register keeps its slot until the popped elements arrive (R366): the slot waits for the
result of a producer. (DEDUCED, log 22.) -/
def State.holdPops (s : State) (x : Iss) (u : Use) (p : Producer) : State :=
  if u.pops then
    let q : PendWave := { PendWave.fresh x.wid x.lanes with prev := x.prev, answered := true, await := some s.nextId, passed := true }
    let join (o : Option Pend) : Pend :=
      match o with
      | some r => { r with waves := r.waves ++ [q] }
      | none => { instr := x.instr, waves := [q] }
    (s.addProducer p).updSlot x.core x.slot fun y => { y with pend := some (join y.pend) }
  else s

/-- Write the results of the completed lanes, with the effects of the sources (R207, R366); a push commits first, and when that finds
no room no lane is done (R364). With queue sources, pushed elements and flags come with the popped elements (R366). `vals` holds the
result of each completed lane, ascending. (DEDUCED, log 21, 22; DESIGN CHOICE, log 89.) -/
def State.finish (s : State) (x : Iss) (u : Use) (done : List Nat) (vals : List (Nat × Nat)) (flags : Nat) : WOut :=
  let s1 := (s.takePops x u done.length).clearLast x u done
  let fl := BitVec.ofNat 32 flags
  let free (s : State) : State := s.updWave x.wid Wave.freeRows
  let known := vals.map fun p => (p.1, LaneSrc.known p.2)
  match u.dst with
  | none => .done ((free (if u.pops then s1 else s1.orFstat x.wid fl)).holdPops x u (s1.popArrival x flags))
  | some d =>
    match d.op with
    | .que q =>
      let elems := (vals.take (elemCount d.each vals.length)).map fun p => some (BitVec.ofNat 32 (d.ty.extend p.2))
      match s1.commitPush x u with
      | none => .trap (wbovf x 0) s
      | some s =>
        if u.pops then
          let r := s.push x q (elems.map fun _ => none)
          .done ((free r.2).holdPops x u
            { s.popArrival x flags with ty := d.ty, lanes := known, elems := elemNums r.1 (done.take elems.length) })
        else .done (free ((s.push x q elems).2.orFstat x.wid fl))
    | _ =>
      if u.pops then .done (free (s1.startProducer x .pop d flags 0 known))
      else
        .done (free ((s1.writeRegs x.wid d.ty d.n (nth 0 d.codes 0) vals).orFstat x.wid fl))

/-! ### Predicates (R159, R194) -/

def Thread.pred (t : Thread) (p : Nat) : Bool := p == 0 || t.preds.getLsbD p
def Thread.setPred (t : Thread) (p : Nat) (v : Bool) : Thread :=
  if p = 0 then t
  else { t with preds := if v then t.preds ||| 1#16 <<< p else t.preds &&& ~~~(1#16 <<< p) }

/-- Set a predicate of some lanes. (DEDUCED, log 22.) -/
def State.setPreds (s : State) (w : WaveId) (p : Nat) (vals : List (Nat × Bool)) : State :=
  vals.foldl (fun s v => s.updThread (w.thread v.1) fun t => t.setPred p v.2) s

end Sys2Proof.Machine
end

