-- ==== Sys2Proof/Machine/Issue.lean ====
section
/-! DEFINITION. Issuing an instruction to the group of a slot: decode checks, participation, convergence, waits, traps and the end of the run (spec/02_encoding.md R70, R71; spec/05_sequencer.md R161 to R177). -/

namespace Sys2Proof

/-- The converging instructions (R172). -/
def Instr.converges : Instr → Bool
  | .cvg _ => true
  | .pmovToScalar _ => true
  | .yieldGrid _ => true
  | .eret _ => true
  | .lxor _ => true
  | .lshf _ => true
  | .lperm _ => true
  | .lbc _ => true
  | .lred _ => true
  | .lscan _ => true
  | .lvote _ => true
  | _ => false

/-- The instructions that end a run whatever their `E` bit holds, but for the converging ones (R164). -/
def Instr.branches : Instr → Bool
  | .bra _ => true
  | .brx _ => true
  | .call _ => true
  | .ret _ => true
  | .exit _ => true
  | .exitChain _ => true
  | .yield _ => true
  | .sleep _ => true
  | .trap _ => true
  | .brkpt _ => true
  | _ => false

/-- The instructions that end threads (R189). -/
def Instr.exits : Instr → Bool
  | .exit _ => true
  | .exitChain _ => true
  | _ => false

/-- ERET (R190). -/
def Instr.returns : Instr → Bool
  | .eret _ => true
  | _ => false

/-- Word 0's common fields. -/
def Instr.head (i : Instr) : Head :=
  match i.form with
  | .fa x => x.hd
  | .fc x => x.hd
  | .fk x => x.hd
  | .fm x => x.hd
  | .none => { eor := false, pg := 0, pn := false, ty := .b32, md := 0 }

/-- The length in bytes (R46, R49). -/
def Instr.len (i : Instr) : Nat :=
  match i.form with
  | .fa x => if x.ext.isSome then 12 else 8
  | .fc x => if x.ext.isSome then 16 else 12
  | .fk _ => 12
  | .fm _ => 16
  | .none => 0

/-- Its literal word. -/
def Instr.lit (i : Instr) : Word :=
  match i.form with
  | .fa x => x.ext.getD 0
  | .fc x => x.ext.getD 0
  | _ => 0

/-- The instruction ends its run (R164). -/
def Instr.endsRun (i : Instr) : Bool := i.head.eor || i.branches || i.converges

/-- It completes in full for a wave or takes a whole trap (R176): the instructions of the sequencer and the cross-lane ones. -/
def Instr.wholeOnly (i : Instr) : Bool :=
  i.converges || (match i.opcode with
    | some (maj, _) => Machine.engineOf maj.toNat == 1
    | none => false)

/-- The engine that serves it, in the codes of `FAULTINFO.ENGINE` (R26, R68). -/
def Instr.engine (i : Instr) : Nat :=
  match i.opcode with
  | some (maj, _) => Machine.engineOf maj.toNat
  | none => 0

end Sys2Proof

namespace Sys2Proof.Machine

open Sys2Proof

/-- The engines that a role permits (R147). -/
def Role.permits (r : Role) (eng : Nat) : Bool :=
  match r with
  | .general => true
  | .copy => [1, 4, 5, 6, 7, 8].contains eng
  | .matrix => [1, 4, 5, 3].contains eng
  | .vector => [1, 4, 5, 2, 6].contains eng

/-- A decode trap, whose `FAULTADDR` is the address of the instruction (R185). -/
def Trap.atInstr (c : Cause) (pc : DWord) : Trap := { Trap.whole c 0 0 with addr := pc.toNat }

/-- Steps 4 to 6 of R70 for some members of a wave; `names` are the vector names of the instruction. ERET outside the handler is
an ILLOP of step 4 (R190). When names of several fields lie beyond the window, the first of `names` decides. (DESIGN CHOICE,
log 88.) -/
def State.decodeTrap (s : State) (i : Instr) (names : List (Nat × Nat)) (pc : DWord) (w : WaveId) (members : List Nat) :
    Option Trap :=
  if !i.wf || (i.returns && members.any fun l => !(s.thread (w.thread l)).handler) then some (Trap.atInstr .illop pc)
  else if !(s.wave w).role.permits i.engine then some (Trap.whole .role 0 0)
  else
    match names.find? fun n => Nat.ble (s.launchOf w.blk).win n.2 with
    | some (o, _) => some (Trap.whole .regidx 0 o)
    | none => none

/-! ### Groups -/

/-- Insert a wave in ascending wave index, then block (R170). (DESIGN CHOICE, log 12.) -/
def insertWave (w : WaveId) : List WaveId → List WaveId
  | [] => [w]
  | v :: t =>
    if w = v then v :: t
    else if w.wv < v.wv ∨ (w.wv = v.wv ∧ w.blk < v.blk) then w :: v :: t
    else v :: insertWave w t

/-- A member of a group that can issue. -/
def State.isReady (s : State) (t : ThreadId) : Bool :=
  s.issues t.blk && (s.thread t).live && decide ((s.thread t).wait = .ready)

/-- The waves of a group with their members, ascending. (DESIGN CHOICE, log 12.) -/
def State.groupWaves (s : State) (e : Entry) : List (WaveId × List Nat) :=
  let ms := e.members.filter s.isReady
  (ms.foldr (fun t l => insertWave t.wid l) []).map fun w =>
    (w, sortN ((ms.filter fun t => decide (t.wid = w)).map (·.lane)))

/-- The thread takes part: its guard passes, and `DONEMASK` does not exclude it after a resume (R51, R174, R177). (DEDUCED, log 20.) -/
def State.participates (s : State) (h : Head) (w : WaveId) (lane : Nat) : Bool :=
  let t := s.thread (w.thread lane)
  (t.pred h.pg.toNat != h.pn) && !(t.resume && (s.wave w).donemask.getLsbD lane)

/-- The lanes that `DONEMASK` excludes from this issue. (DEDUCED, log 20.) -/
def State.excluded (s : State) (w : WaveId) (members : List Nat) : BitVec 64 :=
  (s.wave w).donemask &&& laneMask (members.filter fun l => (s.thread (w.thread l)).resume)

/-- A wave of the group at an instruction. -/
def State.issOf (s : State) (i : Instr) (c k : Nat) (e : Entry) (w : WaveId) (members : List Nat) : Iss where
  core := c
  slot := k
  wid := w
  members := members
  lanes := members.filter fun l => s.participates i.head w l
  prev := s.excluded w members
  mask := (s.wave w).donemask
  instr := i
  pc := e.pc
  len := i.len
  eng := i.engine

/-- The lanes below a lane. -/
def below (lanes : List Nat) (l : Nat) : List Nat := lanes.filter fun x => Nat.blt x l

/-- Where a trap of a wave at an instruction is taken. When no lane takes part, the lane that a whole trap reports is the lowest
member's. (DESIGN CHOICE, log 83.) -/
def Iss.site (x : Iss) (tr : Trap) : TrapSite where
  wid := x.wid
  members := x.members
  pc := x.pc
  len := x.len
  eng := x.eng
  low := nth (nth 0 x.members 0) x.lanes 0
  done := match tr.lane with
    | some f => laneMask (below x.lanes f)
    | none => 0
  prev := x.prev

/-- The members of a wave issue: their PCs go on, marks and counts of age end (R174, R166, R167), interval 0 opens (R98),
and `DONEMASK` clears once every resumed thread has issued (R177). -/
def State.advance (s : State) (x : Iss) : State :=
  let resumed := x.members.any fun l => (s.thread (x.wid.thread l)).resume
  let s := s.openInterval x.wid
  let s := s.updThreads x.wid x.members fun t =>
    { t with pc := pcPlus x.pc x.len, yielded := false, since := s.cycle, slot := 4, resume := false }
  if resumed && !((s.wave x.wid).threads.any fun p => p.2.live && p.2.resume) then
    s.updWave x.wid fun w => { w with donemask := 0 }
  else s

/-! ### The end of a run -/

/-- The run on a slot ends: its threads leave the group (R164), and its staging buffer is emptied (R222). -/
def State.endRun (s : State) (c k : Nat) (members : List ThreadId) : State :=
  let s := s.updSlot c k fun x => { x with run := none, pend := none }
  members.foldl (fun s t =>
    if (s.thread t).live then s.updThread t fun x => { x with ready := s.cycle, slot := k } else s) s

/-- Every live thread of a wave outside the handler is converging, and not all at one PC (R173). (DEDUCED, log 18.) -/
def Wave.deadlocked (w : Wave) : Bool :=
  let ts := w.threads.filter fun p => p.2.live && !p.2.handler
  match ts with
  | [] => false
  | p :: _ => ts.all (fun q => decide (q.2.wait = .converging)) && ts.any fun q => decide (q.2.pc ≠ p.2.pc)

/-- After an instruction: `INTRAP` clears when no handler thread is left (R179), and a wave that can never converge ends
its context (R173). (DEDUCED, log 18.) -/
def State.checkWave (s : State) (w : WaveId) : State :=
  let s := if (s.wave w).intrap && (s.wave w).handlerLanes.isEmpty then s.clearIntrap w else s
  if (s.wave w).deadlocked then
    let lane := nth 0 (((s.wave w).threads.filter fun p => p.2.live && !p.2.handler).map (·.1)) 0
    let s := s.updWave w fun x => { x with faultinfo := faultInfo (Trap.whole .deadlock 1 0) 1 lane, faultaddr := 0 }
    s.ctxFault (s.blk w.blk).ctx
  else s

/-- An entry of a staging buffer stands while every wave whose row it holds maps the name (R223). -/
def State.stageLive (s : State) (e : Staged) : Bool := e.waves.all fun w => ((s.wave w).vreg e.name).isSome

/-- The entries of a slot's staging buffer that stand (R223). -/
def Slot.trim (k : Slot) (s : State) : Slot :=
  { k with run := k.run.map fun r => { r with staged := r.staged.filter s.stageLive } }

/-- A name whose row has been freed leaves the staging buffers of its core (R223). -/
def State.trimStaged (s : State) (c : Nat) : State :=
  s.updCore c fun x => { x with slots := x.slots.map fun q => (q.1, q.2.trim s) }

/-- A staging buffer of 16 entries: the earliest-entered are dropped (R222). -/
def capStaged (l : List Staged) : List Staged := l.drop (l.length - 16)

/-- Take the traps of an instruction, and end the run or go on to the next instruction (R163, R164). The run also ends when a member is
not ready any more, as one that COMMIT, ABORT, FENCE or a `.pod` release holds (R94, R287). (DESIGN CHOICE, log 91.) -/
def State.retire (s : State) (i : Instr) (c k : Nat) (r : Run) (waves : List (WaveId × List Nat))
    (traps : List (Iss × Trap)) : State :=
  let s := traps.foldl (fun s p => s.takeTrap (p.1.site p.2) p.2) s
  let s := (waves.foldl (fun s w => s.checkWave w.1) s).trimStaged c
  match (s.slot c k).run with
  | none => s
  | some _ =>
    let count := r.count + 1
    let left := r.group.members.any fun t => !s.isReady t
    if !traps.isEmpty || i.endsRun || Nat.ble Config.runMax count || left then s.endRun c k r.group.members
    else
      s.updSlot c k fun x =>
        { x with run := x.run.map fun y =>
            { group := { y.group with pc := pcPlus r.group.pc i.len }, count := count, staged := capStaged y.staged } }

/-! ### Waves one after another -/

/-- What the waves of a group have done so far. -/
structure Done where
  s : State
  traps : List (Iss × Trap)
  waits : List (Iss × Wait × List Nat × (State → State))
  held : Bool

/-- One wave issues the instruction (R170, R174, R176); rows of it that are empty when a trap is taken are freed (R208). -/
def Done.wave (a : Done) (i : Instr) (c k : Nat) (e : Entry) (names : List (Nat × Nat)) (body : Iss → State → WOut)
    (w : WaveId × List Nat) : Done :=
  let x := a.s.issOf i c k e w.1 w.2
  match a.s.decodeTrap i names e.pc w.1 w.2 with
  | some tr => { a with traps := a.traps ++ [(x, tr)] }
  | none =>
    if x.lanes.isEmpty then { a with s := a.s.advance x }
    else
      match body x (a.s.advance x) with
      | .done s => { a with s := s }
      | .trap tr s =>
        { a with s := s.updWave w.1 Wave.freeRows, traps := a.traps ++ [(x, if i.wholeOnly then { tr with lane := none } else tr)] }
      | .wait t lanes fx => { a with waits := a.waits ++ [(x, t, lanes, fx)] }
      | .hold => { a with held := true }

/-- Threads sleep at the instruction (R165). A register that is not EMPTY is not waited for. -/
def State.sleepOn (s : State) (x : Iss) (t : Wait) (lanes : List Nat) : State :=
  let go := match t with
    | .onReg c => (s.wave x.wid).isEmpty c
    | _ => true
  if go then s.updThreads x.wid lanes fun y => { y with wait := t } else s

/-- The run ends before the instruction: some threads sleep and the others are ready at it (R165). -/
def State.sleepRun (s : State) (c k : Nat) (r : Run) (waits : List (Iss × Wait × List Nat × (State → State))) : State :=
  let s := waits.foldl (fun s q => (q.2.2.2 s).sleepOn q.1 q.2.1 q.2.2.1) s
  s.endRun c k r.group.members

/-- The group has made a request that waits for acceptance: its threads still stand at the instruction (R27, R165). -/
def State.unadvance (s base : State) (e : Entry) (waves : List (WaveId × List Nat)) : State :=
  waves.foldl (fun s w =>
    let s := s.updWave w.1 fun x => { x with donemask := (base.wave w.1).donemask }
    w.2.foldl (fun s l => s.updThread (w.1.thread l) fun t =>
      { t with pc := e.pc, resume := (base.thread (w.1.thread l)).resume }) s) s

/-- The waves of a group that trapped at an instruction at which others make requests take their traps when the requests
have been answered. (DEDUCED, log 13.) -/
def State.pendTraps (s : State) (c k : Nat) (traps : List (Iss × Trap)) : State :=
  let add (p : Pend) (q : Iss × Trap) : Pend :=
    { p with waves := p.waves ++
        [{ PendWave.fresh q.1.wid q.1.lanes with prev := q.1.prev, answered := true, refusal := some q.2 }] }
  s.updSlot c k fun y => { y with pend := y.pend.map fun p => traps.foldl add p }

/-- Threads arrive at a converging instruction (R172). (DEDUCED, log 18.) -/
def State.converge (s : State) (i : Instr) (c k : Nat) (r : Run) (names : List (Nat × Nat))
    (waves : List (WaveId × List Nat)) : State :=
  let trap (w : WaveId × List Nat) : Option (Iss × Trap) :=
    (s.decodeTrap i names r.group.pc w.1 w.2).map fun tr => (s.issOf i c k r.group w.1 w.2, tr)
  let s1 := waves.foldl (fun (s' : State) w =>
    if (trap w).isSome then s'
    else s'.updThreads w.1 w.2 fun t => { t with wait := .converging, yielded := false }) s
  s1.retire i c k r waves (waves.filterMap trap)

/-- A wave of BARV waits for its arrival, so that no thread of the wave issues before the update of its object (R300, R302). -/
def State.arriving (s : State) (w : WaveId) : Bool := s.arrivals.any fun a => decide (a.2.wid = w)

/-- The group of the acting slot issues an instruction: `names` are the vector names that step 6 of R70 checks, `body` what
one wave does. A slot without a run, or whose request waits for acceptance or for popped elements, or with a wave whose arrival at an
object is outstanding, does nothing. When the commit of an exit finds no
room, no thread of the group exits (R97). (DEDUCED, log 13; DESIGN CHOICE, log 12.) -/
def State.issueWith (s : State) (i : Instr) (names : List (Nat × Nat)) (body : Iss → State → WOut) : State :=
  let c := s.cur.1
  let k := s.cur.2
  match (s.slot c k).run, (s.slot c k).pend with
  | some r, none =>
    let waves := s.groupWaves r.group
    if waves.isEmpty then s.endRun c k r.group.members
    else if waves.any fun w => s.arriving w.1 then s
    else if i.converges && !r.group.conv then s.converge i c k r names waves
    else
      let s0 := if i.converges then waves.foldl (fun s w => s.orderLoads w.1) s else s
      let a : Done := waves.foldl (fun a w => if a.held then a else a.wave i c k r.group names body w)
        { s := s0, traps := [], waits := [], held := false }
      if a.held then s
      else if !a.waits.isEmpty then s.sleepRun c k r a.waits
      else if i.exits && a.traps.any (fun q => decide (q.2.cause = .wbovf)) then s.retire i c k r waves a.traps
      else
        match (a.s.slot c k).pend with
        | none => a.s.retire i c k r waves a.traps
        | some p =>
          let s' := (a.s.pendTraps c k a.traps).trimStaged c
          if p.waves.all (·.answered) then s' else s'.unadvance s r.group waves
  | _, _ => s

/-- The group issues an instruction whose operands are read in the common way. (DESIGN CHOICE, log 12.) -/
def State.issueOps (s : State) (i : Instr) (u : Use) (body : Iss → (Nat → Nat → Nat) → State → WOut) :
    Host.Outcome State Fault Refusal :=
  .next (s.issueWith i u.vnames fun x s => s.withOperands x u fun vals s => body x vals s)

/-! ### Common shapes of instructions -/

/-- Each lane computes a result and flags from its sources (R245 and others); `f` takes the value of each source. -/
def State.issueLanes (s : State) (i : Instr) (u : Use) (f : (Nat → Nat) → Nat × Nat) : Host.Outcome State Fault Refusal :=
  s.issueOps i u fun x vals s =>
    let rs := x.lanes.map fun l => (l, f fun o => vals o l)
    s.finish x u x.lanes (rs.map fun r => (r.1, r.2.1)) (rs.foldl (fun a r => a ||| r.2.2) 0)

/-- One execution for the wave computes a scalar result and flags (R170). -/
def State.issueScalar (s : State) (i : Instr) (u : Use) (f : (Nat → Nat) → Nat × Nat) : Host.Outcome State Fault Refusal :=
  s.issueOps i u fun x vals s =>
    let l := nth 0 x.lanes 0
    let r := f fun o => vals o l
    s.finish x u x.lanes [(l, r.1)] r.2

/-- Each lane computes a predicate and flags (R246, R250). -/
def State.issuePreds (s : State) (i : Instr) (u : Use) (pd : Nat) (f : (Nat → Nat) → Bool × Nat) :
    Host.Outcome State Fault Refusal :=
  s.issueOps i u fun x vals s =>
    let rs := x.lanes.map fun l => (l, f fun o => vals o l)
    let s := s.setPreds x.wid pd (rs.map fun r => (r.1, r.2.1))
    s.finish x u x.lanes [] (rs.foldl (fun a r => a ||| r.2.2) 0)

end Sys2Proof.Machine
end

