-- ==== Sys2Proof/Machine/Fetch.lean ====
section
/-! DEFINITION. Instruction fetch, the traps of decoding, the passing of time, and a group placed at given instruction bytes (spec/02_encoding.md R44, R45, R70; spec/05_sequencer.md R180, R188). -/

namespace Sys2Proof.Machine

open Sys2Proof

/-- What the fetch of the acting slot gives: nothing to issue (no run, a request waiting for acceptance, or a fetch block
that is not in the instruction cache), a trap with word 0 of the instruction when it could be read, or an instruction. -/
inductive Fetched where
  | idle
  | trap (tr : Trap) (w0 : Option Word)
  | instr (i : Instr)

/-- A fetch fault (R45, R180). -/
def fetchTrap (c : Cause) (sub : Nat) (pc : DWord) : Trap :=
  { cause := c, sub := sub, opnd := 0, acc := 4, addr := pc.toNat, lane := none, src := 4 }

/-- The address cannot be fetched, with its sub-cause (R45, R188). -/
def State.badTarget (s : State) (pc : DWord) : Option Nat :=
  if pc.getLsbD 63 then some 2
  else
    match s.pkgCheck pc.toNat with
    | some sub => some sub
    | none => if pc.toNat % 4 = 0 then none else some 9

/-- The fetch block that holds an address, in a core's instruction cache (R45). (DEDUCED, log 17.) -/
def State.cachedBlock (s : State) (core ctx va : Nat) : Option (List Byte) :=
  match (s.core core).icache.find? fun b => b.1 == ctx && b.2.1 == va / 32 with
  | some b => some b.2.2
  | none => none

/-- The decoded instruction of a fetch block (R70 steps 2 to 4). -/
def decodeAt (block : List Byte) (pc : DWord) : Fetched :=
  let bs := block.drop (vaOf pc % 32)
  let w0 := some (wordAt bs 0)
  match decode bs with
  | .ok (i, _) => .instr i
  | .error .illen => .trap (Trap.atInstr .illen pc) w0
  | .error .short => .trap (Trap.atInstr .straddle pc) w0
  | .error .illop => .trap (Trap.atInstr .illop pc) w0

/-- Fetch and decode the next instruction of the acting slot (R45, R70). (DEDUCED, log 17.) -/
def State.fetch (s : State) : Fetched :=
  match (s.slot s.cur.1 s.cur.2).run, (s.slot s.cur.1 s.cur.2).pend with
  | some r, none =>
    match r.group.members with
    | [] => .idle
    | t :: _ =>
      let pc := r.group.pc
      let ctx := (s.blk t.blk).ctx
      match s.badTarget pc with
      | some sub => .trap (fetchTrap .prot sub pc) none
      | none =>
        match s.translate ctx (vaOf pc) pc.toNat .fetch with
        | .error f => .trap (fetchTrap f.cause f.sub pc) none
        | .ok _ =>
          match s.cachedBlock s.cur.1 ctx (vaOf pc) with
          | none => .idle
          | some b => decodeAt b pc
  | _, _ => .idle

/-- A slot with a group whose fetch block is not in the cache asks for it, once (R45, R384). (DEDUCED, log 17, 49.) -/
def State.askFill (s : State) : State :=
  let c := s.cur.1
  let x := s.slot c s.cur.2
  match x.run, x.pend with
  | some r, none =>
    match r.group.members with
    | [] => s
    | t :: _ =>
      let ctx := (s.blk t.blk).ctx
      let blk := vaOf r.group.pc / 32
      let asked := match x.miss with
        | some m => decide (m.1 = ctx ∧ m.2.1 = blk)
        | none => false
      if (s.cachedBlock c ctx (32 * blk)).isSome || asked then s
      else s.updSlot c s.cur.2 fun y => { y with miss := some (ctx, blk, s.ns) }
  | _, _ => s

/-- Where a wave takes a trap of fetch or decoding. Of an instruction that cannot be read, the engine reported is the sequencer and
the lane is the lowest member's, as it is where no lane takes part. (DESIGN CHOICE, log 83.) -/
def State.fetchSite (s : State) (pc : DWord) (w0 : Option Word) (w : WaveId) (members : List Nat) : TrapSite where
  wid := w
  members := members
  pc := pc
  len := (w0.bind lenBytes).getD 8
  eng := match w0 with
    | some x => engineOf (majOf x)
    | none => 1
  low := match w0 with
    | some x => nth (nth 0 members 0) (members.filter fun l => s.participates (headOf x) w l) 0
    | none => nth 0 members 0
  done := 0
  prev := s.excluded w members

/-- Every wave of the acting slot's group takes a trap of fetch or decoding, and the run ends (R71, R165). A PAGE fault of a fetch is a
lane trap at which no lane completes (R180). -/
def State.trapGroup (s : State) (tr : Trap) (w0 : Option Word) : State :=
  match (s.slot s.cur.1 s.cur.2).run with
  | none => s
  | some r =>
    let waves := s.groupWaves r.group
    let s' := waves.foldl (fun s w =>
      let site := s.fetchSite r.group.pc w0 w.1 w.2
      s.takeTrap site (match tr.cause with
        | .page => { tr with lane := some site.low }
        | _ => tr)) s
    let s' := waves.foldl (fun s w => s.checkWave w.1) s'
    match (s'.slot s.cur.1 s.cur.2).run with
    | none => s'
    | some _ => s'.endRun s.cur.1 s.cur.2 r.group.members

/-- A slot of a core acts, in a later cycle when a slot with a number not below its own has acted in this one (R163, R171). -/
def State.turn (s : State) (c k : Nat) : State :=
  let late := match (s.core c).acted with
    | some a => decide (a.1 = s.cycle) && Nat.ble k a.2
    | none => false
  let s : State := if late then { s with cycle := s.cycle + 1 } else s
  State.updCore { s with cur := (c, k) } c fun x => { x with acted := some (s.cycle, k) }

/-- Time passes (R14, R393). (DESIGN CHOICE, log 1, 2.) -/
def State.pass (s : State) (ns cycles : Nat) : State :=
  { s with ns := s.ns + ns, cycle := s.cycle + cycles, podTime := s.podTime + BitVec.ofNat 64 ns }

/-- A descriptor that gives a wave every vector name, general waves and the split 256, 1024, 256 KiB (R134). (DESIGN CHOICE, log 5.) -/
def openDesc : BitVec 512 :=
  BitVec.ofNat 512 (4 * 2 ^ 54 + 16 * 2 ^ 59 + 4 * 2 ^ 64 + 96 * 2 ^ 69 + 16 * 2 ^ 76 + 1 * 2 ^ 86 + 1 * 2 ^ 91)

/-- A wave of 64 threads at an address. (DESIGN CHOICE, log 5.) -/
def Wave.at_ (pc : DWord) (now : Nat) : Wave :=
  { Wave.placed .general 0 with threads := (List.range 64).map fun l => (l, Thread.placed pc now) }

/-- The state in which the acting slot's group is a whole wave of a running context, at virtual address 0, where the given
bytes stand in home memory and in the instruction cache. It stands for the load of a program from outside. (DESIGN CHOICE, log 5.) -/
def State.placeWord (s : State) (bytes : List Byte) : State :=
  let code := (bytes ++ List.replicate 32 (0 : Byte)).take 32
  let pc := pcOf 0
  let s := s.setMemBytes 0 code
  let s := s.updCtx 0 fun c => { c with st := .run, pages := mput c.pages 0 { entry := 0x1D, members := [], names := [] } }
  let s := s.updLaunch 0 fun _ => Launch.ofDesc 0 0 0 openDesc
  let s := s.updBlk 0 fun _ => { Block.placed 0 0 s.cur.1 0 with waves := [(0, Wave.at_ pc s.cycle)] }
  let group : Entry :=
    { launch := 0, pc := pc, conv := true, members := (List.range 64).map fun l => { blk := 0, wv := 0, lane := l }, aged := false }
  let s := s.updSlot s.cur.1 s.cur.2 fun x => { x with run := some { group := group, count := 0, staged := [] }, pend := none }
  let s := s.updCore s.cur.1 fun c => { c with icache := [(0, 0, code)] }
  { s with agenda := [] }

end Sys2Proof.Machine
end

