-- ==== Sys2Proof/Machine/Control.lean ====
section
/-! DEFINITION. The control, special-register and predicate instructions but for EXIT (spec/05_sequencer.md R181 to R194), and RLS (spec/06_registers.md R225). -/

namespace Sys2Proof.Machine

open Sys2Proof

/-- An instruction without register operands, and what one wave does. -/
def State.issueBare (s : State) (i : Instr) (body : Iss → State → WOut) : Host.Outcome State Fault Refusal :=
  .next (s.issueWith i [] body)

/-- The participating threads of a wave go to an address. -/
def State.jump (s : State) (x : Iss) (target : DWord) : State := s.updThreads x.wid x.lanes fun t => { t with pc := target }

/-- BRA (R187). -/
def execBra (x : FK) (s : State) : Host.Outcome State Fault Refusal :=
  s.issueBare (.bra x) fun w s => .done (s.jump w (pcPlus w.pc (sextN x.k.toNat 32)))

/-- CALL: the return address as a generic address of this package, then the jump (R187). -/
def execCall (x : FK) (s : State) : Host.Outcome State Fault Refusal :=
  s.issueOps (.call x) { rds := [], dst := some (Dst.vd x.d .b64), k := 0 } fun w _ s =>
    let ret := (pcPlus w.pc 12).toNat
    (s.jump w (pcPlus w.pc (sextN x.k.toNat 32))).finish w { rds := [], dst := some (Dst.vd x.d .b64), k := 0 } w.lanes
      (w.lanes.map fun l => (l, ret)) 0

/-- TRAP (R187, R185). -/
def execTrap (x : FK) (s : State) : Host.Outcome State Fault Refusal :=
  s.issueBare (.trap x) fun _ s => .trap { Trap.whole .trap 0 0 with addr := x.k.toNat } s

/-- Where a branch target stands: the address in this package, or the value that faults at its fetch (R188). -/
def State.targetOf (s : State) (v : Nat) : DWord :=
  match s.badTarget (BitVec.ofNat 64 v) with
  | none => pcOf v
  | some _ => BitVec.ofNat 64 v

/-- Each participating thread continues at the value of its pair (R188). -/
def State.jumpPair (s : State) (i : Instr) (a : Src) : Host.Outcome State Fault Refusal :=
  let u : Use := { rds := [Rd.pair 1 a true], dst := none, k := 0 }
  s.issueOps i u fun w vals s =>
    let s := w.lanes.foldl (fun s l => s.updThread (w.wid.thread l) fun t => { t with pc := s.targetOf (vals 1 l) }) s
    s.finish w u w.lanes [] 0

/-- BRX (R188). -/
def execBrx (x : FA) (s : State) : Host.Outcome State Fault Refusal := s.jumpPair (.brx x) x.a

/-- RET (R188). -/
def execRet (x : FA) (s : State) : Host.Outcome State Fault Refusal := s.jumpPair (.ret x) x.a

/-- ERET: the return from the handler (R190); outside the handler it is an ILLOP of step 4 of R70 (State.decodeTrap). -/
def execEret (x : FA) (s : State) : Host.Outcome State Fault Refusal :=
  s.issueBare (.eret x) fun w s =>
    .done (s.trapReturn w.wid)

/-- BRKPT (R191, R185). -/
def execBrkpt (x : FA) (s : State) : Host.Outcome State Fault Refusal :=
  s.issueBare (.brkpt x) fun _ s => .trap { Trap.whole .brkpt 0 0 with addr := x.a.code.toNat } s

/-- NOP (R191). -/
def execNop (x : FA) (s : State) : Host.Outcome State Fault Refusal := s.issueBare (.nop x) fun _ s => .done s

/-- YIELD (R191). -/
def execYield (x : FA) (s : State) : Host.Outcome State Fault Refusal :=
  s.issueBare (.yield x) fun w s => .done (s.updThreads w.wid w.lanes fun t => { t with yielded := true })

/-- SLEEP (R191). -/
def execSleep (x : FA) (s : State) : Host.Outcome State Fault Refusal :=
  let u : Use := { rds := [Rd.ss 1 x.a .n32], dst := none, k := x.ext.getD 0 }
  s.issueOps (.sleep x) u fun w vals s =>
    let m := min (vals 1 (nth 0 w.lanes 0)) (2 ^ 24)
    let s := if m = 0 then s
      else s.updThreads w.wid w.lanes fun t => { t with wait := .sleep (s.cycle + m) }
    s.finish w u w.lanes [] 0

/-- CVG (R191); the order of R114 is that of every converging instruction. -/
def execCvg (x : FA) (s : State) : Host.Outcome State Fault Refusal := s.issueBare (.cvg x) fun _ s => .done s

/-! ### STAGE and RLS -/

/-- The registers that STAGE selects, ascending (R192). -/
def stageNames (x : FK) : List Nat := ((List.range 32).filter fun i => x.k.getLsbD i).map fun i => x.a.code.toNat + i

/-- A wave's row of a name enters a staging buffer: the name's entry holds it, at the age that the entry has, or a new entry does
(R222). (DESIGN CHOICE, log 89.) -/
def stageOne (w : WaveId) (staged : List Staged) (n : Nat) : List Staged :=
  if staged.any fun e => e.name == n then
    staged.map fun e => if e.name = n ∧ ¬ w ∈ e.waves then { e with waves := e.waves ++ [w] } else e
  else staged ++ [{ name := n, waves := [w] }]

/-- Enter names of a wave into a staging buffer (R222). -/
def stageEnter (w : WaveId) (staged : List Staged) (names : List Nat) : List Staged := names.foldl (stageOne w) staged

/-- STAGE (R192, R222). The earliest-entered entries beyond 16 are dropped when every wave of the group has entered its names
(State.retire). -/
def execStage (x : FK) (s : State) : Host.Outcome State Fault Refusal :=
  .next (s.issueWith (.stage x) ((stageNames x).map fun n => (1, n)) fun w s =>
    let full := (stageNames x).filter fun n =>
      match (s.wave w.wid).vreg n with
      | some r => decide (r.st = .full)
      | none => false
    .done (s.updSlot w.core w.slot fun y =>
      { y with run := y.run.map fun r => { r with staged := stageEnter w.wid r.staged full } }))

/-- Release a name for some lanes, or for all (R225). -/
def Wave.release (w : Wave) (all : Bool) (lanes : List Nat) (n : Nat) : Wave :=
  let w := w.clearLive n (if all then BitVec.allOnes 64 else laneMask lanes)
  { w with vregs := w.vregs.filter fun p => decide (p.1 ≠ n) || decide (p.2.live ≠ 0) }

/-- The entries that hold a wave's rows of some names leave the staging buffers of its core (R223). -/
def State.unstage (s : State) (w : WaveId) (names : List Nat) : State :=
  let stays (e : Staged) : Bool := !(names.contains e.name && e.waves.contains w)
  s.updCore (s.blk w.blk).core fun c => { c with slots := c.slots.map fun q =>
    (q.1, { q.2 with run := q.2.run.map fun r => { r with staged := r.staged.filter stays } }) }

/-- RLS (R225, R223). -/
def execRls (x : FA) (s : State) : Host.Outcome State Fault Refusal :=
  let names := rangeFrom x.a.code.toNat x.b.code.toNat
  .next (s.issueWith (.rls x) (names.map fun n => (1, n)) fun w s =>
    match names.find? (s.wave w.wid).isEmpty with
    | some n => .wait (.onReg n) w.members id
    | none =>
      .done ((s.updWave w.wid fun y => names.foldl (fun y n => y.release (x.hd.md.getLsbD 0) w.lanes n) y).unstage w.wid names))

/-! ### Special registers (R181 to R186, R193) -/

/-- `MAPROWS` (R221). -/
def Wave.maprows (w : Wave) : Nat := w.spills % 1024 * 2 ^ 16 + w.rows % 1024

/-- The 64 bits of the special register whose LO half, or only word, has a number; the HI numbers are read through their
LO number. -/
def Wave.specialPair (w : Wave) (n : Nat) : Nat :=
  match n with
  | 0 => w.wstat.toNat
  | 1 => w.fstat.toNat
  | 2 => w.faultinfo.toNat
  | 3 => w.faultaddr.toNat
  | 5 => w.donemask.toNat
  | 7 => w.epc.toNat
  | 9 => w.trapvec.toNat
  | _ => w.maprows

/-- The value of a special register (R69, R193). -/
def Wave.readSpecial (w : Wave) (n : Nat) (wide : Bool) : Nat :=
  match n with
  | 4 => w.faultaddr.toNat / 2 ^ 32
  | 6 => w.donemask.toNat / 2 ^ 32
  | 8 => w.epc.toNat / 2 ^ 32
  | 10 => w.trapvec.toNat / 2 ^ 32
  | _ => if wide then w.specialPair n else w.specialPair n % 2 ^ 32

/-- A 64-bit register with its LO half, its HI half, or all of it written. -/
def writePart (old : BitVec 64) (v : Nat) (wide hi : Bool) : BitVec 64 :=
  if wide then BitVec.ofNat 64 v
  else if hi then BitVec.ofNat 64 (old.toNat % 2 ^ 32 + v % 2 ^ 32 * 2 ^ 32)
  else BitVec.ofNat 64 (old.toNat / 2 ^ 32 * 2 ^ 32 + v % 2 ^ 32)

/-- Write a special register by the access codes of its fields (R182 to R186). -/
def Wave.writeSpecial (w : Wave) (n : Nat) (wide : Bool) (v : Nat) : Wave :=
  match n with
  | 0 => { w with wstat := w.wstat &&& ~~~(BitVec.ofNat 32 v &&& 5#32) }
  | 1 => { w with fstat := w.fstat &&& ~~~(BitVec.ofNat 32 v &&& 0x3F#32) }
  | 5 => { w with donemask := writePart w.donemask v wide false }
  | 6 => { w with donemask := writePart w.donemask v false true }
  | 7 => { w with epc := epcField (writePart w.epc v wide false) }
  | 8 => { w with epc := epcField (writePart w.epc v false true) }
  | 9 => { w with trapvec := epcField (writePart w.trapvec v wide false) }
  | 10 => { w with trapvec := epcField (writePart w.trapvec v false true) }
  | _ => w

/-- RDSR: the value at issue, before a resumed issue clears `DONEMASK` (R177, R193). -/
def execRdsr (x : FA) (s : State) : Host.Outcome State Fault Refusal :=
  let u : Use := { rds := [], dst := some (Dst.sd x.d x.hd.ty), k := 0 }
  s.issueOps (.rdsr x) u fun w _ s =>
    let y : Wave := { s.wave w.wid with donemask := w.mask }
    s.finish w u w.lanes [(0, y.readSpecial x.a.code.toNat (Ty.is64 x.hd.ty))] 0

/-- WRSR (R193). -/
def execWrsr (x : FA) (s : State) : Host.Outcome State Fault Refusal :=
  let u : Use := { rds := [Rd.ss 2 x.b x.hd.ty], dst := none, k := x.ext.getD 0 }
  s.issueOps (.wrsr x) u fun w vals s =>
    let v := vals 2 (nth 0 w.lanes 0)
    (s.updWave w.wid fun y => y.writeSpecial x.a.code.toNat (Ty.is64 x.hd.ty) v).finish w u w.lanes [] 0

/-! ### Predicates (R194) -/

/-- Each participating thread computes a predicate from two of its own. -/
def State.predOp (s : State) (i : Instr) (d : BitVec 10) (a b : Src) (f : Bool → Bool → Bool) :
    Host.Outcome State Fault Refusal :=
  s.issueBare i fun w s =>
    .done (s.setPreds w.wid d.toNat (w.lanes.map fun l =>
      let t := s.thread (w.wid.thread l)
      (l, f (t.pred a.code.toNat) (t.pred b.code.toNat))))

/-- PAND (R194). -/
def execPand (x : FA) (s : State) : Host.Outcome State Fault Refusal := s.predOp (.pand x) x.d x.a x.b fun p q => p && q
/-- POR (R194). -/
def execPor (x : FA) (s : State) : Host.Outcome State Fault Refusal := s.predOp (.por x) x.d x.a x.b fun p q => p || q
/-- PXOR (R194). -/
def execPxor (x : FA) (s : State) : Host.Outcome State Fault Refusal := s.predOp (.pxor x) x.d x.a x.b fun p q => p != q
/-- PNOT (R194). -/
def execPnot (x : FA) (s : State) : Host.Outcome State Fault Refusal := s.predOp (.pnot x) x.d x.a x.b fun p _ => !p
/-- PMOV from a predicate (R194). -/
def execPmov (x : FA) (s : State) : Host.Outcome State Fault Refusal := s.predOp (.pmov x) x.d x.a x.b fun p _ => p

/-- PMOV from a predicate mask to a scalar pair (R194). -/
def execPmovToScalar (x : FA) (s : State) : Host.Outcome State Fault Refusal :=
  let u : Use := { rds := [], dst := some (Dst.sd x.d .b64), k := 0 }
  s.issueOps (.pmovToScalar x) u fun w _ s =>
    let ones := w.lanes.filter fun l => (s.thread (w.wid.thread l)).pred x.a.code.toNat
    s.finish w u w.lanes [(0, (laneMask ones).toNat)] 0

/-- PMOV from a scalar pair: bit `LANE` of it (R194). -/
def execPmovFromScalar (x : FA) (s : State) : Host.Outcome State Fault Refusal :=
  let u : Use := { rds := [Rd.ss 1 x.a .b64], dst := none, k := x.ext.getD 0 }
  s.issueOps (.pmovFromScalar x) u fun w vals s =>
    (s.setPreds w.wid x.d.toNat (w.lanes.map fun l => (l, (vals 1 l).testBit l))).finish w u w.lanes [] 0

end Sys2Proof.Machine
end

