-- ==== Sys2Proof/Machine/Scalar.lean ====
section
/-! DEFINITION. The scalar instructions and the indexed register moves (spec/05_sequencer.md R195 to R198, 06_registers.md R226, R227). -/

namespace Sys2Proof.Machine

open Sys2Proof

/-! ### Integer operations on the values of a type (R195, R245) -/

/-- x × 2^y, 0 when y reaches the width (R195, R245). -/
def shiftLeft (t : Ty) (x y : Nat) : Nat := if y < t.bits then x * 2 ^ y % 2 ^ t.bits else 0

/-- The right shift: arithmetic for the signed types (R195, R245). -/
def shiftRight (t : Ty) (x y : Nat) : Nat :=
  if t.signed then truncI (sextN x t.bits / (2 : Int) ^ min y (t.bits - 1)) t.bits
  else if y < t.bits then x / 2 ^ y else 0

/-- Lowest i with x[i] = 1, 2^n - 1 when x is 0 (R195). -/
def firstOne (n x : Nat) : Nat :=
  match (List.range n).find? fun i => x.testBit i with
  | some i => i
  | none => 2 ^ n - 1

/-- Bits of a field of an operand (R198, R246). -/
def bitExtract (t : Ty) (a pos len : Nat) : Nat :=
  let n := t.bits
  if len = 0 ∨ n ≤ pos then 0
  else
    let m := min len (n - pos)
    let f := a / 2 ^ pos % 2 ^ m
    if t.signed then truncI (sextN f m) n else f

/-! ### Scalar arithmetic (R195) -/

def useS2 (x : FA) : Use :=
  { rds := [Rd.ss 1 x.a x.hd.ty, Rd.ss 2 x.b x.hd.ty], dst := some (Dst.sd x.d x.hd.ty), k := x.ext.getD 0 }
def useS1 (x : FA) : Use := { rds := [Rd.ss 1 x.a x.hd.ty], dst := some (Dst.sd x.d x.hd.ty), k := x.ext.getD 0 }

/-- `MOD[0]` as `.sat` (R195, R245). -/
def Head.sat (h : Head) : Bool := h.md.getLsbD 0

/-- A scalar operation on integer values, with saturation as `MOD[0]` says (R195). -/
def State.scalarInt (s : State) (i : Instr) (x : FA) (f : Int → Int → Int) : Host.Outcome State Fault Refusal :=
  s.issueScalar i (useS2 x) fun v => intResult x.hd.ty (Head.sat x.hd) (f (x.hd.ty.val (v 1)) (x.hd.ty.val (v 2)))

/-- A scalar operation on bits. -/
def State.scalarBits (s : State) (i : Instr) (x : FA) (f : Nat → Nat → Nat) : Host.Outcome State Fault Refusal :=
  s.issueScalar i (useS2 x) fun v => (f (v 1) (v 2), 0)

/-- SADD (R195). -/
def execSadd (x : FA) (s : State) : Host.Outcome State Fault Refusal := s.scalarInt (.sadd x) x fun a b => a + b
/-- SSUB (R195). -/
def execSsub (x : FA) (s : State) : Host.Outcome State Fault Refusal := s.scalarInt (.ssub x) x fun a b => a - b
/-- SMUL (R195). -/
def execSmul (x : FA) (s : State) : Host.Outcome State Fault Refusal := s.scalarInt (.smul x) x fun a b => a * b
/-- SMULH (R195). -/
def execSmulh (x : FA) (s : State) : Host.Outcome State Fault Refusal :=
  s.scalarInt (.smulh x) x fun a b => a * b / (2 : Int) ^ x.hd.ty.bits
/-- SAND (R195). -/
def execSand (x : FA) (s : State) : Host.Outcome State Fault Refusal := s.scalarBits (.sand x) x fun a b => a &&& b
/-- SOR (R195). -/
def execSor (x : FA) (s : State) : Host.Outcome State Fault Refusal := s.scalarBits (.sor x) x fun a b => a ||| b
/-- SXOR (R195). -/
def execSxor (x : FA) (s : State) : Host.Outcome State Fault Refusal := s.scalarBits (.sxor x) x fun a b => a ^^^ b
/-- SSHL (R195). -/
def execSshl (x : FA) (s : State) : Host.Outcome State Fault Refusal := s.scalarBits (.sshl x) x (shiftLeft x.hd.ty)
/-- SSHR (R195). -/
def execSshr (x : FA) (s : State) : Host.Outcome State Fault Refusal := s.scalarBits (.sshr x) x (shiftRight x.hd.ty)
/-- SMIN (R195). -/
def execSmin (x : FA) (s : State) : Host.Outcome State Fault Refusal := s.scalarInt (.smin x) x fun a b => min a b
/-- SMAX (R195). -/
def execSmax (x : FA) (s : State) : Host.Outcome State Fault Refusal := s.scalarInt (.smax x) x fun a b => max a b
/-- SMOV (R195). -/
def execSmov (x : FA) (s : State) : Host.Outcome State Fault Refusal :=
  s.issueScalar (.smov x) (useS1 x) fun v => (v 1, 0)
/-- SFFS (R195). -/
def execSffs (x : FA) (s : State) : Host.Outcome State Fault Refusal :=
  s.issueScalar (.sffs x) (useS1 x) fun v => (firstOne x.hd.ty.bits (v 1), 0)
/-- SPOPC (R195). -/
def execSpopc (x : FA) (s : State) : Host.Outcome State Fault Refusal :=
  s.issueScalar (.spopc x) (useS1 x) fun v => (popCount x.hd.ty.bits (v 1), 0)

/-- SCMP: the same predicate value for every participating thread of the wave (R196, R170). -/
def execScmp (x : FA) (s : State) : Host.Outcome State Fault Refusal :=
  let u : Use := { rds := [Rd.ss 1 x.a x.hd.ty, Rd.ss 2 x.b x.hd.ty], dst := none, k := x.ext.getD 0 }
  s.issueOps (.scmp x) u fun w vals s =>
    let l := nth 0 w.lanes 0
    let r := intCmp x.hd.md.toNat (x.hd.ty.val (vals 1 l)) (x.hd.ty.val (vals 2 l))
    (s.setPreds w.wid x.d.toNat (w.lanes.map fun l => (l, r))).finish w u w.lanes [] 0

/-- SLI (R197). -/
def execSli (x : FK) (s : State) : Host.Outcome State Fault Refusal :=
  let sx := x.hd.md.getLsbD 0
  s.issueScalar (.sli x) { rds := [], dst := some (Dst.sd x.d (if sx then .b64 else .b32)), k := 0 } fun _ =>
    (if sx then truncI (sextN x.k.toNat 32) 64 else x.k.toNat, 0)

def useS3 (x : FC) : Use :=
  { rds := [Rd.ss 1 x.a x.hd.ty, Rd.ss 2 x.b x.hd.ty, Rd.ss 3 x.c x.hd.ty], dst := some (Dst.sd x.d x.hd.ty)
    k := x.ext.getD 0 }

/-- SSEL (R198). -/
def execSsel (x : FC) (s : State) : Host.Outcome State Fault Refusal :=
  s.issueScalar (.ssel x) (useS3 x) fun v => (if v 3 ≠ 0 then v 1 else v 2, 0)

/-- SBFX (R198). -/
def execSbfx (x : FC) (s : State) : Host.Outcome State Fault Refusal :=
  s.issueScalar (.sbfx x) (useS3 x) fun v => (bitExtract x.hd.ty (v 1) (v 2) (v 3), 0)

/-! ### Indexed registers (R226, R227) -/

/-- A source that is an indexed register, with the bits of the base field. -/
def Rd.indexed (opnd : Nat) (op : Operand) (b : Src) (last : Bool) (each : Bool) : Rd :=
  { opnd := opnd, op := op, last := last, tie := b.tie, ty := .b32, n := 1, each := each }

/-- The vector names of a base field. -/
def baseName (opnd : Nat) (code : BitVec 10) : Nat × Nat := (opnd, code.toNat)

/-- What an indexed store reads before its index is checked: the index alone, after the elements of `a` when both are queues
(R226, R227). -/
def indexFirst (ra rb : Rd) : List Rd := if (queueOf ra.op).isSome && (queueOf rb.op).isSome then [ra, rb] else [rb]

/-- SMOVX (R227). -/
def execSmovx (x : FA) (s : State) : Host.Outcome State Fault Refusal :=
  let rb := Rd.ss 2 x.b .n32
  let k := x.ext.getD 0
  .next (s.issueWith (.smovx x) [] fun w s =>
    s.withOperands w { rds := [rb], dst := none, k := k } fun vals s =>
      let r := x.a.code.toNat - 768 + vals 2 (nth 0 w.lanes 0)
      if 128 ≤ r then .trap (Trap.whole .regidx 1 1) s
      else
        let u : Use := { rds := [Rd.indexed 1 (.sca r) x.a false false, rb], dst := some (Dst.sd x.d .b32), k := k }
        s.withOperands w u fun vals s => s.finish w u w.lanes [(0, vals 1 (nth 0 w.lanes 0))] 0)

/-- SMOVX.st (R227). -/
def execSmovxSt (x : FA) (s : State) : Host.Outcome State Fault Refusal :=
  let ra := Rd.ss 1 x.a .b32
  let rb := Rd.ss 2 x.b .n32
  let k := x.ext.getD 0
  .next (s.issueWith (.smovxSt x) [] fun w s =>
    s.withOperands w { rds := indexFirst ra rb, dst := none, k := k } fun vals s =>
      let r := x.d.toNat - 768 + vals 2 (nth 0 w.lanes 0)
      if 128 ≤ r then .trap (Trap.whole .regidx 1 0) s
      else
        let u : Use := { rds := [ra, rb], dst := some (dstOf (.sca r) .b32 1 false), k := k }
        s.withOperands w u fun vals s => s.finish w u w.lanes [(0, vals 1 (nth 0 w.lanes 0))] 0)

/-- VMOVX: lane l takes lane l of register base + b[l] (R226). -/
def execVmovx (x : FA) (s : State) : Host.Outcome State Fault Refusal :=
  let rb := Rd.vs 2 x.b .n32
  let dst := Dst.vd x.d .b32
  let k := x.ext.getD 0
  let names := ({ rds := [], dst := some dst, k := k } : Use).vnames ++ [baseName 1 x.a.code] ++
    ({ rds := [rb], dst := none, k := k } : Use).vnames
  .next (s.issueWith (.vmovx x) names fun w s =>
    s.withOperands w { rds := [rb], dst := none, k := k } fun vals s =>
      let xs := w.lanes.map fun l => (l, x.a.code.toNat + vals 2 l)
      if xs.any fun p => Nat.ble (s.launchOf w.wid.blk).win p.2 then .trap (Trap.whole .regidx 1 1) s
      else
        let rds := (sortN (xs.map (·.2))).map fun n => Rd.indexed 1 (.vec n) x.a false true
        let u : Use := { rds := rds ++ [rb], dst := some dst, k := k }
        s.withOperands w u fun _ s =>
          let y := s.wave w.wid
          let s' := if x.a.last && (s.commitPush w u).isSome then
              s.updWave w.wid fun y => xs.foldl (fun y p => y.clearLive p.2 (laneBit p.1)) y
            else s
          s'.finish w u w.lanes (xs.map fun p => (p.1, (y.vlane p.2 p.1).toNat)) 0)

/-- VMOVX.st: lane l of register base + b[l] takes a[l] (R226). -/
def execVmovxSt (x : FA) (s : State) : Host.Outcome State Fault Refusal :=
  let ra := Rd.vs 1 x.a .b32
  let rb := Rd.vs 2 x.b .n32
  let k := x.ext.getD 0
  let first := indexFirst ra rb
  .next (s.issueWith (.vmovxSt x) (baseName 0 x.d :: ({ rds := [ra, rb], dst := none, k := k } : Use).vnames) fun w s =>
    s.withOperands w { rds := first, dst := none, k := k } fun vals s =>
      let xs := w.lanes.map fun l => (l, x.d.toNat + vals 2 l)
      if xs.any fun p => Nat.ble (s.launchOf w.wid.blk).win p.2 then .trap (Trap.whole .regidx 1 0) s
      else
        let codes := sortN (xs.map (·.2))
        let dst : Dst := { op := .vec x.d.toNat, ty := .b32, n := 1, each := true, codes := codes }
        let src : Use := { rds := [ra, rb], dst := none, k := k }
        s.withOperands w { rds := [ra, rb], dst := some dst, k := k } fun vals s =>
          let part (n : Nat) : List (Nat × Nat) :=
            (xs.filter fun p => decide (p.2 = n)).map fun p => (p.1, vals 1 p.1)
          let s' := (s.takePops w src w.lanes.length).clearLast w src w.lanes
          let s' := codes.foldl (fun s n =>
            if src.pops then
              s.startProducer w .pop { dst with codes := [n] } 0 0 ((part n).map fun p => (p.1, LaneSrc.known p.2))
            else s.writeRegs w.wid .b32 1 n (part n)) s'
          .done (s'.updWave w.wid Wave.freeRows))

end Sys2Proof.Machine
end

