-- ==== Sys2Proof/Machine/Vector.lean ====
section
/-! DEFINITION. The vector integer instructions (spec/07_vector_arithmetic.md R232, R245, R246). -/

namespace Sys2Proof.Machine

open Sys2Proof

def useV2 (x : FA) : Use :=
  { rds := [Rd.vs 1 x.a x.hd.ty, Rd.vs 2 x.b x.hd.ty], dst := some (Dst.vd x.d x.hd.ty), k := x.ext.getD 0 }
def useV1 (x : FA) : Use := { rds := [Rd.vs 1 x.a x.hd.ty], dst := some (Dst.vd x.d x.hd.ty), k := x.ext.getD 0 }

/-- A lane operation on integer values, with saturation as `MOD[0]` says (R245). -/
def State.vectorInt (s : State) (i : Instr) (x : FA) (f : Int → Int → Int) : Host.Outcome State Fault Refusal :=
  s.issueLanes i (useV2 x) fun v => intResult x.hd.ty (Head.sat x.hd) (f (x.hd.ty.val (v 1)) (x.hd.ty.val (v 2)))

/-- The same with one source. -/
def State.vectorInt1 (s : State) (i : Instr) (x : FA) (f : Int → Int) : Host.Outcome State Fault Refusal :=
  s.issueLanes i (useV1 x) fun v => intResult x.hd.ty (Head.sat x.hd) (f (x.hd.ty.val (v 1)))

/-- A lane operation on bits. -/
def State.vectorBits (s : State) (i : Instr) (x : FA) (f : Nat → Nat → Nat) : Host.Outcome State Fault Refusal :=
  s.issueLanes i (useV2 x) fun v => (f (v 1) (v 2), 0)

def State.vectorBits1 (s : State) (i : Instr) (x : FA) (f : Nat → Nat) : Host.Outcome State Fault Refusal :=
  s.issueLanes i (useV1 x) fun v => (f (v 1), 0)

/-- VADD (R245). -/
def execVadd (x : FA) (s : State) : Host.Outcome State Fault Refusal := s.vectorInt (.vadd x) x fun a b => a + b
/-- VSUB (R245). -/
def execVsub (x : FA) (s : State) : Host.Outcome State Fault Refusal := s.vectorInt (.vsub x) x fun a b => a - b
/-- VMUL (R245). -/
def execVmul (x : FA) (s : State) : Host.Outcome State Fault Refusal := s.vectorInt (.vmul x) x fun a b => a * b
/-- VMULH (R245). -/
def execVmulh (x : FA) (s : State) : Host.Outcome State Fault Refusal :=
  s.vectorInt (.vmulh x) x fun a b => a * b / (2 : Int) ^ x.hd.ty.bits
/-- VMIN (R245). -/
def execVmin (x : FA) (s : State) : Host.Outcome State Fault Refusal := s.vectorInt (.vmin x) x fun a b => min a b
/-- VMAX (R245). -/
def execVmax (x : FA) (s : State) : Host.Outcome State Fault Refusal := s.vectorInt (.vmax x) x fun a b => max a b
/-- VABS (R245). -/
def execVabs (x : FA) (s : State) : Host.Outcome State Fault Refusal := s.vectorInt1 (.vabs x) x fun a => (a.natAbs : Int)
/-- VNEG (R245). -/
def execVneg (x : FA) (s : State) : Host.Outcome State Fault Refusal := s.vectorInt1 (.vneg x) x fun a => -a
/-- VAND (R245). -/
def execVand (x : FA) (s : State) : Host.Outcome State Fault Refusal := s.vectorBits (.vand x) x fun a b => a &&& b
/-- VOR (R245). -/
def execVor (x : FA) (s : State) : Host.Outcome State Fault Refusal := s.vectorBits (.vor x) x fun a b => a ||| b
/-- VXOR (R245). -/
def execVxor (x : FA) (s : State) : Host.Outcome State Fault Refusal := s.vectorBits (.vxor x) x fun a b => a ^^^ b
/-- VNOT (R245). -/
def execVnot (x : FA) (s : State) : Host.Outcome State Fault Refusal :=
  s.vectorBits1 (.vnot x) x fun a => 2 ^ x.hd.ty.bits - 1 - a
/-- VSHL (R245). -/
def execVshl (x : FA) (s : State) : Host.Outcome State Fault Refusal := s.vectorBits (.vshl x) x (shiftLeft x.hd.ty)
/-- VSHR (R245). -/
def execVshr (x : FA) (s : State) : Host.Outcome State Fault Refusal := s.vectorBits (.vshr x) x (shiftRight x.hd.ty)
/-- VPOPC (R245). -/
def execVpopc (x : FA) (s : State) : Host.Outcome State Fault Refusal :=
  s.vectorBits1 (.vpopc x) x (popCount x.hd.ty.bits)
/-- VCLZ (R245). -/
def execVclz (x : FA) (s : State) : Host.Outcome State Fault Refusal :=
  s.vectorBits1 (.vclz x) x fun a => x.hd.ty.bits - bitLen a

/-- VCMP (R246). -/
def execVcmp (x : FA) (s : State) : Host.Outcome State Fault Refusal :=
  s.issuePreds (.vcmp x) { useV2 x with dst := none } x.d.toNat fun v =>
    (intCmp x.hd.md.toNat (x.hd.ty.val (v 1)) (x.hd.ty.val (v 2)), 0)

/-- VMOV (R246). -/
def execVmov (x : FA) (s : State) : Host.Outcome State Fault Refusal := s.vectorBits1 (.vmov x) x fun a => a

def useV3 (x : FC) : Use :=
  { rds := [Rd.vs 1 x.a x.hd.ty, Rd.vs 2 x.b x.hd.ty, Rd.vs 3 x.c x.hd.ty], dst := some (Dst.vd x.d x.hd.ty)
    k := x.ext.getD 0 }

/-- VMAD (R246). -/
def execVmad (x : FC) (s : State) : Host.Outcome State Fault Refusal :=
  s.issueLanes (.vmad x) (useV3 x) fun v =>
    intResult x.hd.ty (Head.sat x.hd) (x.hd.ty.val (v 1) * x.hd.ty.val (v 2) + x.hd.ty.val (v 3))

/-- VSEL: the predicate of field C chooses (R246). -/
def execVsel (x : FC) (s : State) : Host.Outcome State Fault Refusal :=
  let u : Use := { useV3 x with rds := [Rd.vs 1 x.a x.hd.ty, Rd.vs 2 x.b x.hd.ty] }
  s.issueOps (.vsel x) u fun w vals s =>
    s.finish w u w.lanes
      (w.lanes.map fun l => (l, if (s.thread (w.wid.thread l)).pred x.c.code.toNat then vals 1 l else vals 2 l)) 0

/-- VBFX (R246, R198). -/
def execVbfx (x : FC) (s : State) : Host.Outcome State Fault Refusal :=
  s.issueLanes (.vbfx x) (useV3 x) fun v => (bitExtract x.hd.ty (v 1) (v 2) (v 3), 0)

/-- A field of b replaced by the low bits of a (R246). -/
def bitInsert (n a b c : Nat) : Nat :=
  let pos := c % 256
  let len := field c 15 8
  if len = 0 ∨ n ≤ pos then b else setField b (pos + min len (n - pos) - 1) pos a

/-- VBFI (R246). -/
def execVbfi (x : FC) (s : State) : Host.Outcome State Fault Refusal :=
  s.issueLanes (.vbfi x) { useV3 x with rds := [Rd.vs 1 x.a x.hd.ty, Rd.vs 2 x.b x.hd.ty, Rd.vs 3 x.c .b32] } fun v =>
    (bitInsert x.hd.ty.bits (v 1) (v 2) (v 3), 0)

end Sys2Proof.Machine
end

