-- ==== Sys2Proof/Machine/Float.lean ====
section
/-! DEFINITION. The floating-point and conversion instructions (spec/07_vector_arithmetic.md R247 to R259). -/

namespace Sys2Proof.Machine

open Sys2Proof

/-! ### Arithmetic (R248 to R253) -/

/-- The rounding mode of `MOD[2:0]` (R241). -/
def Head.mode (h : Head) : RMode := RMode.ofCode (h.md.toNat % 8)

/-- A lane operation on the values of two float operands, delivered once (R247). -/
def State.float2 (s : State) (i : Instr) (x : FA) (f : FVal → FVal → RMode → FVal × Nat) :
    Host.Outcome State Fault Refusal :=
  let fm := x.hd.ty.ffmt
  let mode := Head.mode x.hd
  s.issueLanes i (useV2 x) fun v =>
    let a := fm.value (v 1)
    let b := fm.value (v 2)
    let r := f a b mode
    let d := fm.deliver r.1 mode false 0
    (d.1, r.2 ||| d.2 ||| snanFlag [a, b])

/-- VFADD (R248). -/
def execVfadd (x : FA) (s : State) : Host.Outcome State Fault Refusal := s.float2 (.vfadd x) x fun a b m => a.add b m
/-- VFSUB (R248). -/
def execVfsub (x : FA) (s : State) : Host.Outcome State Fault Refusal := s.float2 (.vfsub x) x fun a b m => a.add b.neg m
/-- VFMUL (R248). -/
def execVfmul (x : FA) (s : State) : Host.Outcome State Fault Refusal := s.float2 (.vfmul x) x fun a b _ => a.mul b

/-- VFMIN (R249). -/
def execVfmin (x : FA) (s : State) : Host.Outcome State Fault Refusal :=
  s.issueLanes (.vfmin x) (useV2 x) fun v => FFmt.minMax x.hd.ty.ffmt false (v 1) (v 2)
/-- VFMAX (R249). -/
def execVfmax (x : FA) (s : State) : Host.Outcome State Fault Refusal :=
  s.issueLanes (.vfmax x) (useV2 x) fun v => FFmt.minMax x.hd.ty.ffmt true (v 1) (v 2)

/-- VFABS (R248). -/
def execVfabs (x : FA) (s : State) : Host.Outcome State Fault Refusal :=
  s.vectorBits1 (.vfabs x) x fun a => a % 2 ^ (x.hd.ty.bits - 1)
/-- VFNEG (R248). -/
def execVfneg (x : FA) (s : State) : Host.Outcome State Fault Refusal :=
  s.vectorBits1 (.vfneg x) x fun a => a ^^^ 2 ^ (x.hd.ty.bits - 1)

/-- VFCMP (R250). -/
def execVfcmp (x : FA) (s : State) : Host.Outcome State Fault Refusal :=
  let fm := x.hd.ty.ffmt
  s.issuePreds (.vfcmp x) { useV2 x with dst := none } x.d.toNat fun v =>
    floatCmp x.hd.md.toNat (fm.value (v 1)) (fm.value (v 2))

/-- The class mask of an encoding (R251). -/
def FFmt.classOf (f : FFmt) (x : Nat) : Nat :=
  let neg := f.signOf x
  let two (a b : Nat) : Nat := 2 ^ (if neg then a else b)
  match f.decodeRaw x with
  | .nan true => 2 ^ 8
  | .nan false => 2 ^ 9
  | .inf _ => two 0 7
  | .fin _ m _ => if m = 0 then two 3 4 else if f.expOf x = 0 then two 2 5 else two 1 6

/-- VFCLASS (R251). -/
def execVfclass (x : FA) (s : State) : Host.Outcome State Fault Refusal :=
  s.issueLanes (.vfclass x) { useV1 x with dst := some (Dst.vd x.d .n32) } fun v => (FFmt.classOf x.hd.ty.ffmt (v 1), 0)

/-- Rounded to an integral value of the format (R252). -/
def FFmt.integral (f : FFmt) (mode : RMode) (x : Nat) : Nat × Nat :=
  match f.value x with
  | .nan q => (f.qnan, flIf q flNV)
  | .inf n => (f.infBits n, 0)
  | .fin neg m e => ((f.deliver (.fin neg (roundUnit neg m e false 0 mode 0).1 0) .rne false 0).1, 0)

/-- VFRND (R252). -/
def execVfrnd (x : FA) (s : State) : Host.Outcome State Fault Refusal :=
  s.issueLanes (.vfrnd x) (useV1 x) fun v => FFmt.integral x.hd.ty.ffmt (Head.mode x.hd) (v 1)

/-- The FMA family (R253). -/
def State.floatFma (s : State) (i : Instr) (x : FC) (negP negC : Bool) : Host.Outcome State Fault Refusal :=
  let fm := x.hd.ty.ffmt
  let mode := Head.mode x.hd
  s.issueLanes i (useV3 x) fun v =>
    let r := (fm.value (v 1)).fma (fm.value (v 2)) (fm.value (v 3)) negP negC mode
    let d := fm.deliver r.1 mode false 0
    (d.1, r.2 ||| d.2)

/-- VFFMA (R253). -/
def execVffma (x : FC) (s : State) : Host.Outcome State Fault Refusal := s.floatFma (.vffma x) x false false
/-- VFFMS (R253). -/
def execVffms (x : FC) (s : State) : Host.Outcome State Fault Refusal := s.floatFma (.vffms x) x false true
/-- VFFNMA (R253). -/
def execVffnma (x : FC) (s : State) : Host.Outcome State Fault Refusal := s.floatFma (.vffnma x) x true false
/-- VFFNMS (R253). -/
def execVffnms (x : FC) (s : State) : Host.Outcome State Fault Refusal := s.floatFma (.vffnms x) x true true

/-! ### Conversions (R254) -/

/-- One element converted (R254). (DEDUCED, log 26.) -/
def convert (dst src : Ty) (mode : RMode) (sat : Bool) (rnd x : Nat) : Nat × Nat :=
  if dst.isFloat then
    let v := if src.isFloat then src.ffmt.value x else .ofInt (src.val x)
    let d := dst.ffmt.deliver v mode sat rnd
    (d.1, d.2 ||| snanFlag [v])
  else if src.isFloat then floatToInt dst (src.ffmt.value x) mode
  else intResult dst sat (src.val x)

/-- VCVT (R254). -/
def execVcvt (x : FC) (s : State) : Host.Outcome State Fault Refusal :=
  let src := Ty.ofCode (x.xmod.extractLsb' 0 4)
  let rs := x.hd.md.toNat % 8 = 4
  let u : Use := { rds := Rd.vs 1 x.a src :: (if rs then [Rd.vs 3 x.c .b32] else []), dst := some (Dst.vd x.d x.hd.ty)
                   k := x.ext.getD 0 }
  s.issueLanes (.vcvt x) u fun v => convert x.hd.ty src (Head.mode x.hd) (x.hd.md.getLsbD 3) (v 3 % 65536) (v 1)

/-! ### Packing (R255, R256, R258) -/

/-- VPACK of two values into one lane (R255). -/
def packPair (t : Ty) (mode : RMode) (sat : Bool) (a b c : Nat) : Nat × Nat :=
  let va := fmtF32.value a
  let vb := fmtF32.value b
  let lo := t.ffmt.deliver va mode sat (c % 65536)
  let hi := t.ffmt.deliver vb mode sat (c / 65536)
  let fl := lo.2 ||| hi.2 ||| snanFlag [va, vb]
  if t.bits = 8 then (lo.1 + 256 * hi.1 + 65536 * (c % 65536), fl) else (lo.1 + 65536 * hi.1, fl)

/-- VPACK (R255). -/
def execVpack (x : FC) (s : State) : Host.Outcome State Fault Refusal :=
  let readC := decide (x.hd.ty.bits = 8) || decide (x.hd.md.toNat % 8 = 4)
  let u : Use := { rds := [Rd.vs 1 x.a .f32, Rd.vs 2 x.b .f32] ++ (if readC then [Rd.vs 3 x.c .b32] else [])
                   dst := some (Dst.vd x.d .b32), k := x.ext.getD 0 }
  s.issueLanes (.vpack x) u fun v => packPair x.hd.ty (Head.mode x.hd) (x.hd.md.getLsbD 3) (v 1) (v 2) (v 3)

/-- Eight FP32 values, the first in the low word, as eight codes and the scale byte above them (R256). -/
def packQ4 (ct a e : Nat) : Nat × Nat :=
  let rs := (List.range 8).map fun j => (j, q4Quantise ct e (fmtF32.value (a / 2 ^ (32 * j) % 2 ^ 32)))
  (rs.foldl (fun n r => n + r.2.1 * 16 ^ r.1) 0 + (ct * 64 + e % 64) * 2 ^ 32, rs.foldl (fun f r => f ||| r.2.2) 0)

/-- VPACK with type 15 (R256). -/
def execVpackQ4 (x : FC) (s : State) : Host.Outcome State Fault Refusal :=
  let u : Use := { rds := [Rd.range 1 x.a 8 true, Rd.vs 3 x.c .b32], dst := some (Dst.range x.d 2 true)
                   k := x.ext.getD 0 }
  s.issueLanes (.vpackQ4 x) u fun v => packQ4 (x.hd.md.toNat % 4) (v 1) (v 3 % 64)

/-- One packed element as FP32 (R258); for the 4-bit form `a` is the pair. -/
def unpackOne (t : Ty) (a i : Nat) : Nat × Nat :=
  let v : FVal :=
    if t = .q4 then q4Value (a / 2 ^ 32 % 256) (a / 16 ^ (i % 8) % 16)
    else if t.bits = 16 then t.ffmt.value (a / 2 ^ (16 * (i % 2)) % 2 ^ 16)
    else t.ffmt.value (a / 2 ^ (8 * (i % 4)) % 2 ^ 8)
  ((fmtF32.deliver v .rne false 0).1, snanFlag [v])

/-- A packed source: all 32 bits of a register's lane or of a ring element, any other value under the type (R63 to R65). (DEDUCED, log 23.) -/
def Rd.packed (opnd : Nat) (x : Src) (t : Ty) : Rd :=
  let r := Rd.vs opnd x t
  match r.op with
  | .vec _ => { r with ty := .b32 }
  | .sca _ => { r with ty := .b32 }
  | .que _ => { r with ty := .b32 }
  | _ => r

/-- VUNPACK (R258). -/
def execVunpack (x : FC) (s : State) : Host.Outcome State Fault Refusal :=
  let ra := if x.hd.ty = .q4 then Rd.range 1 x.a 2 true else Rd.packed 1 x.a x.hd.ty
  let u : Use := { rds := [ra, Rd.vs 2 x.b .n32], dst := some (Dst.vd x.d .f32), k := x.ext.getD 0 }
  s.issueLanes (.vunpack x) u fun v => unpackOne x.hd.ty (v 1) (v 2)

/-- a × 2^k as an exact value; beyond 2^2000 in either direction every scale delivers the same (R259). (DEDUCED, log 25.) -/
def FVal.scale (a : FVal) (k : Int) : FVal :=
  match a with
  | .fin n m e => .fin n m (e + clampI k (-2000) 2000)
  | v => v

/-- VSCL (R259). (DEDUCED, log 25.) -/
def execVscl (x : FC) (s : State) : Host.Outcome State Fault Refusal :=
  let fm := x.hd.ty.ffmt
  let rs := x.hd.md.toNat % 8 = 4
  let u : Use := { rds := [Rd.vs 1 x.a x.hd.ty, Rd.vs 2 x.b .s32] ++ (if rs then [Rd.vs 3 x.c .b32] else [])
                   dst := some (Dst.vd x.d x.hd.ty), k := x.ext.getD 0 }
  s.issueLanes (.vscl x) u fun v =>
    let a := fm.value (v 1)
    let d := fm.deliver (FVal.scale a (sextN (v 2) 32)) (Head.mode x.hd) false (v 3 % 65536)
    (d.1, d.2 ||| snanFlag [a])

end Sys2Proof.Machine
end

