-- ==== Sys2Proof/Machine/Funcs.lean ====
section
/-! DEFINITION. The special functions: exact values by integer arithmetic, enclosed ever more tightly until every value of the enclosure rounds alike (spec/10_vector_lanes.md R320, R321). -/

namespace Sys2Proof.Machine

open Sys2Proof

/-! ### Algebraic functions -/

/-- floor(sqrt(n)) for n below 2^(2k), bit by bit from the top. -/
def isqrtFrom (n : Nat) : Nat → Nat → Nat
  | 0, r => r
  | k + 1, r => isqrtFrom n k (if (r + 2 ^ k) * (r + 2 ^ k) ≤ n then r + 2 ^ k else r)

def isqrt (n : Nat) : Nat := isqrtFrom n (bitLen n / 2 + 1) 0

/-- 1 ÷ (m × 2^e), delivered. (DEDUCED, log 24.) -/
def rcpDeliver (f : FFmt) (mode : RMode) (neg : Bool) (m : Nat) (e : Int) : Nat × Nat :=
  let k := bitLen m + 64
  f.deliverFin neg (2 ^ k / m) (-e - (k : Int)) (decide (2 ^ k % m ≠ 0)) mode false 0

/-- An even exponent for a root: m × 2^e rewritten. -/
def evenExp (m : Nat) (e : Int) : Nat × Int := if e % 2 = 0 then (m, e) else (2 * m, e - 1)

/-- √(m × 2^e), delivered. (DEDUCED, log 24.) -/
def sqrtDeliver (f : FFmt) (mode : RMode) (m : Nat) (e : Int) : Nat × Nat :=
  let p := evenExp m e
  let n := p.1 * 2 ^ 128
  let r := isqrt n
  f.deliverFin false r (p.2 / 2 - 64) (decide (r * r ≠ n)) mode false 0

/-- 1 ÷ √(m × 2^e), delivered. (DEDUCED, log 24.) -/
def rsqDeliver (f : FFmt) (mode : RMode) (m : Nat) (e : Int) : Nat × Nat :=
  let p := evenExp m e
  let t := bitLen p.1 + 64
  let r := isqrt (2 ^ (2 * t) / p.1)
  f.deliverFin false r (-(t : Int) - p.2 / 2) (decide (r * r * p.1 ≠ 2 ^ (2 * t))) mode false 0

/-! ### Series in units of 2^-P -/

/-- Σ of t ÷ (2k + 1) from k, where each t is the one before divided by d, with alternating signs when `alt`. -/
def oddSeries (alt : Bool) (d : Nat) : Nat → Nat → Bool → Nat → Int
  | 0, _, _, _ => 0
  | n + 1, k, neg, t =>
    let x : Int := ((t / (2 * k + 1) : Nat) : Int)
    if t = 0 then 0 else (if neg then -x else x) + oddSeries alt d n (k + 1) (alt && !neg) (t / d)

/-- ln 2 = 2 × atanh(1/3). -/
def ln2Fix (p : Nat) : Int := 2 * oddSeries false 9 p 0 false (2 ^ p / 3)

/-- π ÷ 2 = 8 × atan(1/5) - 2 × atan(1/239). -/
def piHalfFix (p : Nat) : Int :=
  8 * oddSeries true 25 p 0 false (2 ^ p / 5) - 2 * oddSeries true 57121 p 0 false (2 ^ p / 239)

/-- Σ of t ÷ (2k + 1) from k, where each t is the one before times z2. -/
def atanhSeries (p z2 : Nat) : Nat → Nat → Nat → Nat
  | 0, _, _ => 0
  | n + 1, k, t => if t = 0 then 0 else t / (2 * k + 1) + atanhSeries p z2 n (k + 1) (t * z2 / 2 ^ p)

/-- Σ of the terms t, t × x ÷ k, … of an exponential. -/
def expSeries (p : Nat) (x : Int) : Nat → Nat → Int → Int
  | 0, _, _ => 0
  | n + 1, k, t => if t = 0 then 0 else t + expSeries p x n (k + 1) (t * x / (2 : Int) ^ p / (k : Int))

/-- Σ of the terms t, -t × r2 ÷ (k (k + 1)), … of a sine or a cosine. -/
def trigSeries (p : Nat) (r2 : Int) : Nat → Nat → Int → Int
  | 0, _, _ => 0
  | n + 1, k, t =>
    if t = 0 then 0 else t + trigSeries p r2 n (k + 2) (-(t * r2 / (2 : Int) ^ p) / ((k * (k + 1) : Nat) : Int))

/-- m × 2^e in units of 2^-p, floor. -/
def fixOf (m : Nat) (e : Int) (p : Nat) : Nat := m * 2 ^ (e + (p : Int)).toNat / 2 ^ (-(e + (p : Int))).toNat

/-- 2^x for 0 ≤ x < 1, x in units of 2^-p. -/
def exp2Frac (p : Nat) (x : Nat) : Int :=
  let t := (x : Int) * ln2Fix p / (2 : Int) ^ p
  expSeries p t p 1 ((2 : Int) ^ p)

/-- log2(m × 2^e) for m ≥ 1. -/
def log2Fix (p m : Nat) (e : Int) : Int :=
  let n := bitLen m - 1
  let y := fixOf m (-(n : Int)) p
  let z := (y - 2 ^ p) * 2 ^ p / (y + 2 ^ p)
  let ln := 2 * (atanhSeries p (z * z / 2 ^ p) p 0 z : Nat)
  ((n : Int) + e) * (2 : Int) ^ p + (ln : Int) * (2 : Int) ^ p / ln2Fix p

/-- sin or cos of ±m × 2^e: reduced by a multiple of π ÷ 2, then by its series. -/
def trigFix (p : Nat) (cos neg : Bool) (m : Nat) (e : Int) : Int :=
  let w := p + 16 + (e + (bitLen m : Int)).toNat + (-e).toNat
  let x : Int := ((m * 2 ^ (e + (w : Int)).toNat : Nat) : Int)
  let h := piHalfFix w
  let q := (2 * x + h) / (2 * h)
  let r := (x - q * h) / (2 : Int) ^ (w - p)
  let r2 := r * r / (2 : Int) ^ p
  let sin := trigSeries p r2 p 2 r
  let co := trigSeries p r2 p 1 ((2 : Int) ^ p)
  let k := ((if cos then q + 1 else q) % 4).toNat
  let v := nth 0 [sin, co, -sin, -co] k
  if neg && !cos then -v else v

/-- tanh(m × 2^e) for 0 < m × 2^e < 64. -/
def tanhFix (p m : Nat) (e : Int) : Int :=
  let t := 2 * fixOf m e p
  let l := ln2Fix p
  let n := ((t : Int) / l).toNat
  let g := ((n : Int) + 1) * l - (t : Int)
  let ex := expSeries p g p 1 ((2 : Int) ^ p) / (2 : Int) ^ (n + 1)
  ((2 : Int) ^ p - ex) * (2 : Int) ^ p / ((2 : Int) ^ p + ex)

/-! ### Rounding an enclosed value -/

/-- The error bound of the values above, in units of 2^-P, for P up to 4096. -/
def fixErr : Int := 2 ^ 20

/-- Deliver a value that lies strictly within `fixErr` units of v × 2^-p and is no multiple of 2^-p, when the enclosure
decides it. (DEDUCED, log 24.) -/
def enclosed (f : FFmt) (mode : RMode) (p : Nat) (e : Int) (v : Int) : Option (Nat × Nat) :=
  let neg := decide (v < 0)
  let a := v.natAbs
  if (a : Int) ≤ fixErr then none
  else
    let lo := f.deliverFin neg (a - fixErr.toNat) (e - (p : Int)) true mode false 0
    let hi := f.deliverFin neg (a + fixErr.toNat - 1) (e - (p : Int)) true mode false 0
    if lo = hi then some lo else none

/-- Try precisions p, 2p, 4p, …; the last one's value stands when none decides. (DEDUCED, log 24.) -/
def refine (f : FFmt) (mode : RMode) (e : Int) (g : Nat → Int) : Nat → Nat → Nat × Nat
  | 0, p => f.deliverFin (decide (g p < 0)) (g p).natAbs (e - (p : Int)) true mode false 0
  | n + 1, p =>
    match enclosed f mode p e (g p) with
    | some r => r
    | none => refine f mode e g n (2 * p)

/-- The transcendental functions at a value that is not exact. (DEDUCED, log 24.) -/
def refineAt (f : FFmt) (mode : RMode) (e : Int) (g : Nat → Int) : Nat × Nat := refine f mode e g 5 128

/-! ### The functions of R320, by `FN` -/

inductive Fun1 where
  | rcp | rsq | sqrt | exp2 | log2 | sin | cos | tanh
deriving DecidableEq, Repr

/-- The result of an infinite operand (R321). -/
def Fun1.atInf (g : Fun1) (f : FFmt) (mode : RMode) (neg : Bool) : Nat × Nat :=
  let one (n : Bool) := f.deliver (.fin n 1 0) mode false 0
  match g, neg with
  | .rcp, n => (f.signBit n, 0)
  | .rsq, false => (0, 0)
  | .sqrt, false => (f.infBits false, 0)
  | .exp2, true => (0, 0)
  | .exp2, false => (f.infBits false, 0)
  | .log2, false => (f.infBits false, 0)
  | .tanh, n => one n
  | _, _ => (f.qnan, flNV)

/-- The result of a zero operand (R321). -/
def Fun1.atZero (g : Fun1) (f : FFmt) (mode : RMode) (neg : Bool) : Nat × Nat :=
  let one := f.deliver (.fin false 1 0) mode false 0
  match g with
  | .rcp => (f.infBits neg, flDZ)
  | .rsq => (f.infBits neg, flDZ)
  | .sqrt => (f.signBit neg, 0)
  | .exp2 => one
  | .log2 => (f.infBits true, flDZ)
  | .sin => (f.signBit neg, 0)
  | .cos => one
  | .tanh => (f.signBit neg, 0)

/-- 2^(±m × 2^e). (DEDUCED, log 24.) -/
def exp2Deliver (f : FFmt) (mode : RMode) (neg : Bool) (m : Nat) (e : Int) : Nat × Nat :=
  if e + (bitLen m : Int) > 12 then f.deliverFin false 1 (if neg then -4000 else 4000) true mode false 0
  else
    let k := (-e).toNat
    let x : Int := if neg then -((m * 2 ^ e.toNat : Nat) : Int) else ((m * 2 ^ e.toNat : Nat) : Int)
    let n := x / (2 : Int) ^ k
    let fr := (x % (2 : Int) ^ k).toNat
    if fr = 0 then f.deliverFin false 1 n false mode false 0
    else refineAt f mode n fun p => exp2Frac (p + k) (fr * 2 ^ p) / (2 : Int) ^ k

/-- The result of a finite operand that is not zero (R320, R321). -/
def Fun1.atFin (g : Fun1) (f : FFmt) (mode : RMode) (neg : Bool) (m : Nat) (e : Int) : Nat × Nat :=
  match g with
  | .rcp => rcpDeliver f mode neg m e
  | .rsq => if neg then (f.qnan, flNV) else rsqDeliver f mode m e
  | .sqrt => if neg then (f.qnan, flNV) else sqrtDeliver f mode m e
  | .exp2 => exp2Deliver f mode neg m e
  | .log2 =>
    if neg then (f.qnan, flNV)
    else if m = 2 ^ (bitLen m - 1) then f.deliver (.ofInt ((bitLen m : Int) - 1 + e)) mode false 0
    else refineAt f mode 0 fun p => log2Fix p m e
  | .sin => refineAt f mode 0 fun p => trigFix p false neg m e
  | .cos => refineAt f mode 0 fun p => trigFix p true neg m e
  | .tanh =>
    if e + (bitLen m : Int) > 6 then f.deliverFin neg (2 ^ 80 - 1) (-80) true mode false 0
    else refineAt f mode 0 fun p => if neg then -tanhFix p m e else tanhFix p m e

/-- A special function of an operand (R320, R321). (DEDUCED, log 24.) -/
def Fun1.eval (g : Fun1) (f : FFmt) (mode : RMode) (x : Nat) : Nat × Nat :=
  match f.value x with
  | .nan q => (f.qnan, flIf q flNV)
  | .inf n => g.atInf f mode n
  | .fin n m e => if m = 0 then g.atZero f mode n else g.atFin f mode n m e

def State.special1 (s : State) (i : Instr) (x : FA) (g : Fun1) : Host.Outcome State Fault Refusal :=
  s.issueLanes i (useV1 x) fun v => g.eval x.hd.ty.ffmt (Head.mode x.hd) (v 1)

/-- VRCP (R320). -/
def execVrcp (x : FA) (s : State) : Host.Outcome State Fault Refusal := s.special1 (.vrcp x) x .rcp
/-- VRSQ (R320). -/
def execVrsq (x : FA) (s : State) : Host.Outcome State Fault Refusal := s.special1 (.vrsq x) x .rsq
/-- VSQRT (R320). -/
def execVsqrt (x : FA) (s : State) : Host.Outcome State Fault Refusal := s.special1 (.vsqrt x) x .sqrt
/-- VEXP2 (R320). -/
def execVexp2 (x : FA) (s : State) : Host.Outcome State Fault Refusal := s.special1 (.vexp2 x) x .exp2
/-- VLOG2 (R320). -/
def execVlog2 (x : FA) (s : State) : Host.Outcome State Fault Refusal := s.special1 (.vlog2 x) x .log2
/-- VSIN (R320). -/
def execVsin (x : FA) (s : State) : Host.Outcome State Fault Refusal := s.special1 (.vsin x) x .sin
/-- VCOS (R320). -/
def execVcos (x : FA) (s : State) : Host.Outcome State Fault Refusal := s.special1 (.vcos x) x .cos
/-- VTANH (R320). -/
def execVtanh (x : FA) (s : State) : Host.Outcome State Fault Refusal := s.special1 (.vtanh x) x .tanh

end Sys2Proof.Machine
end

