-- ==== Sys2Proof/Machine/Lanes.lean ====
section
/-! DEFINITION. Cross-lane instructions, the activation table, top-k and the hash (spec/10_vector_lanes.md R312 to R330). -/

namespace Sys2Proof.Machine

open Sys2Proof

/-! ### Exchanges (R312 to R314) -/

/-- The distance in field `B`, or of the register form (R313). -/
def distance (h : Head) (b : Src) (reg : Nat) : Nat :=
  if h.md.getLsbD 5 then reg % Config.waveWidth
  else if b.code.getLsbD 8 then Config.waveWidth / 2 ^ (b.code.toNat % 8)
  else b.code.toNat % 128

/-- The value of source A in a lane. A lane that pops nothing has no element: the spec states no value for it, so it is a
free value. (DESIGN CHOICE, log 3.) -/
def State.exchangeValue (s : State) (x : Iss) (a : Src) (vals : Nat → Nat → Nat) (lane : Nat) : Nat :=
  match Operand.ofCode a.code with
  | .que _ => if x.lanes.contains lane then vals 1 lane else (Config.freeValue (s.free + lane)).toNat % 2 ^ 32
  | _ => vals 1 lane

/-- An exchange: lane l takes A of lane `src l`, its own when there is none (R314). (DESIGN CHOICE, log 3.) -/
def State.exchange (s : State) (i : Instr) (x : FA) (rb : List Rd) (src : (Nat → Nat → Nat) → Nat → Option Nat) :
    Host.Outcome State Fault Refusal :=
  let u : Use := { rds := Rd.vs 1 x.a x.hd.ty :: rb, dst := some (Dst.vd x.d x.hd.ty), k := x.ext.getD 0 }
  s.issueOps i u fun w vals s =>
    let out := w.lanes.map fun l => (l, s.exchangeValue w x.a vals ((src vals l).getD l))
    let n := match Operand.ofCode x.a.code with
      | .que _ => Config.waveWidth
      | _ => 0
    State.finish { s with free := s.free + n } w u w.lanes out 0

/-- The register of a distance, when `MOD[5]` asks for one. (DEDUCED, log 23.) -/
def distRd (x : FA) : List Rd := if x.hd.md.getLsbD 5 then [Rd.ss 2 x.b .n32] else []

/-- LXOR (R314). -/
def execLxor (x : FA) (s : State) : Host.Outcome State Fault Refusal :=
  s.exchange (.lxor x) x (distRd x) fun v l => some (l ^^^ distance x.hd x.b (v 2 l))

/-- The source lane of LSHF (R314). -/
def shiftLane (up rot : Bool) (l h : Nat) : Option Nat :=
  let j : Int := if up then (l : Int) - (h : Int) else (l : Int) + (h : Int)
  if rot then some (j % (Config.waveWidth : Int)).toNat
  else if 0 ≤ j ∧ j < (Config.waveWidth : Int) then some j.toNat
  else none

/-- LSHF (R314). -/
def execLshf (x : FA) (s : State) : Host.Outcome State Fault Refusal :=
  s.exchange (.lshf x) x (distRd x) fun v l =>
    shiftLane (x.hd.md.getLsbD 0) (x.hd.md.getLsbD 1) l (distance x.hd x.b (v 2 l))

/-- LPERM (R314). -/
def execLperm (x : FA) (s : State) : Host.Outcome State Fault Refusal :=
  s.exchange (.lperm x) x [Rd.vs 2 x.b .n32] fun v l => some (v 2 l % Config.waveWidth)

/-- LBC (R314). -/
def execLbc (x : FA) (s : State) : Host.Outcome State Fault Refusal :=
  s.exchange (.lbc x) x [Rd.ss 2 x.b .n32] fun v l => some (v 2 l % Config.waveWidth)

/-! ### Reductions, scans and votes (R315 to R318) -/

/-- The combination of an op at a type, with its flags (R315). -/
def combine (op : Nat) (t : Ty) (x y : Nat) : Nat × Nat :=
  let a := t.val x
  let b := t.val y
  match op, t.isFloat with
  | 0, true =>
    let va := fmtF32.value x
    let vb := fmtF32.value y
    let r := va.add vb .rne
    let d := fmtF32.deliver r.1 .rne false 0
    (d.1, r.2 ||| d.2 ||| snanFlag [va, vb])
  | 1, true => FFmt.minMax fmtF32 false x y
  | 2, true => FFmt.minMax fmtF32 true x y
  | 0, _ => (truncI (a + b) t.bits, 0)
  | 1, _ => (if a ≤ b then x else y, 0)
  | 2, _ => (if b ≤ a then x else y, 0)
  | 3, _ => (x &&& y, 0)
  | 4, _ => (x ||| y, 0)
  | _, _ => (x ^^^ y, 0)

/-- The identity of an op at a type (R315). -/
def identityOf (op : Nat) (t : Ty) : Nat :=
  match op, t.isFloat with
  | 0, true => 0x80000000
  | _, true => 0x7FC00000
  | 1, _ => truncI t.hi t.bits
  | 2, _ => truncI t.lo t.bits
  | 3, _ => 2 ^ t.bits - 1
  | _, _ => 0

/-- Combine lists element by element. -/
def zipCombine (op : Nat) (t : Ty) : List Nat → List Nat → List Nat × Nat
  | x :: xs, y :: ys =>
    let r := combine op t x y
    let rest := zipCombine op t xs ys
    (r.1 :: rest.1, r.2 ||| rest.2)
  | _, _ => ([], 0)

/-- LRED on 2^n values: the halves combined, n times (R316). -/
def reduceList (op : Nat) (t : Ty) : Nat → List Nat → Nat × Nat
  | 0, v => (nth 0 v 0, 0)
  | n + 1, v =>
    let r := zipCombine op t (v.take (2 ^ n)) (v.drop (2 ^ n))
    let rest := reduceList op t n r.1
    (rest.1, r.2 ||| rest.2)

/-- LSCAN: steps of distance h, 2h, … (R317). -/
def scanList (op : Nat) (t : Ty) : Nat → Nat → List Nat → List Nat × Nat
  | 0, _, v => (v, 0)
  | n + 1, h, v =>
    let r := zipCombine op t v (v.drop h)
    let rest := scanList op t n (2 * h) (v.take h ++ r.1)
    (rest.1, r.2 ||| rest.2)

/-- The values of all lanes, the identity in those that do not take part. -/
def laneValues (x : Iss) (id_ : Nat) (vals : Nat → Nat → Nat) : List Nat :=
  (List.range Config.waveWidth).map fun l => if x.lanes.contains l then vals 1 l else id_

/-- LRED (R316). -/
def execLred (x : FA) (s : State) : Host.Outcome State Fault Refusal :=
  let op := x.hd.md.toNat % 16
  let u := useV1 x
  s.issueOps (.lred x) u fun w vals s =>
    let r := reduceList op x.hd.ty 6 (laneValues w (identityOf op x.hd.ty) vals)
    s.finish w u w.lanes (w.lanes.map fun l => (l, r.1)) r.2

/-- LSCAN (R317). -/
def execLscan (x : FA) (s : State) : Host.Outcome State Fault Refusal :=
  let op := x.hd.md.toNat % 16
  let id_ := identityOf op x.hd.ty
  let u := useV1 x
  s.issueOps (.lscan x) u fun w vals s =>
    let r := scanList op x.hd.ty 6 1 (laneValues w id_ vals)
    let at_ (l : Nat) : Nat :=
      if x.hd.md.getLsbD 4 then (if l = 0 then id_ else nth 0 r.1 (l - 1)) else nth 0 r.1 l
    s.finish w u w.lanes (w.lanes.map fun l => (l, at_ l)) r.2

/-- LVOTE (R318). -/
def execLvote (x : FA) (s : State) : Host.Outcome State Fault Refusal :=
  let mode := x.hd.md.toNat % 4
  let u : Use := { rds := [], dst := if mode = 3 then some (Dst.vd x.d .n32) else none, k := 0 }
  s.issueOps (.lvote x) u fun w _ s =>
    let ps := w.lanes.map fun l => (s.thread (w.wid.thread l)).pred x.a.code.toNat
    let r : Bool := match mode with
      | 0 => ps.any id
      | 1 => ps.all id
      | _ => ps.all id || !ps.any id
    let n := (ps.filter id).length
    let s := if mode = 3 then s else s.setPreds w.wid x.d.toNat (w.lanes.map fun l => (l, r))
    s.finish w u w.lanes (w.lanes.map fun l => (l, n)) 0

/-! ### Activation (R322, R324, R325) -/

/-- A 32-bit field of a bank. (DEDUCED, log 27.) -/
def Bank.word (b : Bank) (off : Nat) : Nat := ofBytes ((rangeFrom off 4).map fun i => mget 0 b.bytes i)

/-- A bank without bytes is zero (R322). -/
def Bank.zero : Bank := { bytes := [], loading := none }

/-- floor(m × 2^e × 2^k), or 256 when it is 256 or more. -/
def segmentOf (m : Nat) (e k : Int) : Nat :=
  let p := e + k
  if m = 0 then 0
  else if p > 8 then 256
  else if 0 ≤ p then min 256 (m * 2 ^ p.toNat)
  else if (bitLen m : Int) < -p then 0
  else min 256 (m / 2 ^ (-p).toNat)

/-- The segment of an operand, none below `LO` (R324). -/
def Bank.segment (b : Bank) (x : FVal) : Option Nat :=
  match fmtF32.decodeRaw (b.word 0), x with
  | .fin n m e, .fin n' m' e' =>
    match (FVal.fin n' m' e').add (.fin (!n) m e) .rne with
    | (.fin neg d q, _) => if neg && decide (d ≠ 0) then none else some (segmentOf d q (sextN (b.word 4) 32))
    | _ => none
  | .fin _ _ _, .inf false => some 256
  | _, _ => none

/-- An operand that is no signalling NaN: R324 names NV for a signalling x alone. (DEDUCED, log 27.) -/
def FVal.quieted (v : FVal) : FVal := if v.isSnan then .nan false else v

/-- VACT of one lane (R324). (DEDUCED, log 27.) -/
def Bank.eval (b : Bank) (t : Ty) (mode : RMode) (x : Nat) : Nat × Nat :=
  let f := t.ffmt
  let v := f.value x
  if v.isNan then (f.qnan, snanFlag [v])
  else
    let y : FVal × Nat :=
      match b.segment v with
      | none => (fmtF32.decodeRaw (b.word 8), 0)
      | some n =>
        if 256 ≤ n then (fmtF32.decodeRaw (b.word 12), 0)
        else
          let c (k : Nat) := (fmtF32.decodeRaw (b.word (16 + 16 * n + 4 * k))).quieted
          let u1 := (c 2).fma v (c 1) false false .rne
          let u := fmtF32.deliver u1.1 .rne false 0
          let y := (fmtF32.decodeRaw u.1).fma v (c 0) false false mode
          (y.1, u1.2 ||| u.2 ||| y.2)
    let d := f.deliver y.1 mode false 0
    (d.1, y.2 ||| d.2)

/-- VACT; it waits while a load of its bank is accepted and not installed (R324, R325). (DEDUCED, log 27.) -/
def execVact (x : FA) (s : State) : Host.Outcome State Fault Refusal :=
  let n := if x.hd.md.getLsbD 3 then 1 else 0
  let u := useV1 x
  s.issueOps (.vact x) u fun w vals s =>
    let b := mget Bank.zero (s.blk w.wid.blk).banks n
    if b.loading.isSome then .wait (.onBank n) w.members id
    else
      let rs := w.lanes.map fun l => (l, b.eval x.hd.ty (Head.mode x.hd) (vals 1 l))
      s.finish w u w.lanes (rs.map fun r => (r.1, r.2.1)) (rs.foldl (fun a r => a ||| r.2.2) 0)

/-! ### Top-k and the hash (R327 to R330) -/

/-- A score of a list is not a NaN and stands before the candidate (R328). -/
def scoreBefore (t : Ty) (sj ij s i : Nat) : Bool :=
  if t.isFloat then
    let a := fmtF32.value sj
    let b := fmtF32.value s
    !a.isNan && (a.cmp b == .gt || (a.cmp b == .eq && Nat.ble ij i))
  else
    let a := t.val sj
    let b := t.val s
    decide (b < a) || (decide (a = b) && Nat.ble ij i)

/-- Insert an element at a place of a list, whose last element falls off. -/
def insertAt (p v : Nat) (l : List Nat) : List Nat := (l.take p ++ v :: l.drop p).take l.length

/-- The lists after a candidate, with the number of entries before it (R328). -/
def topkInsert (t : Ty) (ss is : List Nat) (s i : Nat) : Nat × List Nat × List Nat :=
  let p := ((List.range ss.length).filter fun j => scoreBefore t (nth 0 ss j) (nth 0 is j) s i).length
  (p, insertAt p s ss, insertAt p i is)

/-- VTOPK of one lane: the register offsets it writes with their values, and flags (R328). -/
def topkLane (t : Ty) (k : Nat) (list : List Nat) (s i : Nat) : List (Nat × Nat) × Nat :=
  let nan := t.isFloat && (fmtF32.value s).isNan
  if nan then ([], snanFlag [fmtF32.value s])
  else
    let r := topkInsert t (list.take k) (list.drop k) s i
    let js := (List.range k).filter fun j => Nat.ble r.1 j
    (js.map (fun j => (j, nth 0 r.2.1 j)) ++ js.map (fun j => (k + j, nth 0 r.2.2 j)), 0)

/-- A plain source of the list registers. -/
def Rd.list (d : BitVec 10) (n : Nat) : Rd :=
  { opnd := 0, op := Operand.ofCode d, last := false, tie := false, ty := .b32, n := n, each := true }

/-- VTOPK (R327, R328). -/
def execVtopk (x : FC) (s : State) : Host.Outcome State Fault Refusal :=
  let k := x.hd.md.toNat % 8 + 1
  let u : Use := { rds := [Rd.vs 1 x.a x.hd.ty, Rd.vs 2 x.b .n32, Rd.list x.d (2 * k)], dst := none, k := x.ext.getD 0 }
  s.issueOps (.vtopk x) u fun w vals s =>
    let rs := w.lanes.map fun l =>
      (l, topkLane x.hd.ty k ((List.range (2 * k)).map fun j => vals 0 l / 2 ^ (32 * j) % 2 ^ 32) (vals 1 l) (vals 2 l))
    let fl := rs.foldl (fun a r => a ||| r.2.2) 0
    let writes := (List.range (2 * k)).map fun j =>
      (x.d.toNat + j, rs.filterMap fun r => (mfind r.2.1 j).map fun v => (r.1, v))
    let new := writes.filter fun p => !p.2.isEmpty
    s.withRows w u (new.map fun p => (0, p.1)) fun s =>
      let s := (s.takePops w u w.lanes.length).clearLast w u w.lanes
      let s := new.foldl (fun s p =>
        if u.pops then
          s.startProducer w .pop { op := .vec p.1, ty := .b32, n := 1, each := true, codes := [p.1] } fl 0
            (p.2.map fun q => (q.1, LaneSrc.known q.2))
        else s.writeRegs w.wid .b32 1 p.1 p.2) s
      let s := if u.pops && !new.isEmpty then s else s.orFstat w.wid (BitVec.ofNat 32 fl)
      .done (s.updWave w.wid Wave.freeRows)

def rotl32 (x k : Nat) : Nat := x * 2 ^ k % 2 ^ 32 + x / 2 ^ (32 - k)

/-- Rounds i, i + 1, … of the hash (R330). -/
def hashRounds : Nat → Nat → Nat → Nat → Nat → Nat × Nat × Nat
  | 0, _, x, y, z => (x, y, z)
  | n + 1, i, x, y, z =>
    let x := (x + (y ^^^ rotl32 z 5)) % 2 ^ 32
    let x := x * 0x8B6F2D35 % 2 ^ 32
    let y := y ^^^ (x / 2 ^ 15)
    let y := y * 0xC1E47A93 % 2 ^ 32
    let z := (z + rotl32 x 17 + i) % 2 ^ 32
    hashRounds n (i + 1) x y z

/-- `vrng_hash` (R330). -/
def vrngHash (a b c : Nat) : Nat :=
  let y := (b + 0x1F8B4D27) % 2 ^ 32
  let r := hashRounds 4 0 (a ^^^ 0x6C3A95E1) y (c ^^^ rotl32 y 9)
  r.1 ^^^ r.2.1 ^^^ (r.2.2 / 2 ^ 11)

/-- VRNG (R329). -/
def execVrng (x : FC) (s : State) : Host.Outcome State Fault Refusal :=
  s.issueLanes (.vrng x)
    { rds := [Rd.vs 1 x.a .n32, Rd.vs 2 x.b .n32, Rd.vs 3 x.c .n32], dst := some (Dst.vd x.d .n32), k := x.ext.getD 0 }
    fun v => (vrngHash (v 1) (v 2) (v 3), 0)

end Sys2Proof.Machine
end

