-- ==== Sys2Proof/Machine/Memory.lean ====
section
/-! DEFINITION. The memory engine: tensor records, loads, stores, core atomics, record instructions, the tag table, COMMIT, ABORT and FENCE (spec/08_memory_engine.md), and ATLD (spec/10_vector_lanes.md R323). -/

namespace Sys2Proof.Machine

open Sys2Proof

/-! ### Tensor records (R263, R264) -/

def State.record (s : State) (b t : Nat) : BitVec 256 := mget 0 (s.blk b).recs t

def recBase (r : BitVec 256) : Nat := bits r 255 192
def recAux (r : BitVec 256) : Nat := bits r 191 144
def recStr2 (r : BitVec 256) : Nat := bits r 143 116
def recStr1 (r : BitVec 256) : Nat := bits r 115 88
def recExt2 (r : BitVec 256) : Nat := bits r 87 72
def recExt1 (r : BitVec 256) : Nat := bits r 71 40
def recExt0 (r : BitVec 256) : Nat := bits r 39 16
def recDscope (r : BitVec 256) : Nat := bits r 11 9
def recCpol (r : BitVec 256) : Nat := bits r 8 7
def recStrict (r : BitVec 256) : Bool := r.getLsbD 6
def recBmode (r : BitVec 256) : Nat := bits r 5 4
def recFmt (r : BitVec 256) : Ty := Ty.ofCode (BitVec.ofNat 4 (bits r 3 0))

/-- The record is invalid (R264). -/
def recInvalid (r : BitVec 256) : Bool :=
  decide (bits r 15 12 ≠ 0 ∨ recExt0 r = 0 ∨ recExt1 r = 0 ∨ recExt2 r = 0 ∨ 6 ≤ recDscope r
    ∨ (recBmode r = 3 ∧ recAux r = 0))

/-- Bytes of an element; 0 for the 4-bit family, whose elements take half a byte (R263). -/
def elemBytes (t : Ty) : Nat := if t = .q4 then 0 else t.bits / 8

/-- The scope and the hint of an instruction that names a record (R56, R276). -/
def scopeOf (sc : BitVec 3) (r : BitVec 256) : Nat := if sc = 7 then recDscope r else sc.toNat
def hintOf (h : BitVec 2) (r : BitVec 256) : Nat := if h = 0 then recCpol r else h.toNat

/-! ### Element addresses (R265, R266) -/

/-- What an element index gives: out of bounds under the bounds mode, a fault without an address, or an address. -/
inductive Elem where
  | out
  | fault (c : Cause) (sub : Nat)
  | at_ (ga : Nat)
deriving DecidableEq, Repr

/-- `ba` of an element at byte offset `ofs` from `BASE`: the sum must stay in the address field (R265). -/
def baseAddr (base : Nat) (ofs : Int) : Elem :=
  let w := if base.testBit 63 then 40 else 56
  let sum := ((base % 2 ^ w : Nat) : Int) + ofs
  if sum < 0 ∨ (2 : Int) ^ w ≤ sum then .fault .prot 4 else .at_ (base / 2 ^ w * 2 ^ w + sum.toNat)

/-- Coordinates x, y, z of an element index. -/
def coords (r : BitVec 256) (i : Int) : Int × Int × Int :=
  let q := i / (recExt0 r : Int)
  (i % (recExt0 r : Int), q % (recExt1 r : Int), q / (recExt1 r : Int))

/-- The element of an index, of `es` bytes (R265, R266). -/
def elementAt (r : BitVec 256) (rows es : Nat) (i : Int) : Elem :=
  let c := coords r i
  let inb := decide (0 ≤ i ∧ c.2.2 < recExt2 r ∧ c.2.1 < rows)
  if !inb && decide (recBmode r = 2) then .fault .bound 0
  else if !inb && decide (recBmode r ≠ 0) then .out
  else baseAddr (recBase r) (c.1 * es + 16 * (c.2.1 * recStr1 r + c.2.2 * recStr2 r))

/-- Lanes one after another until one faults: the results of the completed lanes, and the trap (R176). -/
structure LaneRun (β : Type) where
  vals : List (Nat × β)
  trap : Option Trap
  s : State

/-- (DESIGN CHOICE, log 12.) -/
def runLanes {β : Type} (f : Nat → State → Except Trap (β × State)) : List Nat → State → LaneRun β
  | [], s => { vals := [], trap := none, s := s }
  | l :: t, s =>
    match f l s with
    | .error tr => { vals := [], trap := some tr, s := s }
    | .ok (v, s') =>
      let r := runLanes f t s'
      { r with vals := (l, v) :: r.vals }

/-- A trap that strikes before any lane, at the lowest participating lane (R264, R267, R277). -/
def Iss.firstTrap (x : Iss) (c : Cause) (sub acc addr src : Nat) : Trap :=
  { Trap.lane_ c sub acc addr (nth 0 x.lanes 0) with src := src }

/-! ### The count (R267) -/

/-- The rows of a record for one execution: with the state in which `OVF` stands, or a trap. -/
inductive RowsRead where
  | ok (rows : Nat) (s : State)
  | bad (c : Cause) (sub addr : Nat) (s : State)

/-- Set `OVF` of a record (R268). -/
def State.setOvf (s : State) (b t : Nat) : State :=
  s.updBlk b fun x => { x with recStat := mput x.recStat t (mget 0 x.recStat t ||| 1) }

/-- Read the count of record `t`, at home, in count mode (R267); the race detector sees the read (R123), of a kind of R124. -/
def State.readRows (s : State) (w : WaveId) (t kind : Nat) (r : BitVec 256) : RowsRead :=
  if recBmode r ≠ 3 then .ok (recExt1 r) s
  else
    let va := recAux r * 8 % 2 ^ 56
    let ga := (pcOf va).toNat
    match s.translate (s.blk w.blk).ctx va ga .load with
    | .error f => .bad f.cause f.sub f.addr s
    | .ok p =>
      match s.raceCheck w p kind ga with
      | .race => .bad .race 0 ga s
      | .ok s =>
        let count := s.homeNat p.loc 4
        if recExt1 r < count then
          if recStrict r then .bad .bound 1 0 (s.setOvf w.blk t) else .ok (recExt1 r) (s.setOvf w.blk t)
        else .ok count s

/-- What a record's checks give before any lane (R277): the rows, or a trap. -/
inductive RecOut where
  | ok (rows : Nat) (s : State)
  | bad (tr : Trap) (s : State)

/-- The checks of a record that a thread access names. -/
def State.openRecord (s : State) (x : Iss) (t : Nat) (r : BitVec 256) (ty : Ty) (a : Acc) : RecOut :=
  if recInvalid r then .bad (x.firstTrap .bound 3 a.code 0 0) s
  else if elemBytes (recFmt r) ≠ elemBytes ty then .bad (x.firstTrap .bound 2 a.code 0 0) s
  else
    match s.readRows x.wid t 0 r with
    | .ok rows s => .ok rows s
    | .bad c sub addr s =>
      .bad (x.firstTrap c sub (if c = .bound then a.code else Acc.code .load) addr 3) s

/-! ### One lane of an access -/

/-- The place of a lane's element: none when it is out of bounds; alignment, translation and the race detector may trap. -/
def State.access (s : State) (w : WaveId) (a : Acc) (kind size l : Nat) (e : Elem) : Except Trap (Option Place × State) :=
  match e with
  | .out => .ok (none, s)
  | .fault c sub => .error (Trap.lane_ c sub a.code 0 l)
  | .at_ ga =>
    let eff := s.effGa (w.thread l) ga
    if ga % size ≠ 0 then .error (Trap.lane_ .bound 4 a.code eff l)
    else
      match s.resolve (w.thread l) ga a with
      | .error f => .error (Trap.lane_ f.cause f.sub a.code f.addr l)
      | .ok p =>
        match s.raceCheck w p kind eff with
        | .race => .error (Trap.lane_ .race 0 a.code eff l)
        | .ok s => .ok (some p, s)

/-- The bytes of an access, least significant first. -/
def Loc.span (l : Loc) (n : Nat) : List Loc := (List.range n).map l.plus

/-- A location of home memory of this package, so that its load is long-latency (R277). -/
def Loc.isGlob (l : Loc) : Bool := decide (l.sp = .glob)

/-- The index of a lane: its register value as `.n32` and the signed offset (R265). -/
def laneIndex (vals : Nat → Nat → Nat) (ofs : Word) (l : Nat) : Int := ((vals 1 l : Nat) : Int) + sextN ofs.toNat 32

/-- The address of a lane of LDG or STS (R278). -/
def laneAddr (vals : Nat → Nat → Nat) (ofs : Word) (l : Nat) : Nat :=
  truncI (((vals 1 l : Nat) : Int) + sextN ofs.toNat 32) 64

/-! ### Results of long-latency producers (R28, R364) -/

/-- The known value of a lane. -/
def LaneSrc.value : LaneSrc → Option Nat
  | .known v => some v
  | _ => none

/-- Finish an instruction whose completed lanes have these results: a long-latency producer, or a write at once. A push has made its
commit before the lanes (State.pushLanes). (DEDUCED, log 21, 22, 28.) -/
def State.finishLong (s : State) (x : Iss) (u : Use) (kind : ProdKind) (long : Bool) (hint : Nat)
    (vals : List (Nat × LaneSrc)) : WOut :=
  let done := vals.map (·.1)
  let s1 := (s.takePops x u done.length).clearLast x u done
  let free (s : State) : State := s.updWave x.wid Wave.freeRows
  match u.dst with
  | none => .done ((free s1).holdPops x u (s1.popArrival x 0))
  | some d =>
    if vals.isEmpty then .done (free s1)
    else
      match d.op with
      | .que q =>
        let some_ := vals.take (elemCount d.each vals.length)
        let later : Producer := { s1.popArrival x 0 with kind := kind, ty := d.ty, lanes := vals, hint := hint }
        if vals.all fun p => p.2.value.isSome then
          if u.pops then
            let r := s1.push x q (some_.map fun _ => none)
            .done ((free r.2).holdPops x u { later with kind := .pop, elems := elemNums r.1 (some_.map (·.1)) })
          else
            .done (free (s1.push x q (some_.map fun p => p.2.value.map fun v => BitVec.ofNat 32 (d.ty.extend v))).2)
        else
          let r := s1.push x q (some_.map fun p => if u.pops then none else p.2.value.map fun v => BitVec.ofNat 32 (d.ty.extend v))
          let s := r.2.addProducer { later with elems := elemNums r.1 (some_.map (·.1)) }
          .done ((free s).holdPops x u (s.popArrival x 0))
      | _ =>
        if long || u.pops then .done (free (s1.startProducer x kind d 0 hint vals))
        else
          .done (free (s1.writeRegs x.wid d.ty d.n (nth 0 d.codes 0)
            (vals.map fun p => (p.1, p.2.value.getD 0))))

/-- The lanes of a memory instruction one after another, after the commit of a push of their results (R364): when that finds no room
nothing is done, and when no lane completes it is not made. -/
def State.pushLanes {β : Type} (s : State) (x : Iss) (u : Use) (f : Nat → State → Except Trap (β × State)) : LaneRun β :=
  match s.commitPush x u with
  | none => { vals := [], trap := some (wbovf x 0), s := s }
  | some s' =>
    let r := runLanes f x.lanes s'
    if r.vals.isEmpty then { r with s := s } else r

/-- A trap after the completed lanes' effects (R176). -/
def WOut.thenTrap (o : WOut) (tr : Option Trap) : WOut :=
  match o, tr with
  | .done s, some t => .trap t s
  | o, _ => o

/-! ### Loads (R277, R278) -/

/-- One lane of a load: when it is read, and from where. An acquire reads at once, at its scope or wider (R110). (DEDUCED, log 28.) -/
def State.loadLane (s : State) (w : WaveId) (ty : Ty) (acq : Option Nat) (hint : Nat) (l : Nat) (e : Elem) :
    Except Trap ((LaneSrc × Bool) × State) :=
  match s.access w .load 0 (elemBytes ty) l e with
  | .error t => .error t
  | .ok (none, s) => .ok ((.known 0, false), s)
  | .ok (some p, s) =>
    let ls := p.loc.span (elemBytes ty)
    let s := s.noteRead w p.loc
    match acq with
    | some sc =>
      let s := s.settleFor w l s.nextId ls
      let v := ofBytes (ls.map (s.lookup w (min sc 4) false))
      let s := if sc < 3 ∧ hint ≠ 3 ∧ ls.any (s.readsHome w) = true then s.installClean w hint p.loc else s
      .ok ((.known v, p.loc.isGlob), s)
    | none =>
      if p.loc.isGlob then .ok ((.read ls (hint == 3), true), s)
      else
        let r := s.plainRead w hint (hint == 3) ls
        .ok ((.known r.1, false), r.2)

/-- A load of a wave: `elem` gives the element of a lane. -/
def State.loadWave (s : State) (x : Iss) (u : Use) (ty : Ty) (acq : Option Nat) (hint : Nat) (elem : Nat → Elem) : WOut :=
  let r := s.pushLanes x u fun l s => s.loadLane x.wid ty acq hint l (elem l)
  let s := match acq with
    | some sc => r.s.acquire x.wid sc
    | none => r.s
  (s.finishLong x u .load (r.vals.any fun v => v.2.2) hint (r.vals.map fun v => (v.1, v.2.1))).thenTrap r.trap

/-- The acquire scope of an instruction, if it acquires. -/
def acqScope (ord : BitVec 2) (scope : Nat) : Option Nat := if ord.getLsbD 0 then some scope else none

/-- LD (R277). -/
def execLd (x : FM) (s : State) : Host.Outcome State Fault Refusal :=
  let u : Use := { rds := [Rd.vs 1 x.a .n32], dst := some (Dst.vd x.d x.hd.ty), k := 0 }
  s.issueOps (.ld x) u fun w vals s =>
    let r := s.record w.wid.blk x.tr.toNat
    match s.openRecord w x.tr.toNat r x.hd.ty .load with
    | .bad tr s => .trap tr s
    | .ok rows s =>
      s.loadWave w u x.hd.ty (acqScope x.ord (scopeOf x.scope r)) (hintOf x.hint r) fun l =>
        elementAt r rows (elemBytes x.hd.ty) (laneIndex vals x.ofs l)

/-- The default scope that `SCOPE` 7 selects is no scope (R278). -/
def badScope (sc : BitVec 3) (r : BitVec 256) : Bool := decide (sc = 7 ∧ 6 ≤ recDscope r)

/-- LDG (R278). -/
def execLdg (x : FM) (s : State) : Host.Outcome State Fault Refusal :=
  let u : Use := { rds := [Rd.pair 1 x.a true], dst := some (Dst.vd x.d x.hd.ty), k := 0 }
  s.issueOps (.ldg x) u fun w vals s =>
    let r := s.record w.wid.blk x.tr.toNat
    if badScope x.scope r then .trap (w.firstTrap .bound 3 1 0 0) s
    else
      s.loadWave w u x.hd.ty (acqScope x.ord (scopeOf x.scope r)) (hintOf x.hint r) fun l =>
        .at_ (laneAddr vals x.ofs l)

/-! ### Releases (R109, R113) -/

/-- The instruction makes remote writes; the answer of a PATOM acknowledges it (R403). -/
def remoteWriter : Instr → Bool
  | .pwr _ => true
  | .patom _ => true
  | .psigArv _ => true
  | .psigAdd _ => true
  | .pperm _ => true
  | _ => false

/-- Remote writes of a block that have been issued and that the port engine has not taken. -/
def State.untaken (s : State) (b : Nat) : List Nat :=
  (s.core (s.blk b).core).slots.flatMap fun q => match q.2.pend with
    | some p =>
      if remoteWriter p.instr then (p.waves.filter fun x => decide (x.wid.blk = b) && !x.answered).map (·.ticket) else []
    | none => []

/-- Entries of the block's PPERMs that have not entered their queues. -/
def State.unqueued (s : State) (b : Nat) : List Nat :=
  s.permSends.filterMap fun p => match mfind s.fperms p.1 with
    | some f => if f.wid.blk = b ∧ p.2 ≠ [] then some f.ticket else none
    | none => none

/-- The issues of the remote writes of a block that await an acknowledgement (R93, R403). (DEDUCED, log 37.) -/
def State.unacked (s : State) (b : Nat) : List Nat :=
  s.untaken b ++ s.unqueued b ++ (s.remotes.filter fun p => decide (p.2.blk = b) && p.2.write).map (·.2.ticket)

/-- The remote writes that were awaited have all been acknowledged. -/
def State.acked (s : State) (b : Nat) (awaits : List Nat) : Bool := awaits.all fun i => !(s.unacked b).contains i

/-- The release scope of a thread's write: its own, the pending fence's, or the wider of both (R113). -/
def State.releaseOf (s : State) (t : ThreadId) (own : Option Nat) : Option Nat :=
  match own, (s.thread t).fence with
  | some a, some b => some (max a b)
  | some a, none => some a
  | none, f => f

/-- The widest release of a wave's write. (DEDUCED, log 37.) -/
def State.releaseWave (s : State) (x : Iss) (own : Option Nat) : Option Nat :=
  x.lanes.foldl (fun (m : Option Nat) l =>
    match m, s.releaseOf (x.wid.thread l) own with
    | some a, some b => some (max a b)
    | none, r => r
    | a, none => a) none

/-- What a release's commit gives before the write: go on, a trap, or a wait for acknowledgements, whose threads sleep after what
`fx` does. -/
inductive RelOut where
  | ok (s : State)
  | wbovf
  | wait (fx : State → State)

/-- What the release in progress of a thread awaits has been acknowledged. -/
def State.relDone (s : State) (t : ThreadId) : Bool := s.acked t.blk ((s.thread t).rel.getD [])

/-- Threads of a block whose `.pod` release awaits nothing more are ready (R109, R403). -/
def State.wakePod (s : State) (b : Nat) : State :=
  (s.blk b).waves.foldl (fun s p =>
    let w : WaveId := { blk := b, wv := p.1 }
    if p.2.threads.any (fun t => decide (t.2.wait = .onPod) && s.relDone (w.thread t.1)) then
      s.wakeWave w fun x => decide (x = .onPod)
    else s) s

/-- The commit of a release in which threads go on to wait for acknowledgements: the data moves home first (R93, R109). -/
def State.beginRelease (s : State) (w : WaveId) (lanes : List Nat) : State :=
  match (s.orderLoads w).commitMoves w 5 with
  | none => s
  | some s' => s'.updThreads w lanes fun t => { t with rel := some (s'.unacked w.blk) }

/-- The commit with which a wave's write begins when it is a release (R109). A `.pod` release moves its data home, waits for the
acknowledgements of the remote writes issued before, and then ends the interval (R93) and makes its write. (DEDUCED, log 37.) -/
def State.release (s : State) (x : Iss) (rel : Option Nat) : RelOut :=
  match rel with
  | none => .ok s
  | some sc =>
    let begun := x.lanes.all fun l => (s.thread (x.wid.thread l)).rel.isSome
    if sc = 5 ∧ begun = true then
      if x.lanes.all fun l => s.relDone (x.wid.thread l) then
        .ok ((s.endInterval x.wid).updThreads x.wid x.lanes fun t => { t with rel := none })
      else .wait id
    else
      match (s.orderLoads x.wid).commit x.wid sc with
      | none => .wbovf
      | some s' =>
        if sc = 5 ∧ s'.unacked x.wid.blk ≠ [] then .wait fun s => s.beginRelease x.wid x.lanes
        else .ok s'

/-- Room for one record of a block at a level (R97). -/
def State.canPlace (s : State) (level blk : Nat) (l : Loc) : Bool :=
  !needsRoom l.sp || Nat.ble 4 level || Nat.ble (s.roomNeeded level blk [(l.sp, l.sec)]) (s.roomFor level blk)

/-- A fence's release has been made by the thread's write. -/
def State.useFence (s : State) (t : ThreadId) : State :=
  if (s.thread t).fence.isSome then s.updThread t fun x => { x with fence := none } else s

/-! ### Stores (R277, R278) -/

/-- Bytes of a lane's store, into level 0 or directly at the release's level (R88, R109). -/
def State.storeAt (s : State) (t : ThreadId) (p : Place) (bytes : List Byte) (rel : Option Nat) : Option State :=
  let sec := sectorOf p.loc (pageCmode p.entry) bytes
  let w := t.wid
  let s := s.settleFor w t.lane s.nextId (p.loc.span bytes.length)
  match rel with
  | none => (s.store0 w sec).map fun s => s.noteWrite w p 0
  | some 0 => (s.store0 w sec).map fun s => s.noteWrite w p 0
  | some sc =>
    if s.canPlace (min sc 4) w.blk p.loc then some ((s.rise w (min sc 4) (sec.by_ w)).noteWrite w p sc) else none

/-- One lane of a store. -/
def State.storeLane (s : State) (w : WaveId) (ty : Ty) (own : Option Nat) (v l : Nat) (e : Elem) :
    Except Trap (Unit × State) :=
  let n := elemBytes ty
  let t := w.thread l
  match s.access w .store 1 n l e with
  | .error tr => .error tr
  | .ok (none, s) => .ok ((), s.useFence t)
  | .ok (some p, s') =>
    match s'.storeAt t p (toBytes n v) (s.releaseOf t own) with
    | some s => .ok ((), s.useFence t)
    | none =>
      let ga := match e with
        | .at_ ga => ga
        | _ => 0
      .error (Trap.lane_ .wbovf 0 2 (s'.effGa t ga) l)

/-- The release scope that an instruction names itself. -/
def relScope (ord : BitVec 2) (scope : Nat) : Option Nat := if ord.getLsbD 1 then some scope else none

/-- A store of a wave. -/
def State.storeWave (s : State) (x : Iss) (u : Use) (ty : Ty) (own : Option Nat) (val : Nat → Nat) (elem : Nat → Elem) :
    WOut :=
  match s.release x (s.releaseWave x own) with
  | .wait fx => .wait .onPod x.lanes fx
  | .wbovf => .trap (wbovf x 0) s
  | .ok s =>
    let r := runLanes (fun l s => s.storeLane x.wid ty own (val l) l (elem l)) x.lanes s
    (r.s.finish x u (r.vals.map (·.1)) [] 0).thenTrap r.trap

/-- ST (R277). -/
def execSt (x : FM) (s : State) : Host.Outcome State Fault Refusal :=
  let u : Use := { rds := [Rd.vs 1 x.a .n32, Rd.vs 2 x.b x.hd.ty], dst := none, k := 0 }
  s.issueOps (.st x) u fun w vals s =>
    let r := s.record w.wid.blk x.tr.toNat
    match s.openRecord w x.tr.toNat r x.hd.ty .store with
    | .bad tr s => .trap tr s
    | .ok rows s =>
      s.storeWave w u x.hd.ty (relScope x.ord (scopeOf x.scope r)) (vals 2) fun l =>
        elementAt r rows (elemBytes x.hd.ty) (laneIndex vals x.ofs l)

/-- STS (R278). -/
def execSts (x : FM) (s : State) : Host.Outcome State Fault Refusal :=
  let u : Use := { rds := [Rd.pair 1 x.a true, Rd.vs 2 x.b x.hd.ty], dst := none, k := 0 }
  s.issueOps (.sts x) u fun w vals s =>
    let r := s.record w.wid.blk x.tr.toNat
    if badScope x.scope r then .trap (w.firstTrap .bound 3 2 0 0) s
    else
      s.storeWave w u x.hd.ty (relScope x.ord (scopeOf x.scope r)) (vals 2) fun l => .at_ (laneAddr vals x.ofs l)

/-! ### Core atomics (R280, R116, R117) -/

/-- The sectors that the lanes of a wave name, in the order of the lanes. -/
def State.namedSecs (s : State) (w : WaveId) (lanes : List Nat) (elem : Nat → Elem) : List (Space × Nat) :=
  lanes.filterMap fun l =>
    match elem l with
    | .at_ ga =>
      match s.resolve (w.thread l) ga .atomic with
      | .ok p => some (p.loc.sp, p.loc.sec)
      | .error _ => none
    | _ => none

/-- One lane of a core atomic: the operation is one indivisible step at the place of the scope (R116). (DEDUCED, log 31, 35.) -/
def State.atomLane (s : State) (w : WaveId) (ty : Ty) (op sc : Nat) (ord : BitVec 2) (b c l : Nat) (e : Elem) :
    Except Trap (Nat × State) :=
  let n := elemBytes ty
  let t := w.thread l
  match s.access w .atomic 2 n l e with
  | .error tr => .error tr
  | .ok (none, s) => .ok (0, s.useFence t)
  | .ok (some p, s) =>
    let ga := match e with
      | .at_ ga => ga
      | _ => 0
    let s := s.settleFor w l s.nextId (p.loc.span n)
    let old := ofBytes ((p.loc.span n).map (s.lookup w (min sc 4) false))
    let bytes := toBytes n (atomicNew op ty old b c)
    let put : Option State :=
      if sc = 0 then s.store0 w (sectorOf p.loc (pageCmode p.entry) bytes)
      else if s.canPlace (min sc 4) w.blk p.loc then
        some (s.rise w (min sc 4) ((sectorOf p.loc (pageCmode p.entry) bytes).by_ w))
      else none
    match put with
    | none => .error (Trap.lane_ .wbovf 0 3 (s.effGa t ga) l)
    | some s =>
      let s := s.noteAtomic w p sc
      let s := if ord.getLsbD 0 then s.noteRead w p.loc else s
      .ok (old, s.useFence t)

/-- A core atomic of a wave: the commit of the sectors that its lanes name (R116), the release (R109), the lanes, and the acquire
(R110). (DEDUCED, log 35.) -/
def State.atomWave (s : State) (x : Iss) (u : Use) (m : FM) (vals : Nat → Nat → Nat) : WOut :=
  let ty := m.hd.ty
  let r := s.record x.wid.blk m.tr.toNat
  match s.openRecord x m.tr.toNat r ty .atomic with
  | .bad tr s => .trap tr s
  | .ok rows s =>
    let sc := scopeOf m.scope r
    let elem := fun l => elementAt r rows (elemBytes ty) (laneIndex vals m.ofs l)
    match s.commitSecs x.wid sc (s.namedSecs x.wid x.lanes elem) with
    | none => .trap (wbovf x 0) s
    | some s' =>
    match s'.release x (s'.releaseWave x (relScope m.ord sc)) with
    | .wait fx => .wait .onPod x.lanes fx
    | .wbovf => .trap (wbovf x 0) s
    | .ok s =>
      let op := m.hd.md.toNat
      let run := s.pushLanes x u fun l s => s.atomLane x.wid ty op sc m.ord (vals 2 l) (vals 3 l) l (elem l)
      let s := match acqScope m.ord sc with
        | some a => run.s.acquire x.wid a
        | none => run.s
      (s.finishLong x u .atomic (decide (sc ≠ 0)) 0 (run.vals.map fun v => (v.1, .known v.2))).thenTrap run.trap

/-- The operands of a core atomic. -/
def atomRds (x : FM) : List Rd :=
  [Rd.vs 1 x.a .n32, Rd.vs 2 x.b x.hd.ty] ++ (if x.hd.md = 7 then [Rd.vs 3 x.c x.hd.ty] else [])

/-- ATOM (R280). (DEDUCED, log 35.) -/
def execAtom (x : FM) (s : State) : Host.Outcome State Fault Refusal :=
  let u : Use := { rds := atomRds x, dst := some (Dst.vd x.d x.hd.ty), k := 0 }
  s.issueOps (.atom x) u fun w vals s => s.atomWave w u x vals

/-- RED (R280). (DEDUCED, log 35.) -/
def execRed (x : FM) (s : State) : Host.Outcome State Fault Refusal :=
  let u : Use := { rds := atomRds x, dst := none, k := 0 }
  s.issueOps (.red x) u fun w vals s => s.atomWave w u x vals

/-! ### Prefetch (R281) -/

/-- The rows of a record for a prefetch, none when the record makes it a NOP; it sets no `OVF` (R281). -/
def State.prefRows (s : State) (b : Nat) (r : BitVec 256) (ty : Ty) : Option Nat :=
  if recInvalid r || elemBytes (recFmt r) != elemBytes ty then none
  else if recBmode r ≠ 3 then some (recExt1 r)
  else
    let va := recAux r * 8 % 2 ^ 56
    match s.translate (s.blk b).ctx va (pcOf va).toNat .load with
    | .error _ => none
    | .ok p => some (min (s.homeNat p.loc 4) (recExt1 r))

/-- One lane of a prefetch requests its line into L1, unless the lane is dropped or the line is there (R281). -/
def State.prefLane (s : State) (w : WaveId) (hint size l : Nat) (e : Elem) : State :=
  match e with
  | .at_ ga =>
    if ga % size ≠ 0 then s
    else
      match s.resolve (w.thread l) ga .load with
      | .error _ => s
      | .ok p => if (s.cleanByte w p.loc).isNone then s.installClean w hint p.loc else s
  | _ => s

/-- PREF: it reads its index, takes no trap on it, sets no status, and brings lines into L1; with `.bypass` it changes nothing
that the model holds (R276, R281). (DEDUCED, log 36.) -/
def execPref (x : FM) (s : State) : Host.Outcome State Fault Refusal :=
  let u : Use := { rds := [{ Rd.vs 1 x.a .n32 with tie := false }], dst := none, k := 0 }
  .next (s.issueWith (.pref x) u.vnames fun w s =>
    match s.withOperands w u fun vals s' =>
      let s' := s'.updWave w.wid fun y => { y with wstat := (s.wave w.wid).wstat }
      let r := s'.record w.wid.blk x.tr.toNat
      let hint := hintOf x.hint r
      let s' := match s'.prefRows w.wid.blk r x.hd.ty with
        | none => s'
        | some rows =>
          if hint = 3 then s'
          else w.lanes.foldl (fun s l => s.prefLane w.wid hint (elemBytes x.hd.ty) l
            (elementAt r rows (elemBytes x.hd.ty) (laneIndex vals x.ofs l))) s'
      s'.finish w u w.lanes [] 0 with
    | .trap _ _ => .done s
    | o => o)

/-! ### Record instructions (R282) -/

/-- Set a record and clear its status. -/
def State.setRecord (s : State) (b t : Nat) (r : BitVec 256) : State :=
  s.updBlk b fun x => { x with recs := mput x.recs t r, recStat := mput x.recStat t 0 }

/-- TREC (R282). -/
def execTrec (x : FM) (s : State) : Host.Outcome State Fault Refusal :=
  let u : Use := { rds := [Rd.pair 1 x.a false], dst := none, k := 0 }
  s.issueOps (.trec x) u fun w vals s =>
    let l := nth 0 w.lanes 0
    match s.access w.wid .load 0 32 l (.at_ (laneAddr vals x.ofs l)) with
    | .error tr => .trap tr s
    | .ok (none, s) => s.finish w u w.lanes [] 0
    | .ok (some p, s) =>
      let s := (s.settleFor w.wid l s.nextId (p.loc.span 32)).noteRead w.wid p.loc
      let r := s.plainRead w.wid 0 false (p.loc.span 32)
      (r.2.setRecord w.wid.blk x.tr.toNat (BitVec.ofNat 256 r.1)).finish w u w.lanes [] 0

/-- The set bits of a mask, below `n`. -/
def maskBits (n : Nat) (m : Word) : List Nat := (List.range n).filter fun i => m.getLsbD i

/-- TSET (R282). -/
def execTset (x : FM) (s : State) : Host.Outcome State Fault Refusal :=
  let base := x.a.code.toNat
  let u : Use := { rds := (maskBits 8 x.ofs).map fun i =>
                    { opnd := 1, op := .sca (base + i - 768), last := x.a.last, tie := x.a.tie, ty := .b32, n := 1, each := false }
                   dst := none, k := 0 }
  s.issueOps (.tset x) u fun w _ s =>
    let r := (maskBits 8 x.ofs).foldl (fun r i =>
      setField r (32 * i + 31) (32 * i) ((s.wave w.wid).scalar (base + i - 768)).toNat)
      (s.record w.wid.blk x.tr.toNat).toNat
    (s.setRecord w.wid.blk x.tr.toNat (BitVec.ofNat 256 r)).finish w u w.lanes [] 0

/-- TGET (R282). -/
def execTget (x : FM) (s : State) : Host.Outcome State Fault Refusal :=
  let base := x.d.toNat
  let sel := maskBits 9 x.ofs
  let u : Use := { rds := [], k := 0, dst := some { op := Operand.ofCode x.d, ty := .b32, n := 1, each := false, codes := sel.map (base + ·) } }
  s.issueOps (.tget x) u fun w _ s =>
    let r := s.record w.wid.blk x.tr.toNat
    let st := mget 0 (s.blk w.wid.blk).recStat x.tr.toNat
    let s := s.updWave w.wid fun y => sel.foldl (fun y i =>
      y.setScalar (base + i - 768) (if i < 8 then BitVec.ofNat 32 (bits r (32 * i + 31) (32 * i)) else BitVec.ofNat 32 st.toNat)) y
    .done (if sel.contains 8 && x.hd.md.getLsbD 0 then
        s.updBlk w.wid.blk fun b => { b with recStat := mput b.recStat x.tr.toNat 0 }
      else s)

/-! ### The scratchpad tag table (R283, R284) -/

/-- The way of a set that holds a tag. (DEDUCED, log 44.) -/
def wayOf (ws : List TagWay) (t : Nat) : Option Nat := (ws.find? fun w => w.tag == t).map (·.way)

/-- Ways of a set after one has become the most recent. (DEDUCED, log 44.) -/
def touchWay (ws : List TagWay) (w t : Nat) : List TagWay := { way := w, tag := t } :: ws.filter fun x => x.way != w

/-- The candidate way of a set: the lowest invalid one, else the least recent. (DEDUCED, log 44.) -/
def candidateWay (ws : List TagWay) : Nat :=
  match (List.range 4).find? fun i => !ws.any fun w => w.way == i with
  | some i => i
  | none => match ws.getLast? with
    | some w => w.way
    | none => 0

/-- What an action on the set of tag `t` answers, and the ways after it. (DEDUCED, log 44.) -/
def tagAction (fn set t b : Nat) (ws : List TagWay) : Nat × List TagWay :=
  match fn with
  | 0 =>
    match wayOf ws t with
    | some w => (4 * set + w, touchWay ws w t)
    | none => (0x80000000 + 4 * set + candidateWay ws, ws)
  | 1 =>
    let w := b % 4
    let old := match ws.find? fun x => x.way == w with
      | some x => x.tag
      | none => 0x80000000
    (old, touchWay (ws.filter fun x => x.tag != t) w t)
  | _ =>
    match wayOf ws t with
    | some w => (4 * set + w, ws.filter fun x => x.way != w)
    | none => (0xFFFFFFFF, ws)

/-- One lane's action on a block's tag table. -/
def Block.tagLane (b : Block) (fn a v : Nat) : Nat × Block :=
  let t := a % 2 ^ 31
  let set := t % 64
  let r := tagAction fn set t v (mget [] b.tags set)
  (r.1, { b with tags := mput b.tags set r.2 })

/-- The lanes of a wave act one after another. -/
def State.tagWave (s : State) (blk fn : Nat) (a v : Nat → Nat) : List Nat → List (Nat × Nat) × State
  | [] => ([], s)
  | l :: t =>
    let r := (s.blk blk).tagLane fn (a l) (v l)
    let rest := State.tagWave (s.updBlk blk fun _ => r.2) blk fn a v t
    ((l, r.1) :: rest.1, rest.2)

/-- TLOOK, TINS and TDEL. A push whose commit finds no room leaves the table as it was (R364). (DESIGN CHOICE, log 89.) -/
def State.tagOp (s : State) (i : Instr) (x : FA) (fn : Nat) (rb : List Rd) : Host.Outcome State Fault Refusal :=
  let u : Use := { rds := Rd.vs 1 x.a .b32 :: rb, dst := some (Dst.vd x.d .b32), k := x.ext.getD 0 }
  s.issueOps i u fun w vals s =>
    if (s.commitPush w u).isNone then .trap (wbovf w 0) s
    else
      let r := s.tagWave w.wid.blk fn (vals 1) (vals 2) w.lanes
      r.2.finish w u w.lanes r.1 0

/-- TLOOK (R284). -/
def execTlook (x : FA) (s : State) : Host.Outcome State Fault Refusal := s.tagOp (.tlook x) x 0 []
/-- TINS (R284). -/
def execTins (x : FA) (s : State) : Host.Outcome State Fault Refusal := s.tagOp (.tins x) x 1 [Rd.vs 2 x.b .b32]
/-- TDEL (R284). -/
def execTdel (x : FA) (s : State) : Host.Outcome State Fault Refusal := s.tagOp (.tdel x) x 2 []

/-! ### COMMIT, ABORT and FENCE (R285, R93, R94, R101 to R103, R113) -/

/-- Threads wait for a commit or an abort (R94). (DEDUCED, log 37.) -/
def State.holdFor (s : State) (x : Iss) (abort : Bool) (level : Nat) (awaits : List Nat) : State :=
  let id_ := s.nextId
  let s : State := { s with
    commits := mput s.commits id_
      { wid := x.wid, lanes := x.lanes, abort := abort, level := level, awaits := awaits, sent := s.ns, held := false }
    nextId := id_ + 1 }
  s.updThreads x.wid x.lanes fun t => { t with wait := .onCommit id_ }

/-- A commit of a wave that holds its threads until it is complete; none when it traps WBOVF. A commit that moves nothing
and awaits nothing is complete at once (R94, R287); one that awaits acknowledgements ends the interval with the last of them (R93).
(DEDUCED, log 34, 73.) -/
def State.commitHold (s : State) (x : Iss) (level : Nat) : Option State :=
  let s := s.orderLoads x.wid
  let moves := decide (level ≠ 0) && !(s.movedSecs x.wid (min level 4) anySec).isEmpty
  let acks := if level = 5 then s.unacked x.wid.blk else []
  let done := if acks.isEmpty then s.commit x.wid level else s.commitMoves x.wid level
  done.map fun s => if moves || !acks.isEmpty then s.holdFor x false level acks else s

/-- COMMIT (R93, R285). (DEDUCED, log 73.) -/
def execCommit (x : FA) (s : State) : Host.Outcome State Fault Refusal :=
  s.issueBare (.commit x) fun w s =>
    match s.commitHold w x.hd.md.toNat with
    | none => .trap (wbovf w 0) s
    | some s => .done s

/-- COMMIT.chk (R101, R285). (DEDUCED, log 73.) -/
def execCommitChk (x : FA) (s : State) : Host.Outcome State Fault Refusal :=
  s.issueBare (.commitChk x) fun w s =>
    let level := x.hd.md.toNat % 8
    let pass := s.checkPasses w.wid level
    let set (s : State) (v : Bool) : State := s.setPreds w.wid x.d.toNat (w.lanes.map fun l => (l, v))
    if pass then
      match s.commitHold w level with
      | none => .trap (wbovf w 0) s
      | some s => .done (set s true)
    else .done (set (s.orderLoads w.wid) false)

/-- ABORT (R102, R103, R285). (DEDUCED, log 73.) -/
def execAbort (x : FA) (s : State) : Host.Outcome State Fault Refusal :=
  s.issueBare (.abort x) fun w s =>
    let level := x.hd.md.toNat % 8
    let deep := x.hd.md.getLsbD 3
    let s := if deep then (s.blk w.wid.blk).waves.foldl (fun s v => s.orderLoads { blk := w.wid.blk, wv := v.1 }) s
      else s.orderLoads w.wid
    let s := s.abort w.wid level deep
    .done (s.holdFor w true level [])

/-- FENCE (R113, R285). -/
def execFence (x : FA) (s : State) : Host.Outcome State Fault Refusal :=
  s.issueBare (.fence x) fun w s =>
    let sc := x.hd.md.toNat % 8
    let acq (s : State) : State := if x.hd.md.getLsbD 3 then s.acquire w.wid sc else s
    if x.hd.md.getLsbD 4 then
      match s.commitHold w sc with
      | none => .trap (wbovf w 0) s
      | some s => .done (acq (s.updThreads w.wid w.lanes fun t => { t with fence := some (max sc (t.fence.getD 0)) }))
    else .done (acq s)

/-! ### ATLD (R323, R325) -/

/-- Bytes of an activation image (R322). -/
def bankBytes : Nat := 4112

/-- Read an image in pieces of 16 bytes, as plain loads of a lane's thread (R323), each after the earlier loads of that thread that
share a byte with it (R108). (DEDUCED, log 28, 42.) -/
def State.readImage (s : State) (w : WaveId) (l hint : Nat) : Nat → List Place → Map Byte × State
  | _, [] => ([], s)
  | ofs, p :: t =>
    let ls := p.loc.span 16
    let r := ((s.settleFor w l s.nextId ls).noteRead w p.loc).plainRead w hint (hint == 3) ls
    let rest := State.readImage r.2 w l hint (ofs + 16) t
    ((List.range 16).map (fun i => (ofs + i, BitVec.ofNat 8 (r.1 / 2 ^ (8 * i)))) ++ rest.1, rest.2)

/-- Check every piece of an image (R323). (DEDUCED, log 42.) -/
def State.imagePlaces (s : State) (w : WaveId) (l ga : Nat) : Nat → Nat → Except Trap (List Place × State)
  | 0, _ => .ok ([], s)
  | n + 1, ofs =>
    match s.access w .load 0 1 l (.at_ ((ga + ofs) % 2 ^ 64)) with
    | .error tr => .error tr
    | .ok (none, s) => .ok ([], s)
    | .ok (some p, s) =>
      match State.imagePlaces s w l ga n (ofs + 16) with
      | .error tr => .error tr
      | .ok (ps, s) => .ok (p :: ps, s)

/-- Install a bank's new image: waiting threads of the block are ready (R325). (DEDUCED, log 42.) -/
def State.installBank (s : State) (b n : Nat) : State :=
  let x := mget Bank.zero (s.blk b).banks n
  match x.loading with
  | none => s
  | some ld =>
    let s := s.updBlk b fun y => { y with banks := mput y.banks n { bytes := ld.image, loading := none } }
    (s.blk b).waves.foldl (fun s p => s.wakeWave { blk := b, wv := p.1 } fun w => decide (w = .onBank n)) s

/-- A bank's load that an earlier wave of the same group began at this instruction is installed before the next one is
accepted; a load of another instruction holds the group (R323). None when it must wait. -/
def State.freeBank (s : State) (x : Iss) (n : Nat) : Option State :=
  match (mget Bank.zero (s.blk x.wid.blk).banks n).loading with
  | none => some s
  | some ld =>
    match (s.slot x.core x.slot).run with
    | some r => if r.group.members.contains ld.thread then some (s.installBank x.wid.blk n) else none
    | none => none

/-- ATLD (R323). (DEDUCED, log 42.) -/
def execAtld (x : FM) (s : State) : Host.Outcome State Fault Refusal :=
  let u : Use := { rds := [Rd.pair 1 x.a false], dst := none, k := 0 }
  let n := if x.hd.md.getLsbD 0 then 1 else 0
  s.issueOps (.atld x) u fun w vals s =>
    let l := nth 0 w.lanes 0
    let ga := laneAddr vals x.ofs l
    let whole (tr : Trap) : Trap := { tr with lane := none }
    if ga % 16 ≠ 0 then .trap (whole (Trap.lane_ .bound 4 1 (s.effGa (w.wid.thread l) ga) l)) s
    else
      match s.imagePlaces w.wid l ga (bankBytes / 16) 0 with
      | .error tr => .trap (whole tr) s
      | .ok (ps, s) =>
        match s.freeBank w n with
        | none => .hold
        | some s =>
          let r := s.readImage w.wid l (hintOf x.hint (s.record w.wid.blk x.tr.toNat)) 0 ps
          let ld : BankLoad := { thread := w.wid.thread l, image := r.1, id := r.2.nextId, sent := r.2.ns }
          let s : State := { r.2 with nextId := r.2.nextId + 1 }
          let s := s.updBlk w.wid.blk fun b => { b with banks := mput b.banks n { mget Bank.zero b.banks n with loading := some ld } }
          let s := s.updThreads w.wid w.lanes fun t => { t with wait := .onBank n }
          s.finish w u w.lanes [] 0

end Sys2Proof.Machine
end

