-- ==== Sys2Proof/Machine/Requests.lean ====
section
/-! DEFINITION. Requests to engines: the addresses that a request touches, their checks, the bytes that engines read and write, and a request waiting for acceptance (spec/01_machine.md R27 to R30, R34; spec/09_copy_barriers.md R288, R290, R292, R293). -/

namespace Sys2Proof.Machine

open Sys2Proof

/-! ### Addresses touched -/

/-- A range of generic addresses that a request reads or writes, with the alignment it needs; `bad` says that its address
left the address field (R265). -/
structure Touch where
  ga : Nat
  len : Nat
  align : Nat
  acc : Acc
  bad : Bool
deriving DecidableEq, Repr

/-- The pieces in which a range is translated: 64 KiB of the global space, 256 bytes of a window. -/
def chunkLen (ga : Nat) : Nat := if ga.testBit 63 then 256 else 65536
def chunkOf (ga : Nat) : Nat := ga / chunkLen ga * chunkLen ga

/-- The pieces of a range, each with the first byte of the range in it. -/
def Touch.chunks (t : Touch) : List (Nat × Nat) :=
  if t.len = 0 ∨ t.bad = true then []
  else
    let c := chunkOf t.ga
    let step := chunkLen t.ga
    (List.range ((t.ga + t.len - 1 - c) / step + 1)).map fun i => (c + i * step, max t.ga (c + i * step))

/-- A fault of a request at acceptance: whole, at the lowest participating lane (R34, R288, R347). -/
def engineTrap (c : Cause) (sub acc addr : Nat) : Trap :=
  { cause := c, sub := sub, opnd := 0, acc := acc, addr := addr, lane := none, src := 1 }

/-- Every address is aligned (BOUND, SUB 4); an aliased private window reports its alias address (R86). -/
def State.alignTrap (s : State) (t : ThreadId) (ts : List Touch) : Option Trap :=
  (ts.find? fun x => !x.bad && decide (x.ga % x.align ≠ 0)).map fun x => engineTrap .bound 4 x.acc.code (s.effGa t x.ga)

/-- What the windows, the package fields and hardware-only pages say of one byte, whatever the page permits. (DEDUCED, log 32.) -/
def State.gate (s : State) (t : ThreadId) (ga : Nat) (a : Acc) : Option AddrFault :=
  match s.resolve t ga a with
  | .ok _ => none
  | .error f =>
    if f.cause = .prot ∧ (f.sub = 2 ∨ f.sub = 3 ∨ f.sub = 8 ∨ f.sub = 1) then some f else none

/-- One of the gate checks over a whole request: that of hardware-only pages, or that of windows and packages, with which an address
that leaves its field is found. (DEDUCED, log 32; DESIGN CHOICE, log 80.) -/
def State.gatePass (s : State) (t : ThreadId) (ts : List Touch) (hw : Bool) : Option Trap :=
  ts.findSome? fun x =>
    if x.bad then (if hw then none else some (engineTrap .prot 4 x.acc.code 0))
    else
      x.chunks.findSome? fun c =>
        match s.gate t c.2 x.acc with
        | none => none
        | some f => if (f.sub == 1) == hw then some (engineTrap f.cause f.sub x.acc.code f.addr) else none

/-- Windows are permitted and no address names another package (PROT, SUB 2, 3, 8), over the whole request; then none lies on a
hardware-only page (PROT, SUB 1) (R288, R347). (DEDUCED, log 32.) -/
def State.gateTrap (s : State) (t : ThreadId) (ts : List Touch) : Option Trap :=
  (s.gatePass t ts false).orElse fun _ => s.gatePass t ts true

/-- Every page translates with the needed permission (PAGE; PROT, SUB 0). (DEDUCED, log 32.) -/
def State.pageTrap (s : State) (t : ThreadId) (ts : List Touch) : Option Trap :=
  ts.findSome? fun x =>
    x.chunks.findSome? fun c =>
      match s.resolve t c.2 x.acc with
      | .ok _ => none
      | .error f => some (engineTrap f.cause f.sub x.acc.code f.addr)

/-- The code of an engine access in a race-log record (R124). -/
def Acc.raceKind : Acc → Nat
  | .eread => 3
  | .ewrite => 4
  | .atomic => 2
  | .store => 1
  | _ => 0

/-- The race detector's check of some sectors: the conflicting address, or the state after the log (R123, R124). -/
def State.raceSectors (s : State) (w : WaveId) (kind : Nat) : List (Nat × Place) → Except Nat State
  | [] => .ok s
  | (ga, p) :: t =>
    match s.raceCheck w p kind ga with
    | .race => .error ga
    | .ok s => State.raceSectors s w kind t

/-- The sectors of a range that lie on pages with the race attribute, each with its first byte of the range. -/
def State.raceList (s : State) (t : ThreadId) (x : Touch) : List (Nat × Place) :=
  x.chunks.flatMap fun c =>
    match s.resolve t c.2 x.acc with
    | .error _ => []
    | .ok p =>
      if pageRace p.entry = 0 then []
      else
        let last := min (x.ga + x.len) (c.1 + chunkLen c.1) - 1
        (List.range (last / 32 - c.2 / 32 + 1)).map fun i =>
          let ga := max c.2 ((c.2 / 32 + i) * 32)
          (s.effGa t ga, { p with loc := p.loc.plus (ga - c.2) })

/-- No sector conflicts (RACE). -/
def State.raceTouches (s : State) (t : ThreadId) : List Touch → Except Trap State
  | [] => .ok s
  | x :: rest =>
    match s.raceSectors t.wid x.acc.raceKind (s.raceList t x) with
    | .error ga => .error (engineTrap .race 0 x.acc.code ga)
    | .ok s => State.raceTouches s t rest

/-- Where the pieces of the ranges lie. -/
def State.placesOf (s : State) (t : ThreadId) (ts : List Touch) : List (Nat × Place) :=
  ts.foldl (fun m x => x.chunks.foldl (fun m c =>
    if m.any fun q => q.1 == c.1 then m
    else
      match s.resolve t c.2 x.acc with
      | .ok p => (c.1, { p with loc := { p.loc with addr := p.loc.addr - (c.2 - c.1) } }) :: m
      | .error _ => m) m) []

/-- Where a byte of a request lies. -/
def placeOf (m : List (Nat × Place)) (ga : Nat) : Option Place :=
  (m.find? fun q => q.1 == chunkOf ga).map fun q => { q.2 with loc := q.2.loc.plus (ga - q.1) }

/-! ### Bytes that engines read and write (R30, R293) -/

/-- Bytes that an engine reads for a wave. -/
def State.readGa (s : State) (w : WaveId) (m : List (Nat × Place)) (ga n : Nat) : List Byte :=
  (List.range n).map fun i =>
    match placeOf m (ga + i) with
    | some p => s.engineRead w p.loc
    | none => 0

/-- The bytes of a list that lie in sector number `k` of the address space. -/
def sectorPart (ga : Nat) (bytes : List Byte) (k : Nat) : Nat × List Byte :=
  let lo := max ga (32 * k)
  let hi := min (ga + bytes.length) (32 * k + 32)
  (lo, (bytes.drop (lo - ga)).take (hi - lo))

/-- Bytes that an engine writes for a wave at a level, a sector at a time. -/
def State.writeGa (s : State) (w : WaveId) (level : Nat) (m : List (Nat × Place)) (ga : Nat) (bytes : List Byte) : State :=
  if bytes.isEmpty then s
  else
    (rangeFrom (ga / 32) ((ga + bytes.length - 1) / 32 - ga / 32 + 1)).foldl (fun s k =>
      let q := sectorPart ga bytes k
      match placeOf m q.1 with
      | some p => s.engineWrite w level p q.2
      | none => s) s

/-! ### Tiles (R290, R292, R339, R349) -/

/-- The origin of a tile from an element index (R265). -/
def Tile.at_ (r : BitVec 256) (rows : Nat) (i : Int) : Tile :=
  let c := coords r i
  { tr := r, rows := rows, x := c.1, y := c.2.1, z := c.2.2, map := [] }

/-- A whole record as a tile. -/
def Tile.whole (r : BitVec 256) (rows : Nat) : Tile := { tr := r, rows := rows, x := 0, y := 0, z := 0, map := [] }

def Tile.isQ4 (t : Tile) : Bool := decide (recFmt t.tr = .q4)

/-- Elements of a row of n elements that are in bounds (R290, R339). -/
def Tile.inRow (t : Tile) (dy dz n : Nat) : Nat :=
  let y := t.y + dy
  let z := t.z + dz
  if 0 ≤ y ∧ y < t.rows ∧ 0 ≤ z ∧ z < recExt2 t.tr then min n ((recExt0 t.tr : Int) - t.x).toNat else 0

/-- Elements of a row of n whose addresses the request uses: in mode none all of them, as formed. -/
def Tile.used (t : Tile) (dy dz n : Nat) : Nat := if recBmode t.tr = 0 then n else t.inRow dy dz n

/-- The address of element (x, y, z) of a record's data (R265, R292). -/
def dataAddr (r : BitVec 256) (x y z : Int) : Elem :=
  let ofs := if recFmt r = .q4 then x / 2 else x * elemBytes (recFmt r)
  baseAddr (recBase r) (ofs + 16 * (y * recStr1 r + z * recStr2 r))

/-- The address of the scale byte of an element of a 4-bit record (R292). -/
def scaleAddr (r : BitVec 256) (x y z : Int) : Elem :=
  baseAddr (pcOf (recAux r * 8)).toNat ((y + (recExt1 r : Int) * z) * ((recExt0 r / 32 : Nat) : Int) + x / 32)

/-- Bytes of n elements of a row. -/
def rowBytes (t : Ty) (n : Nat) : Nat := if t = .q4 then n / 2 else n * elemBytes t

/-- The range from one element to the last of a row, each of which has an address (R265). -/
def touchOf (e last : Elem) (len align : Nat) (acc : Acc) : Touch :=
  match e, last with
  | .at_ ga, .at_ _ => { ga := ga, len := len, align := align, acc := acc, bad := false }
  | _, _ => { ga := 0, len := len, align := 1, acc := acc, bad := true }

/-- The ranges of one row of n elements. -/
def Tile.rowTouches (t : Tile) (acc : Acc) (dy dz n : Nat) : List Touch :=
  let k := t.used dy dz n
  if k = 0 then []
  else
    let y := t.y + dy
    let z := t.z + dz
    let last := t.x + ((k - 1 : Nat) : Int)
    touchOf (dataAddr t.tr t.x y z) (dataAddr t.tr last y z) (rowBytes (recFmt t.tr) k) (max 1 (elemBytes (recFmt t.tr))) acc ::
      (if t.isQ4 then [touchOf (scaleAddr t.tr t.x y z) (scaleAddr t.tr last y z) (k / 32) 1 acc] else [])

/-- The rows of a tile, y within z. -/
def rowList (ny nz : Nat) : List (Nat × Nat) :=
  (List.range nz).flatMap fun z => (List.range ny).map fun y => (y, z)

/-- The ranges of a tile of nx × ny × nz elements. -/
def Tile.touches (t : Tile) (acc : Acc) (nx ny nz : Nat) : List Touch :=
  (rowList ny nz).flatMap fun q => t.rowTouches acc q.1 q.2 nx

/-- In fault mode, every element lies in bounds (BOUND, SUB 0). -/
def Tile.outside (t : Tile) (nx ny nz : Nat) : Bool :=
  decide (recBmode t.tr = 2) && (rowList ny nz).any fun q => t.inRow q.1 q.2 nx != nx

/-- What an element of a tile holds: its bits, and its scale byte in a 4-bit record; none when it is out of bounds. -/
def State.tileElem (s : State) (w : WaveId) (t : Tile) (dx dy dz : Nat) : Option (Nat × Nat) :=
  if dx < t.used dy dz (dx + 1) then
    let x := t.x + dx
    let y := t.y + dy
    let z := t.z + dz
    match dataAddr t.tr x y z with
    | .at_ ga =>
      if t.isQ4 then
        let b := ofBytes (s.readGa w t.map ga 1)
        let sc := match scaleAddr t.tr x y z with
          | .at_ a => ofBytes (s.readGa w t.map a 1)
          | _ => 0
        some (b / (if x % 2 = 0 then 1 else 16) % 16, sc)
      else some (ofBytes (s.readGa w t.map ga (elemBytes (recFmt t.tr))), 0)
    | _ => none
  else none

/-! ### Tokens (R28, R294) -/

/-- Write a scalar token: it is FULL, and its readers are ready (R32), unless its context discards its results (R149). The status is
not written when every thread that issued the request has exited (R36). (DESIGN CHOICE, log 90.) -/
def State.setToken (s : State) (w : WaveId) (issuers : List Nat) (token status : Nat) : State :=
  if s.discards (s.blk w.blk).ctx then s
  else
    let s := if s.anyLive w issuers then s.updWave w fun x => x.setScalar token (BitVec.ofNat 32 status) else s
    (s.updWave w fun x => x.markFull (768 + token)).wakeReg w (768 + token)

/-- The scalar register of a token field. -/
def tokenOf (d : BitVec 10) : Nat := d.toNat - 768

/-! ### A request waiting for acceptance (R27, R29) -/

/-- The live bits of lanes that a request had set at its issue, and that were not set before, are clear again. -/
def Wave.unsetLive (w : Wave) (n : Nat) (was : BitVec 64) (lanes : List Nat) : Wave :=
  { w with vregs := w.vregs.map fun p =>
      if p.1 = n then (p.1, { p.2 with live := p.2.live &&& (was ||| ~~~laneMask lanes) }) else p }

/-- A wave hands its request to the engine of its slot: what it read is kept, and its
destinations are live in its lanes and EMPTY (R28, R29, R206). -/
def State.request (s : State) (x : Iss) (i : Instr) (nops : Nat) (each : Bool) (vals : Nat → Nat → Nat)
    (trs : List (BitVec 256)) (codes : List Nat) : WOut :=
  let ls := if each then x.lanes else x.lanes.take 1
  let p : PendWave :=
    { PendWave.fresh x.wid x.lanes with
      ops := ls.map fun l => (l, (List.range nops).map fun o => vals (o + 1) l)
      trs := trs, prev := x.prev
      was := codes.filterMap fun c => ((s.wave x.wid).vreg c).map fun r => (c, r.live)
      ticket := s.nextId, issued := s.cycle }
  let s : State := { s with nextId := s.nextId + 1 }
  let s := s.updWave x.wid fun w => codes.foldl (fun w c => (w.setLive c (laneMask x.lanes)).markEmpty c) w
  let join (o : Option Pend) : Pend :=
    match o with
    | some q => { q with waves := q.waves ++ [p] }
    | none => { instr := i, waves := [p] }
  .done (s.updSlot x.core x.slot fun y => { y with pend := some (join y.pend) })

/-- What an engine answers to one wave's request: it is accepted, or refused with a trap, or it has begun, with
the lanes that have finished, and waits for room, or it waits for room before it begins. -/
inductive Answer where
  | done (s : State)
  | trap (tr : Trap) (s : State)
  | part (done : List Nat) (op : Part) (s : State)
  | full

/-- The value of operand `o` (1 A, 2 B, 3 C) that a wave read at issue, in a lane; scalars stand at the lowest lane. -/
def PendWave.val (p : PendWave) (o l : Nat) : Nat := nth 0 (mget [] p.ops l) (o - 1)
/-- The lowest participating lane: the issuing thread of a request of a wave, for private-window addresses (R288). (DESIGN CHOICE,
log 80.) -/
def PendWave.low (p : PendWave) : Nat := nth 0 p.lanes 0
def PendWave.sval (p : PendWave) (o : Nat) : Nat := p.val o p.low
def PendWave.rec_ (p : PendWave) (i : Nat) : BitVec 256 := nth 0 p.trs i

end Sys2Proof.Machine
end

