-- ==== Sys2Proof/Machine/Barriers.lean ====
section
/-! DEFINITION. Barrier objects at their homes, the barrier file, and the barrier instructions (spec/09_copy_barriers.md R298 to R308). -/

namespace Sys2Proof.Machine

open Sys2Proof

/-! ### Objects (R298, R299) -/

/-- The fields of a barrier object. -/
structure Bar where
  landed : Nat
  expb : Nat
  phase : Nat
  pend : Nat
  expa : Nat
  scope : Nat
  drop : Bool
  valid : Bool
  bovf : Bool
deriving DecidableEq, Repr

def Bar.ofWord (v : Nat) : Bar where
  landed := field v 127 96
  expb := field v 95 64
  phase := field v 63 48
  pend := field v 47 28
  expa := field v 27 8
  scope := field v 7 5
  drop := v.testBit 4
  valid := v.testBit 3
  bovf := v.testBit 2

def bit01 (b : Bool) : Nat := if b then 1 else 0

def Bar.word (b : Bar) : Nat :=
  b.landed * 2 ^ 96 + b.expb * 2 ^ 64 + b.phase * 2 ^ 48 + b.pend * 2 ^ 28 + b.expa * 2 ^ 8 + b.scope * 2 ^ 5
    + bit01 b.drop * 16 + bit01 b.valid * 8 + bit01 b.bovf * 4

def State.bar (s : State) (o : Loc) : Bar := Bar.ofWord (s.homeNat o 16)
def State.setBar (s : State) (o : Loc) (b : Bar) : State := s.setHomeBytes o (toBytes 16 b.word)

/-- Place and scope of an object agree (R299). (DEDUCED, log 40.) -/
def barPlaceOk (o : Loc) (scope : Nat) : Bool :=
  match o.sp with
  | .scr _ => decide (scope ≤ 2)
  | .glob => decide (3 ≤ scope ∧ scope ≤ 5)
  | _ => false

/-- Phase `t` has passed for an object with phase count `p` (R301). -/
def phasePassed (p t : Nat) : Bool :=
  let d := (p + 65536 - t % 65536) % 65536
  decide (1 ≤ d ∧ d ≤ 32767)

/-! ### Updates at home (R300) -/

/-- Send a wake notice to each core that has waiters on an object (R308). -/
def State.notify (s : State) (o : Loc) (phase : Nat) : State :=
  (s.cores.filter fun c => c.2.bfile.any fun e => decide (e.obj = o)).foldl (fun s c =>
    { s with notices := mput s.notices s.nextId { core := c.1, obj := o, phase := phase }, nextId := s.nextId + 1 }) s

/-- A phase completes when its arrivals and its bytes are complete (R37, R300). -/
def State.testPhase (s : State) (o : Loc) (b : Bar) : State :=
  if b.pend = 0 ∧ b.expb ≤ b.landed then
    let ph := (b.phase + 1) % 65536
    (s.setBar o { b with landed := b.landed - b.expb, expb := 0, pend := b.expa, phase := ph }).notify o ph
  else s.setBar o b

/-- The kinds of update. -/
inductive BarUpd where
  | init (scope n : Nat) (drop : Bool)
  | arrive
  | drop
  | expect (n : Nat)
  | credit (n : Nat)
deriving DecidableEq, Repr

/-- One indivisible update of an object; a refusal gives its sub-cause and changes nothing. -/
def State.barUpdate (s : State) (o : Loc) (k : BarUpd) : Except Nat State :=
  let b := s.bar o
  match k with
  | .init scope n drop =>
    let s := s.setBar o { landed := 0, expb := 0, phase := 0, pend := n, expa := n, scope := scope, drop := drop
                          valid := true, bovf := false }
    .ok (if s.barObjs.contains o then s else { s with barObjs := o :: s.barObjs })
  | .arrive =>
    if !b.valid then .error 6
    else if b.pend = 0 then .error 7
    else .ok (s.testPhase o { b with pend := b.pend - 1 })
  | .drop =>
    if !b.valid then .error 6
    else if b.pend = 0 then .error 7
    else .ok (s.testPhase o { b with pend := b.pend - 1, expa := b.expa - 1 })
  | .expect n =>
    if !b.valid then .error 6
    else if 2 ^ 32 ≤ b.expb + n then .error 8
    else .ok (s.setBar o { b with expb := b.expb + n })
  | .credit n =>
    if !b.valid then .error 6
    else .ok (s.testPhase o { b with landed := min (b.landed + n) (2 ^ 32 - 1), bovf := b.bovf || decide (2 ^ 32 ≤ b.landed + n) })

/-- Bytes that a request has landed are on their way to its object (R38, R300). (DEDUCED, log 43.) -/
def State.addCredit (s : State) (o : Option Loc) (n op : Nat) : State :=
  match o with
  | none => s
  | some o =>
    if n = 0 then s
    else if s.credits.any fun c => decide (c.2.op = op ∧ c.2.refused = false) then
      { s with credits := s.credits.map fun c =>
          if c.2.op = op ∧ c.2.refused = false then (c.1, { c.2 with n := c.2.n + n }) else c }
    else
      { s with credits := mput s.credits s.nextId { obj := o, n := n, op := op, refused := false }, nextId := s.nextId + 1 }

/-- Every byte that a request landed has been credited or refused. -/
def State.credited (s : State) (op : Nat) : Bool := !s.credits.any fun c => decide (c.2.op = op ∧ c.2.refused = false)
/-- The object refused bytes of a request. (DEDUCED, log 72.) -/
def State.creditRefused (s : State) (op : Nat) : Bool := s.credits.any fun c => decide (c.2.op = op ∧ c.2.refused = true)
/-- (DEDUCED, log 72.) -/
def State.dropCredits (s : State) (op : Nat) : State :=
  { s with credits := s.credits.filter fun c => decide (c.2.op ≠ op) }

/-! ### The barrier file (R308) -/

/-- Entries of a barrier file. -/
def barFileSize : Nat := 32

/-- Enter a thread under its object's entry, or in the line for an entry when the file is full. (DEDUCED, log 41.) -/
def Core.enterBar (c : Core) (t : ThreadId) (ctx : Nat) (o : Loc) (phase : Nat) : Core :=
  if c.bfile.any fun e => decide (e.obj = o ∧ e.ctx = ctx) then
    { c with bfile := c.bfile.map fun e => if e.obj = o ∧ e.ctx = ctx then { e with waiters := e.waiters ++ [t] } else e }
  else if c.bfile.length < barFileSize then
    { c with bfile := c.bfile ++ [{ obj := o, ctx := ctx, phase := phase, waiters := [t] }] }
  else { c with bqueue := c.bqueue ++ [t] }

/-- A thread leaves the file; an entry without waiters is freed. -/
def Core.leaveBar (c : Core) (t : ThreadId) : Core :=
  { c with
    bfile := (c.bfile.map fun e => { e with waiters := e.waiters.filter (· != t) }).filter fun e => !e.waiters.isEmpty
    bqueue := c.bqueue.filter (· != t) }

/-- A thread in BWAIT is ready again, with its predicate; when the phase has passed it acquires at the object's scope
(R304, R110). (DEDUCED, log 19.) -/
def State.endBwait (s : State) (t : ThreadId) (passed : Bool) : State :=
  match (s.thread t).wait with
  | .bwait o _ pd _ _ =>
    let s := s.updCore (s.blk t.blk).core fun c => c.leaveBar t
    let s := if passed then s.acquire t.wid (s.bar o).scope else s
    s.updThread t fun x => (x.setPred pd passed).wake s.cycle
  | _ => s

/-- Threads in line for an entry take one when there is room, and sample again. (DEDUCED, log 41.) -/
def State.admitBars (s : State) : List ThreadId → State
  | [] => s
  | t :: rest =>
    let c := (s.blk t.blk).core
    let s' :=
      match (s.thread t).wait with
      | .bwait o ph _ _ _ =>
        let ctx := (s.blk t.blk).ctx
        let room := (s.core c).bfile.any (fun e => decide (e.obj = o ∧ e.ctx = ctx)) || Nat.blt (s.core c).bfile.length barFileSize
        if !room then s
        else if phasePassed (s.bar o).phase ph then s.endBwait t true
        else s.updCore c fun x =>
          Core.enterBar { x with bqueue := x.bqueue.filter (· != t) } t ctx o (s.bar o).phase
      | _ => s.updCore c fun x => { x with bqueue := x.bqueue.filter (· != t) }
    State.admitBars s' rest

/-- Threads leave BWAIT, and those in line for the file move up. -/
def State.endBwaits (s : State) (core : Nat) (ts : List ThreadId) (passed : Bool) : State :=
  let s := ts.foldl (fun s t => s.endBwait t passed) s
  s.admitBars (s.core core).bqueue

/-- A thread waits in BWAIT for a phase that has not passed. -/
def State.waitsFor (s : State) (t : ThreadId) (o : Loc) (phase : Nat) : Bool :=
  match (s.thread t).wait with
  | .bwait o' ph _ _ _ => decide (o' = o) && phasePassed phase ph
  | _ => false

/-- A wake notice arrives: every waiter whose phase has passed is ready (R308). (DEDUCED, log 19.) -/
def State.takeNotice (s : State) (n : Notice) : State :=
  let s := s.updCore n.core fun c =>
    { c with bfile := c.bfile.map fun e => if e.obj = n.obj then { e with phase := n.phase } else e }
  let ts := ((s.core n.core).bfile.filter fun e => decide (e.obj = n.obj)).flatMap fun e =>
    e.waiters.filter fun t => s.waitsFor t n.obj n.phase
  s.endBwaits n.core ts true

/-! ### The drop list (R306) -/

/-- Objects that a drop list holds. -/
def dropMax : Nat := 8

def Block.listed (b : Block) (o : Loc) : Bool := b.drops.any fun d => decide (d.obj = o)

/-- A wave becomes a participant of an object; one that BDROP has removed does so again at a later BARV (R306). (DESIGN CHOICE,
log 81.) -/
def Block.enlist (b : Block) (o : Loc) (wv : Nat) : Block :=
  let bit : BitVec 16 := BitVec.ofNat 16 (2 ^ wv)
  if b.listed o then { b with drops := b.drops.map fun d => if d.obj = o then { d with mask := d.mask ||| bit } else d }
  else { b with drops := b.drops ++ [{ obj := o, mask := bit }] }

/-- A wave is no participant any more. -/
def Block.delist (b : Block) (o : Loc) (wv : Nat) : Block :=
  { b with drops := b.drops.map fun d =>
      if d.obj = o then { d with mask := d.mask &&& ~~~(BitVec.ofNat 16 (2 ^ wv)) } else d }

/-- The drop updates of a wave whose last live thread exits; refusals are discarded (R306). -/
def State.exitDrops (s : State) (w : WaveId) : State :=
  ((s.blk w.blk).drops.filter fun d => d.mask.getLsbD w.wv).foldl (fun s d =>
    let s := s.updBlk w.blk fun b => b.delist d.obj w.wv
    match s.barUpdate d.obj .drop with
    | .ok s => s
    | .error _ => s) s

/-- The arrive update of a wave at an object's home (R303, R306). A drop list without a free entry is found before an object whose
`PEND` is 0. (DEDUCED, log 39; DESIGN CHOICE, log 81.) -/
def State.arriveAt (s : State) (w : WaveId) (o : Loc) : Except Nat State :=
  let b := s.bar o
  if b.valid && b.drop && !(s.blk w.blk).listed o && Nat.ble dropMax (s.blk w.blk).drops.length then .error 5
  else
    match s.barUpdate o .arrive with
    | .error n => .error n
    | .ok s => .ok (if b.drop then s.updBlk w.blk fun x => x.enlist o w.wv else s)

/-! ### The instructions (R302 to R305) -/

/-- A fault of a barrier instruction: at the lowest participating lane, with DONEMASK 0 (R303). (DEDUCED, log 34.) -/
def barTrap (c : Cause) (sub acc ga : Nat) : Trap := { Trap.whole c sub 0 with acc := acc, addr := ga }

/-- The object that a pair names for a thread (R299, R302). -/
def State.barObject (s : State) (t : ThreadId) (ga : Nat) (a : Acc) : Except Trap Loc :=
  if ga % 16 ≠ 0 then .error (barTrap .bound 4 a.code (s.effGa t ga))
  else
    match s.resolve t ga a with
    | .error f => .error (barTrap f.cause f.sub a.code f.addr)
    | .ok p => .ok p.loc

/-- The object of a barrier instruction but BINIT; one that is initialised where its scope cannot be faults (R299). (DEDUCED, log 40.) -/
def State.barChecked (s : State) (t : ThreadId) (ga : Nat) (a : Acc) : Except Trap Loc :=
  match s.barObject t ga a with
  | .error tr => .error tr
  | .ok o =>
    if (s.bar o).valid && !barPlaceOk o (s.bar o).scope then .error (barTrap .prot 5 a.code (s.effGa t ga)) else .ok o

/-- The object that a request credits is not initialised where its scope cannot be (R299, R311, R350). (DESIGN CHOICE, log 81.) -/
def State.barAgrees (s : State) (t : ThreadId) (bar : Bool) (ga : Nat) : Option Trap :=
  if !bar then none
  else
    match s.resolve t ga .credit with
    | .error _ => none
    | .ok p =>
      if (s.bar p.loc).valid && !barPlaceOk p.loc (s.bar p.loc).scope then some (engineTrap .prot 5 6 (s.effGa t ga)) else none

/-- BINIT's update, with its effect on the drop list (R303, R306); of its checks the count comes first, then the place, then the drop
list. (DEDUCED, log 40; DESIGN CHOICE, log 81.) -/
def State.binit (s : State) (w : WaveId) (o : Loc) (ga scope n : Nat) (drop : Bool) : Except Trap State :=
  let b := s.blk w.blk
  if 2 ^ 20 ≤ n then .error (barTrap .bound 8 3 0)
  else if !barPlaceOk o scope then .error (barTrap .prot 5 3 ga)
  else if drop && !b.listed o && Nat.ble dropMax b.drops.length then .error (barTrap .bound 5 3 ga)
  else
    match s.barUpdate o (.init scope n drop) with
    | .error n => .error (barTrap .bound n 3 ga)
    | .ok s => .ok (s.updBlk w.blk fun b =>
        let others := b.drops.filter fun d => decide (d.obj ≠ o)
        if !drop then { b with drops := others }
        else if b.listed o then { b with drops := b.drops.map fun d => if d.obj = o then { d with mask := 0 } else d }
        else { b with drops := b.drops ++ [{ obj := o, mask := 0 }] })

/-- The operands of a barrier instruction. -/
def barUse (a : Src) (b : List Rd) (k : Word) : Use := { rds := Rd.pair 1 a false :: b, dst := none, k := k }

/-- The effect of an update on a wave, or its fault. -/
def State.barDone (s : State) (x : Iss) (u : Use) (r : Except Trap State) : WOut :=
  match r with
  | .error tr => .trap tr s
  | .ok s => s.finish x u x.lanes [] 0

/-- BINIT (R303). -/
def execBinit (x : FA) (s : State) : Host.Outcome State Fault Refusal :=
  let u := barUse x.a [Rd.ss 2 x.b .n32] (x.ext.getD 0)
  s.issueOps (.binit x) u fun w vals s =>
    let l := nth 0 w.lanes 0
    match s.barObject (w.wid.thread l) (vals 1 l) .atomic with
    | .error tr => .trap tr s
    | .ok o => s.barDone w u (s.binit w.wid o (s.effGa (w.wid.thread l) (vals 1 l)) (x.hd.md.toNat % 8) (vals 2 l) (x.hd.md.getLsbD 3))

/-- Threads wait for the arrival of their BARV (R303). (DEDUCED, log 39.) -/
def State.holdArrival (s : State) (x : Iss) (o : Loc) (ga : Nat) : State :=
  let id_ := s.nextId
  let s : State := { s with
    arrivals := mput s.arrivals id_
      { wid := x.wid, lanes := x.lanes, obj := o, ga := ga, awaits := s.unacked x.wid.blk, pc := x.pc, len := x.len }
    nextId := id_ + 1 }
  s.updThreads x.wid x.lanes fun t => { t with wait := .onArrival id_ }

/-- BARV: the commit at the object's scope, then the arrival (R303); when acknowledgements are awaited, the interval ends with the
arrival (R93). (DEDUCED, log 39.) -/
def execBarv (x : FA) (s : State) : Host.Outcome State Fault Refusal :=
  let u := barUse x.a [] (x.ext.getD 0)
  s.issueOps (.barv x) u fun w vals s =>
    let l := nth 0 w.lanes 0
    let ga := vals 1 l
    match s.barChecked (w.wid.thread l) ga .atomic with
    | .error tr => .trap tr s
    | .ok o =>
      let scope := min (s.bar o).scope 5
      let waits := decide (scope = 5 ∧ s.unacked w.wid.blk ≠ [])
      let t := s.orderLoads w.wid
      match if waits then t.commitMoves w.wid scope else t.commit w.wid scope with
      | none => .trap (wbovf w 0) s
      | some s =>
        if waits then s.finish w u w.lanes [] 0 |> fun r =>
          match r with
          | .done s => .done (s.holdArrival w o (s.effGa (w.wid.thread l) ga))
          | r => r
        else
          match s.arriveAt w.wid o with
          | .error n => .trap (barTrap .bound n 3 (s.effGa (w.wid.thread l) ga)) s
          | .ok s => s.finish w u w.lanes [] 0

/-- BEXP (R303). -/
def execBexp (x : FA) (s : State) : Host.Outcome State Fault Refusal :=
  let u := barUse x.a [Rd.ss 2 x.b .n32] (x.ext.getD 0)
  s.issueOps (.bexp x) u fun w vals s =>
    let l := nth 0 w.lanes 0
    match s.barChecked (w.wid.thread l) (vals 1 l) .atomic with
    | .error tr => .trap tr s
    | .ok o =>
      s.barDone w u (match s.barUpdate o (.expect (vals 2 l)) with
        | .error n => .error (barTrap .bound n 3 (s.effGa (w.wid.thread l) (vals 1 l)))
        | .ok s => .ok s)

/-- BDROP (R303, R306). -/
def execBdrop (x : FA) (s : State) : Host.Outcome State Fault Refusal :=
  let u := barUse x.a [] (x.ext.getD 0)
  s.issueOps (.bdrop x) u fun w vals s =>
    let l := nth 0 w.lanes 0
    match s.barChecked (w.wid.thread l) (vals 1 l) .atomic with
    | .error tr => .trap tr s
    | .ok o =>
      s.barDone w u (match s.barUpdate o .drop with
        | .error n => .error (barTrap .bound n 3 (s.effGa (w.wid.thread l) (vals 1 l)))
        | .ok s => .ok (s.updBlk w.wid.blk fun b => b.delist o w.wid.wv))

/-- BTEST (R305). -/
def execBtest (x : FA) (s : State) : Host.Outcome State Fault Refusal :=
  let u := barUse x.a [Rd.ss 2 x.b .n32] (x.ext.getD 0)
  s.issueOps (.btest x) u fun w vals s =>
    let l := nth 0 w.lanes 0
    match s.barChecked (w.wid.thread l) (vals 1 l) .load with
    | .error tr => .trap tr s
    | .ok o =>
      let ok := phasePassed (s.bar o).phase (vals 2 l)
      let s := if ok then s.acquire w.wid (s.bar o).scope else s
      (s.setPreds w.wid x.d.toNat (w.lanes.map fun l => (l, ok))).finish w u w.lanes [] 0

/-- BWAIT: one sample for the wave; its threads acquire and go on, or go on with 0, or sleep (R304). -/
def execBwait (x : FC) (s : State) : Host.Outcome State Fault Refusal :=
  let timed := x.hd.md.getLsbD 0
  let u := barUse x.a (Rd.ss 2 x.b .n32 :: (if timed then [Rd.ss 3 x.c .n32] else [])) (x.ext.getD 0)
  s.issueOps (.bwait x) u fun w vals s =>
    let l := nth 0 w.lanes 0
    match s.barChecked (w.wid.thread l) (vals 1 l) .load with
    | .error tr => .trap tr s
    | .ok o =>
      let pd := if timed then x.d.toNat else 0
      let ph := vals 2 l % 65536
      let ok := phasePassed (s.bar o).phase ph
      if ok then
        ((s.acquire w.wid (s.bar o).scope).setPreds w.wid pd (w.lanes.map fun l => (l, true))).finish w u w.lanes [] 0
      else if timed ∧ vals 3 l = 0 then
        (s.setPreds w.wid pd (w.lanes.map fun l => (l, false))).finish w u w.lanes [] 0
      else
        let dl := if timed then some (s.cycle + vals 3 l) else none
        let s := w.lanes.foldl (fun s l =>
          let t := w.wid.thread l
          let s := s.updThread t fun y => { y with wait := .bwait o ph pd dl w.pc }
          s.updCore w.core fun c => c.enterBar t (s.blk w.wid.blk).ctx o (s.bar o).phase) s
        s.finish w u w.lanes [] 0

end Sys2Proof.Machine
end

