-- ==== Sys2Proof/Machine/Copies.lean ====
section
/-! DEFINITION. The copy engine: CPY, CPYT, CSEAL, and how copies are accepted, land and complete (spec/09_copy_barriers.md R288 to R296). -/

namespace Sys2Proof.Machine

open Sys2Proof

/-! ### Conversions of a tile (R291) -/

/-- The exact value of an element. -/
def elemValue (t : Ty) (raw scale : Nat) : FVal :=
  if t = .q4 then q4Value scale raw else if t.isFloat then t.ffmt.value raw else .ofInt (t.val raw)

/-- One element converted to a format other than the 4-bit one. (DEDUCED, log 26.) -/
def tileConvert (dst src : Ty) (mode : Nat) (sat : Bool) (raw scale : Nat) : Nat × Nat :=
  if dst = src then (raw, 0)
  else if src = .q4 then
    if dst.isFloat then dst.ffmt.deliver (q4Value scale raw) (RMode.ofCode mode) sat 0
    else floatToInt dst (q4Value scale raw) (RMode.ofCode mode)
  else convert dst src (RMode.ofCode mode) sat 0 raw

/-- The magnitude of a value is at most M × 2^(e - 32), for the M of a code type (R257). -/
def q4Fits (ct e : Nat) : FVal → Bool
  | .nan _ => true
  | .inf _ => false
  | .fin _ m ex => decide (magCmp m ex (nth 12 [7, 6, 8, 12] ct) ((e : Int) - 32) ≠ .gt)

/-- The exponent of a block: the smallest that meets R257, 63 when none does (R291). (DEDUCED, log 25.) -/
def q4Exponent (ct : Nat) (vs : List FVal) : Nat :=
  match (List.range 64).find? fun e => vs.all (q4Fits ct e) with
  | some e => e
  | none => 63

/-- A block of 32 values as codes, its scale byte, and the flags. -/
def q4Block (ct : Nat) (vs : List FVal) : List Nat × Nat × Nat :=
  let e := q4Exponent ct vs
  let cs := vs.map (q4Quantise ct e)
  (cs.map (·.1), ct * 64 + e, cs.foldl (fun f c => f ||| c.2) 0)

/-- Codes two to a byte, the first in the low half (R292). -/
def packCodes : List Nat → List Byte
  | a :: b :: t => BitVec.ofNat 8 (a % 16 + 16 * (b % 16)) :: packCodes t
  | [a] => [BitVec.ofNat 8 (a % 16)]
  | [] => []

/-! ### Pieces (R293, R118) -/

/-- Where a row of a tile begins within a 4-byte word. -/
def Tile.phase4 (t : Tile) : Nat := (((recBase t.tr : Nat) : Int) + t.x * elemBytes (recFmt t.tr)).toNat % 4

/-- Words, or 32-code blocks, of one row of a destination tile. -/
def rowPieces (t : Tile) (nx : Nat) : Nat :=
  if t.isQ4 then nx / 32 else (t.phase4 + nx * elemBytes (recFmt t.tr) + 3) / 4

/-- Pieces of a copy: 4-byte words of its destination, or blocks of 4-bit codes. (DEDUCED, log 43.) -/
def CopyKind.pieces : CopyKind → Nat
  | .bytes _ _ n _ => n / 4
  | .tile dst _ nx ny nz _ _ _ => rowPieces dst nx * ny * nz

/-- What landing a piece does: ranges to write with their bytes, the bytes credited, and the flags. -/
structure Piece where
  writes : List (Nat × List Byte)
  credit : Nat
  flags : Nat

/-- The address of the first element of a row of a tile, if it can be formed. -/
def Tile.rowAddr (t : Tile) (dy dz : Nat) : Option Nat :=
  match dataAddr t.tr t.x (t.y + dy) (t.z + dz) with
  | .at_ ga => some ga
  | _ => none

/-- One word of a row of a destination whose elements are whole bytes. The flags of an element that no address takes count too (R291).
(DESIGN CHOICE, log 94.) -/
def State.wordPiece (s : State) (w : WaveId) (dst src : Tile) (nx mode : Nat) (sat : Bool) (dy dz k : Nat) : Piece :=
  let dt := recFmt dst.tr
  let es := elemBytes dt
  let lo := 4 * k - dst.phase4
  let hi := min (nx * es) (4 * k + 4 - dst.phase4)
  let elems := (rangeFrom (lo / es) ((hi - 1) / es - lo / es + 1)).map fun i =>
    let v := (s.tileElem w src i dy dz).getD (0, 0)
    tileConvert dt (recFmt src.tr) mode sat v.1 v.2
  let bytes := (elems.flatMap fun e => toBytes es e.1).drop (lo - lo / es * es)
  let top := min hi (dst.used dy dz nx * es)
  { writes := match dst.rowAddr dy dz with
      | some ga => [(ga + lo, bytes.take (top - lo))]
      | none => []
    credit := hi - lo
    flags := elems.foldl (fun f e => f ||| e.2) 0 }

/-- One block of 32 codes of a row, with its scale byte. -/
def State.blockPiece (s : State) (w : WaveId) (dst src : Tile) (nx ct : Nat) (dy dz k : Nat) : Piece :=
  let raw := (rangeFrom (32 * k) 32).map fun i => (s.tileElem w src i dy dz).getD (0, 0)
  let q : List Nat × Nat × Nat :=
    if src.isQ4 then (raw.map (·.1), (nth (0, 0) raw 0).2, 0)
    else q4Block ct (raw.map fun v => elemValue (recFmt src.tr) v.1 v.2)
  let y := dst.y + dy
  let z := dst.z + dz
  let x := dst.x + ((32 * k : Nat) : Int)
  let wr (e : Elem) (bs : List Byte) : List (Nat × List Byte) :=
    match e with
    | .at_ ga => [(ga, bs)]
    | _ => []
  { writes := if 32 * k < dst.used dy dz nx then
        wr (dataAddr dst.tr x y z) (packCodes q.1) ++ wr (scaleAddr dst.tr x y z) [BitVec.ofNat 8 q.2.1]
      else []
    credit := 17
    flags := q.2.2 }

/-- A piece of a copy. (DEDUCED, log 43.) -/
def State.copyPiece (s : State) (w : WaveId) (kind : CopyKind) (i : Nat) : Piece :=
  match kind with
  | .bytes dst src _ m => { writes := [(dst + 4 * i, s.readGa w m (src + 4 * i) 4)], credit := 4, flags := 0 }
  | .tile dst src nx ny _ mode sat code =>
    let k := i % rowPieces dst nx
    let r := i / rowPieces dst nx
    if dst.isQ4 then s.blockPiece w dst src nx code (r % ny) (r / ny) k
    else s.wordPiece w dst src nx mode sat (r % ny) (r / ny) k

def CopyKind.places : CopyKind → List (Nat × Place)
  | .bytes _ _ _ m => m
  | .tile dst _ _ _ _ _ _ _ => dst.map

/-- Destination sectors of a piece, as address / 32. -/
def Piece.sectors (p : Piece) : List Nat :=
  dedupN (p.writes.flatMap fun q =>
    if q.2.isEmpty then [] else rangeFrom (q.1 / 32) ((q.1 + q.2.length - 1) / 32 - q.1 / 32 + 1))

/-- A piece of a copy lands and its bytes are on their way to the barrier object; an error leaves its sectors unwritten
(R293, R294). (DEDUCED, log 43.) -/
def State.landPiece (s : State) (id_ : Nat) (c : Copy) (i err : Nat) : State :=
  let p := s.copyPiece c.wid c.kind i
  let secs := p.sectors
  let bad := decide (err ≠ 0) || secs.any c.bad.contains
  let s := if bad then s
    else p.writes.foldl (fun s q => s.writeGa c.wid c.level c.kind.places q.1 q.2) s
  let c' := { c with
    landed := insertN i c.landed
    heard := s.ns
    bad := if err = 0 then c.bad else c.bad ++ secs
    code := if c.code = 0 then err else c.code
    flags := if bad then c.flags else c.flags ||| p.flags }
  { s with copies := mput s.copies id_ c' }.addCredit c.bar p.credit id_

/-- The sectors of a piece have not been written by a piece that landed before. -/
def State.sectorsFresh (s : State) (c : Copy) (i : Nat) : Bool :=
  let secs := (s.copyPiece c.wid c.kind i).sectors
  c.landed.all fun j => (s.copyPiece c.wid c.kind j).sectors.all fun k => !secs.contains k || c.bad.contains k

/-- The status of a copy (R294). -/
def Copy.status (c : Copy) : Nat := c.code * 2 ^ 24 + (c.flags &&& 0x3D)

/-- Every byte of a copy has landed and been credited. -/
def State.copyDone (s : State) (id_ : Nat) (c : Copy) : Bool :=
  decide (c.landed.length = c.kind.pieces) && s.credited id_

/-! ### Batches (R295) -/

/-- Seal the open batch of a wave. -/
def State.seal (s : State) (w : WaveId) : State :=
  match (s.wave w).batch with
  | none => s
  | some b =>
    let s := s.updWave w fun x => { x with batch := none }
    { s with batches := s.batches.map fun p => if p.1 = b then (p.1, { p.2 with sealed := true }) else p }

/-- A copy joins its wave's open batch, which 64 copies fill. -/
def State.joinBatch (s : State) (w : WaveId) (copy : Nat) : Nat × State :=
  let full := match (s.wave w).batch with
    | some b => match mfind s.batches b with
      | some x => Nat.ble 64 x.members.length
      | none => false
    | none => false
  let s := if full then s.seal w else s
  match (s.wave w).batch with
  | some b =>
    (b, { s with batches := s.batches.map fun p => if p.1 = b then (p.1, { p.2 with members := p.2.members ++ [copy] }) else p })
  | none =>
    let b := s.nextId
    let s : State := { s with
      batches := mput s.batches b { wid := w, members := [copy], sealed := false }
      nextId := b + 1 }
    (b, s.updWave w fun x => { x with batch := some b })

/-- CSEAL (R295). -/
def execCseal (x : FA) (s : State) : Host.Outcome State Fault Refusal :=
  s.issueBare (.cseal x) fun w s => .done (s.seal w.wid)

/-! ### The instructions (R289, R290) -/

/-- The token and barrier operands of a copy. -/
def barRd (bar : Bool) (c : Src) : List Rd := if bar then [Rd.pair 3 c false] else []

/-- What it reads and writes. -/
def cpyUse (x : FM) : Use :=
  { rds := [Rd.pair 1 x.a false, Rd.pair 2 x.b false] ++ barRd (x.hd.md.getLsbD 5) x.c, dst := some (Dst.sd x.d .b32), k := 0 }
/-- CPY (R289). -/
def execCpy (x : FM) (s : State) : Host.Outcome State Fault Refusal :=
  s.issueOps (.cpy x) (cpyUse x) fun w vals s => s.request w (.cpy x) 3 false vals [] [x.d.toNat]

/-- What it reads and writes. -/
def cpytUse (x : FM) : Use :=
  { rds := Rd.ss 1 x.a .n32 :: barRd (x.hd.md.getLsbD 5) x.c, dst := some (Dst.sd x.d .b32), k := 0 }
/-- CPYT (R290). -/
def execCpyt (x : FM) (s : State) : Host.Outcome State Fault Refusal :=
  s.issueOps (.cpyt x) (cpytUse x) fun w vals s =>
    let b := w.wid.blk
    s.request w (.cpyt x) 3 false vals [s.record b x.tr.toNat, s.record b (x.xmod.toNat % 64)] [x.d.toNat]

/-! ### Acceptance (R288) -/

/-- Copies of a core that have not completed. -/
def State.copiesOn (s : State) (core : Nat) : Nat :=
  (s.copies.filter fun c => decide (c.2.core = core ∧ c.2.complete = false)).length

/-- The engine's queue (R288). -/
def copyQueue : Nat := 256

/-- Enter an accepted copy. -/
def State.startCopy (s : State) (x : Iss) (token level : Nat) (kind : CopyKind) (bar : Option Loc) (batched : Bool) : State :=
  let id_ := s.nextId
  let s : State := { s with nextId := id_ + 1 }
  let joined := s.joinBatch x.wid id_
  let b : Option Nat × State := if batched then (some joined.1, joined.2) else (none, s)
  let c : Copy := { wid := x.wid, issuers := x.lanes, core := x.core, token := token, level := level, kind := kind, bar := bar, batch := b.1
                    landed := [], bad := [], code := 0, flags := 0, heard := s.ns, complete := false }
  { b.2 with copies := mput b.2.copies id_ c }

/-- The range of the barrier object. -/
def barTouch (bar : Bool) (ga : Nat) : List Touch :=
  if bar then [{ ga := ga, len := 16, align := 16, acc := .credit, bad := false }] else []

/-- The object's place. -/
def barOf (m : List (Nat × Place)) (bar : Bool) (ga : Nat) : Option Loc :=
  if bar then (placeOf m ga).map (·.loc) else none

/-- The first trap of a list of checks. (DEDUCED, log 32.) -/
def firstTrap (cs : List (Option Trap)) : Option Trap := cs.findSome? id

/-- Accept a CPY. -/
def acceptCpy (x : FM) (w : Iss) (p : PendWave) (s : State) : Answer :=
  let t := w.wid.thread p.low
  let n := x.ofs.toNat
  let bar := x.hd.md.getLsbD 5
  let ts : List Touch :=
    [{ ga := p.sval 2, len := n, align := 4, acc := .eread, bad := false },
     { ga := p.sval 1, len := n, align := 4, acc := .ewrite, bad := false }] ++ barTouch bar (p.sval 3)
  match firstTrap [s.alignTrap t ts, s.gateTrap t ts, s.pageTrap t ts, s.barAgrees t bar (p.sval 3)] with
  | some tr => .trap tr s
  | none =>
    match s.raceTouches t (ts.take 2) with
    | .error tr => .trap tr s
    | .ok s' =>
      if copyQueue ≤ s.copiesOn w.core then .full
      else
        let m := s.placesOf t ts
        .done (s'.startCopy w (tokenOf x.d) x.scope.toNat (.bytes (p.sval 1) (p.sval 2) n m) (barOf m bar (p.sval 3))
          (x.hd.md.getLsbD 4))

/-- The formats and layouts of two records can be combined (R291, R292). -/
def copyFormatsOk (dst src large shape : BitVec 256) (x0 : Int) : Bool :=
  let d := recFmt dst
  let c := recFmt src
  let raw (t : Ty) : Bool := t.raw
  let q4 (r : BitVec 256) : Bool := decide (recFmt r = .q4)
  (d == c || !(raw d || raw c)) &&
    [dst, src].all (fun r => !q4 r || (decide (recExt0 r % 32 = 0) && decide (recBmode r ≠ 3))) &&
    (!q4 large || (decide (x0 % 32 = 0) && decide (recExt0 shape % 32 = 0)))

/-- Bytes of a tile of a format, scale bytes included (R290). -/
def tileBytes (t : Ty) (nx ny nz : Nat) : Nat := (rowBytes t nx + (if t = .q4 then nx / 32 else 0)) * ny * nz

/-- A trap of the count's read: a fault of its page, a race, or a count above `EXT1` under `STRICT` (R267). -/
def countTrap (c : Cause) (sub addr : Nat) : Trap := { engineTrap c sub (if c = .bound then 5 else 1) addr with src := 3 }

/-- Read the rows of a record that a request names, once (R267). -/
def State.requestRows (s : State) (w : WaveId) (t : Nat) (r : BitVec 256) : Except (Trap × State) (Nat × State) :=
  match s.readRows w t 3 r with
  | .ok rows s => .ok (rows, s)
  | .bad c sub addr s => .error (countTrap c sub addr, s)

/-- The rows over which a copy makes the checks that come before the count's read (R288): those that the count will give, and none
when its page cannot be read: the read of the count (`State.requestRows`) then takes its fault before any check of those rows. (DESIGN
CHOICE, log 80.) -/
def State.peekRows (s : State) (w : WaveId) (r : BitVec 256) : Nat :=
  if recBmode r ≠ 3 then recExt1 r
  else
    let va := recAux r * 8 % 2 ^ 56
    match s.translate (s.blk w.blk).ctx va (pcOf va).toNat .load with
    | .error _ => 0
    | .ok p => min (s.homeNat p.loc 4) (recExt1 r)

/-- Accept a CPYT: the checks of R288, among which the size of the tile (R290) stands after the alignment. (DESIGN CHOICE, log 80.) -/
def acceptCpyt (x : FM) (w : Iss) (p : PendWave) (s : State) : Answer :=
  let t := w.wid.thread p.low
  let sh := x.xmod.getLsbD 6
  let bar := x.hd.md.getLsbD 5
  let td := x.tr.toNat
  let tsn := x.xmod.toNat % 64
  let rd := p.rec_ 0
  let rs := p.rec_ 1
  let shape := if sh then rs else rd
  let large := if sh then rd else rs
  let i : Int := ((p.sval 1 : Nat) : Int) + sextN x.ofs.toNat 32
  let bad3 : Trap := engineTrap .bound 3 0 0
  if recInvalid rd || recInvalid rs then .trap bad3 s
  else if !copyFormatsOk rd rs large shape (coords large i).1 then .trap bad3 s
  else
    let nx := recExt0 shape
    let ny := s.peekRows w.wid shape
    let nz := recExt2 shape
    let lt := Tile.at_ large (s.peekRows w.wid large) i
    let st := Tile.whole shape ny
    let dst := if sh then lt else st
    let src := if sh then st else lt
    let tiles := src.touches .eread nx ny nz ++ dst.touches .ewrite nx ny nz
    let ts := tiles ++ barTouch bar (p.sval 3)
    let big := if 2 ^ 24 < tileBytes (recFmt rd) nx ny nz then some (engineTrap .bound 8 6 0) else none
    let out := if lt.outside nx ny nz then some (engineTrap .bound 0 (if sh then 6 else 5) 0) else none
    match firstTrap [s.alignTrap t ts, big, s.gateTrap t ts, s.pageTrap t ts, s.barAgrees t bar (p.sval 3), out] with
    | some tr => .trap tr s
    | none =>
      match s.requestRows w.wid (if sh then tsn else td) shape with
      | .error (tr, s) => .trap tr s
      | .ok (_, s) =>
        match s.requestRows w.wid (if sh then td else tsn) large with
        | .error (tr, s) => .trap tr s
        | .ok (_, s) =>
          match s.raceTouches t tiles with
          | .error tr => .trap tr s
          | .ok s' =>
            if copyQueue ≤ s.copiesOn w.core then .full
            else
              let m := s.placesOf t ts
              let level := max 1 (scopeOf x.scope rd)
              .done (s'.startCopy w (tokenOf x.d) level
                (.tile { dst with map := m } { src with map := m } nx ny nz (x.hd.md.toNat % 8) (x.hd.md.getLsbD 3)
                  (x.b.code.toNat % 4)) (barOf m bar (p.sval 3)) (x.hd.md.getLsbD 4))

/-! ### Landing and completion (R293 to R295) -/

/-- COPY_LAND: a piece of a copy lands; `err` is 0, or the code of an uncorrectable error (R293, R294). (DEDUCED, log 43.) -/
def execCopyLand (id piece err : Nat) (s : State) : Host.Outcome State Fault Refusal :=
  .next (match mfind s.copies id with
    | none => s
    | some c =>
      if c.kind.pieces ≤ piece ∨ c.landed.contains piece = true ∨ 2 < err then s
      else if err ≠ 0 ∧ s.sectorsFresh c piece = false then s
      else s.landPiece id c piece err)

/-- COPY_COMPLETE: the status of a copy (R294). (DEDUCED, log 43.) -/
def execCopyComplete (id : Nat) (s : State) : Host.Outcome State Fault Refusal :=
  .next (match mfind s.copies id with
    | none => s
    | some c =>
      if c.complete || !s.copyDone id c then s
      else
        let c := if s.creditRefused id ∧ c.code = 0 then { c with code := 3 } else c
        let s := s.dropCredits id
        match c.batch with
        | none => { s with copies := mdel s.copies id }.setToken c.wid c.issuers c.token c.status
        | some _ => { s with copies := mput s.copies id { c with complete := true } })

/-- BATCH_COMPLETE: every token of a sealed batch becomes FULL in one step (R295). -/
def execBatchComplete (id : Nat) (s : State) : Host.Outcome State Fault Refusal :=
  .next (match mfind s.batches id with
    | none => s
    | some b =>
      let cs := b.members.filterMap fun k => (mfind s.copies k).map fun c => (k, c)
      if !b.sealed || !cs.all (fun c => c.2.complete) then s
      else
        let s := cs.foldl (fun (s : State) c =>
          { s with copies := mdel s.copies c.1 }.setToken c.2.wid c.2.issuers c.2.token c.2.status) s
        { s with batches := mdel s.batches id })

end Sys2Proof.Machine
end

