-- ==== Sys2Proof/Machine/Matrix.lean ====
section
/-! DEFINITION. The matrix engine: its reservation, convergence registers, MMA, MZERO, MLD and MST (spec/11_matrix.md). -/

namespace Sys2Proof.Machine

open Sys2Proof

/-! ### The accumulators (R331) -/

/-- Rows, columns and slot stride of a shape. -/
def mxDims (shape : Nat) : Nat × Nat × Nat :=
  match shape with
  | 0 => (64, 64, 4096)
  | 1 => (128, 64, 8192)
  | _ => (128, 128, 0)

/-- Linear index of element (m, n) of a tile. -/
def accIndex (shape slot m n : Nat) : Nat := (mxDims shape).2.2 * slot + (mxDims shape).2.1 * m + n

/-- The elements of a tile, row by row. -/
def tileList (shape : Nat) : List (Nat × Nat) :=
  (List.range (mxDims shape).1).flatMap fun m => (List.range (mxDims shape).2.1).map fun n => (m, n)

def Matrix.get (x : Matrix) (i : Nat) : Word := mget 0 x.acc i

def State.mx (s : State) (core : Nat) : Matrix := (s.core core).mx
def State.updMx (s : State) (core : Nat) (f : Matrix → Matrix) : State :=
  s.updCore core fun c => { c with mx := f c.mx }

/-- Requests that an engine has accepted and that have not completed, MSTs among them (R343). -/
def State.mxUsed (s : State) (core : Nat) : Nat :=
  (s.mx core).queue.length + (s.msts.filter fun p => decide (p.2.core = core)).length

/-- The engine's queue (R343). -/
def mxQueue : Nat := 16

/-- Accept a request. -/
def State.mxAccept (s : State) (w : Iss) (op : MxOp) : State :=
  s.updMx w.core fun x => { x with queue := x.queue ++ [{ wid := w.wid, issuers := w.lanes, heard := s.ns, op := op }] }

/-! ### Reservation (R333, R334) -/

/-- What MRSV by a block answers, and the engine after it. -/
def Matrix.reserve (x : Matrix) (b : Nat) : Bool × Matrix :=
  match x.holder with
  | none => (true, { Matrix.free with holder := some b })
  | some h => if h = b then (true, { x with releasing := false }) else (false, x)

/-- MRSV (R333, R334). -/
def execMrsv (x : FA) (s : State) : Host.Outcome State Fault Refusal :=
  s.issueBare (.mrsv x) fun w s =>
    let r := (s.mx w.core).reserve w.wid.blk
    .done ((s.updMx w.core fun _ => r.2).setPreds w.wid x.d.toNat (w.lanes.map fun l => (l, r.1)))

/-- MREL (R333, R334): with nothing left to complete, the release takes effect. (DEDUCED, log 46.) -/
def execMrel (x : FA) (s : State) : Host.Outcome State Fault Refusal :=
  s.issueBare (.mrel x) fun w s =>
    .done (if (s.mx w.core).holder ≠ some w.wid.blk then s
      else if s.mxUsed w.core = 0 then s.updMx w.core fun _ => Matrix.free
      else s.updMx w.core fun m => { m with releasing := true })

/-- MATRIX_RELEASE: a pending release takes effect once every accepted request has completed (R333). -/
def execMatrixRelease (core : Nat) (s : State) : Host.Outcome State Fault Refusal :=
  .next (if (s.mx core).releasing && decide (s.mxUsed core = 0) then s.updMx core fun _ => Matrix.free else s)

/-! ### Convergence registers (R336) -/

def Cv.zero : Cv := { members := 0, count := 0 }
def State.cv (s : State) (b n : Nat) : Cv := mget Cv.zero (s.blk b).cvs n
def State.setCv (s : State) (b n : Nat) (c : Cv) : State := s.updBlk b fun x => { x with cvs := mput x.cvs n c }

/-- CVSET (R336). (DEDUCED, log 47.) -/
def execCvset (x : FA) (s : State) : Host.Outcome State Fault Refusal :=
  let u : Use := { rds := [Rd.ss 1 x.a .n32], dst := none, k := x.ext.getD 0 }
  s.issueOps (.cvset x) u fun w vals s =>
    let n := vals 1 (nth 0 w.lanes 0)
    if 1024 < n then .trap (Trap.whole .bound 8 0) s
    else (s.setCv w.wid.blk x.d.toNat { members := n, count := 0 }).finish w u w.lanes [] 0

/-! ### Issue (R338, R348, R349, R351) -/

/-- What it reads and writes. -/
def mmaUse (x : FM) : Use := { rds := [Rd.ss 1 x.a .n32, Rd.ss 2 x.b .n32], dst := none, k := 0 }
/-- MMA (R338). -/
def execMma (x : FM) (s : State) : Host.Outcome State Fault Refusal :=
  s.issueOps (.mma x) (mmaUse x) fun w vals s =>
    s.request w (.mma x) 2 false vals [s.record w.wid.blk x.tr.toNat, s.record w.wid.blk (x.xmod.toNat % 64)] []

/-- MZERO (R348). -/
def execMzero (x : FA) (s : State) : Host.Outcome State Fault Refusal :=
  s.issueOps (.mzero x) { rds := [], dst := none, k := 0 } fun w vals s => s.request w (.mzero x) 0 false vals [] []

/-- What it reads and writes. -/
def mldUse (x : FM) : Use := { rds := Rd.ss 1 x.a .n32 :: barRd (x.hd.md.getLsbD 3) x.c, dst := none, k := 0 }
/-- MLD in its memory form (R349, R350). -/
def execMld (x : FM) (s : State) : Host.Outcome State Fault Refusal :=
  s.issueOps (.mld x) (mldUse x) fun w vals s => s.request w (.mld x) 3 false vals [s.record w.wid.blk x.tr.toNat] []

/-- What it reads and writes. -/
def mldVUse (x : FM) : Use := { rds := [Rd.vs 1 x.a .b32, Rd.ss 2 x.b .n32], dst := none, k := 0 }
/-- MLD in its register form (R351). -/
def execMldV (x : FM) (s : State) : Host.Outcome State Fault Refusal :=
  s.issueOps (.mldV x) (mldVUse x) fun w vals s => s.request w (.mldV x) 2 true vals [] []

/-- What it reads and writes. -/
def mstUse (x : FM) : Use :=
  { rds := Rd.ss 1 x.a .n32 :: barRd (x.hd.md.getLsbD 3) x.c, dst := some (Dst.sd x.d .b32), k := 0 }
/-- MST (R349, R350). -/
def execMst (x : FM) (s : State) : Host.Outcome State Fault Refusal :=
  s.issueOps (.mst x) (mstUse x) fun w vals s =>
    s.request w (.mst x) 3 false vals [s.record w.wid.blk x.tr.toNat] [x.d.toNat]

/-! ### Acceptance (R335, R347) -/

/-- A tile that a request names: its record's number and contents, its origin, rows and columns, how it is accessed, and the
formats that it may have. -/
structure MxTile where
  num : Nat
  rec_ : BitVec 256
  origin : Int
  nx : Nat
  ny : Nat
  acc : Acc
  formats : List Ty

/-- Step 2 of R347 refuses a record. -/
def MxTile.bad (t : MxTile) : Bool :=
  recInvalid t.rec_ || !t.formats.contains (recFmt t.rec_) ||
    (decide (recFmt t.rec_ = .q4) &&
      (decide (recExt0 t.rec_ % 32 ≠ 0) || decide (recBmode t.rec_ = 3) || decide ((coords t.rec_ t.origin).1 % 32 ≠ 0)))

/-- Step 3 of R347: the rows of each record. -/
def State.mxRows (s : State) (w : WaveId) : List MxTile → Except (Trap × State) (List Tile × State)
  | [] => .ok ([], s)
  | t :: rest =>
    match s.requestRows w t.num t.rec_ with
    | .error e => .error e
    | .ok (rows, s) =>
      match State.mxRows s w rest with
      | .error e => .error e
      | .ok (ts, s) => .ok (Tile.at_ t.rec_ rows t.origin :: ts, s)

/-- The block does not hold the engine (R335). -/
def State.mxBusy (s : State) (w : Iss) : Bool := decide ((s.mx w.core).holder ≠ some w.wid.blk)

/-- A trap of the matrix engine that no address goes with. -/
def mxTrap (c : Cause) (sub : Nat) : Trap := engineTrap c sub 0 0

/-- The checks of R347 on a request: its tiles, with where they lie, or a trap. -/
def State.mxChecks (s : State) (w : Iss) (p : PendWave) (bar : Bool) (ga : Nat) (ts : List MxTile) :
    Except (Trap × State) (List Tile × List (Nat × Place) × State) :=
  let t := w.wid.thread p.low
  if s.mxBusy w then .error (mxTrap .mxbusy 0, s)
  else if ts.any MxTile.bad then .error (mxTrap .bound 3, s)
  else
    match s.mxRows w.wid ts with
    | .error e => .error e
    | .ok (tiles, s) =>
      let each := ts.zip tiles
      let data := each.flatMap fun q => q.2.touches q.1.acc q.1.nx q.1.ny 1
      let all := data ++ barTouch bar ga
      let out := if each.any fun q => q.2.outside q.1.nx q.1.ny 1 then some (mxTrap .bound 0) else none
      match firstTrap [out, s.alignTrap t all, s.gateTrap t all, s.pageTrap t all, s.barAgrees t bar ga] with
      | some tr => .error (tr, s)
      | none =>
        match s.raceTouches t data with
        | .error tr => .error (tr, s)
        | .ok s =>
          let m := s.placesOf t all
          .ok (tiles.map fun x => { x with map := m }, m, s)

/-- Accept a MZERO. -/
def acceptMzero (x : FA) (w : Iss) (_p : PendWave) (s : State) : Answer :=
  if s.mxBusy w then .trap (mxTrap .mxbusy 0) s
  else if mxQueue ≤ s.mxUsed w.core then .full
  else .done (s.mxAccept w (.zero (x.a.code.toNat % 16)))

/-- Accept an MLD in its register form. -/
def acceptMldV (_x : FM) (w : Iss) (p : PendWave) (s : State) : Answer :=
  let j := p.sval 2
  if s.mxBusy w then .trap (mxTrap .mxbusy 0) s
  else if 255 < j then .trap (mxTrap .bound 8) s
  else if mxQueue ≤ s.mxUsed w.core then .full
  else .done (s.mxAccept w (.loadV j (p.lanes.map fun l => (l, BitVec.ofNat 32 (p.val 1 l)))))

/-- The tile of an MLD or MST (R349). -/
def moveTile (x : FM) (p : PendWave) (acc : Acc) : MxTile :=
  let d := mxDims (x.hd.md.toNat % 4)
  { num := x.tr.toNat, rec_ := p.rec_ 0, origin := ((p.sval 1 : Nat) : Int) + sextN x.ofs.toNat 32, nx := d.2.1, ny := d.1
    acc := acc, formats := [.f32, .b32] }

/-- Accept an MLD in its memory form. -/
def acceptMld (x : FM) (w : Iss) (p : PendWave) (s : State) : Answer :=
  let bar := x.hd.md.getLsbD 3
  match s.mxChecks w p bar (p.sval 3) [moveTile x p .eread] with
  | .error (tr, s) => .trap tr s
  | .ok (ts, m, s) =>
    if mxQueue ≤ s.mxUsed w.core then .full
    else
      .done (s.mxAccept w
        (.load (x.hd.md.toNat % 4) (x.hd.md.toNat / 16) (nth (Tile.whole 0 0) ts 0) (barOf m bar (p.sval 3))))

/-- Accept an MST. -/
def acceptMst (x : FM) (w : Iss) (p : PendWave) (s : State) : Answer :=
  let bar := x.hd.md.getLsbD 3
  match s.mxChecks w p bar (p.sval 3) [moveTile x p .ewrite] with
  | .error (tr, s) => .trap tr s
  | .ok (ts, m, s) =>
    if mxQueue ≤ s.mxUsed w.core then .full
    else
      .done (s.mxAccept w
        (.store (x.hd.md.toNat % 4) (x.hd.md.toNat / 16) (nth (Tile.whole 0 0) ts 0) (max 1 (scopeOf x.scope (p.rec_ 0)))
          (tokenOf x.d) (barOf m bar (p.sval 3))))

/-- The formats of `TY`'s class, and its shape (R332). -/
def mmaFormats (t : Ty) : List Ty :=
  match t with
  | .f16 => [.f16, .bf16]
  | .bf16 => [.f16, .bf16]
  | .e4m3 => [.e4m3, .e5m2]
  | .e5m2 => [.e4m3, .e5m2]
  | _ => [.q4]

/-- Tiles A and B of an MMA (R339). -/
def mmaTiles (x : FM) (p : PendWave) : List MxTile :=
  let d := mxDims ((mmaShape x.hd.ty).getD 0)
  let k := x.ofs.toNat
  [{ num := x.tr.toNat, rec_ := p.rec_ 0, origin := p.sval 1, nx := k, ny := d.1, acc := .eread, formats := mmaFormats x.hd.ty },
   { num := x.xmod.toNat % 64, rec_ := p.rec_ 1, origin := p.sval 2, nx := k, ny := d.2.1, acc := .eread
     formats := mmaFormats x.hd.ty }]

/-- Steps 1 to 3 of R337 for a signed MMA: its convergence register is set, and the wave commits at `.blk`. (DEDUCED, log 47.) -/
def State.signCommit (s : State) (x : FM) (w : Iss) : Except (Trap × State) State :=
  if !x.hd.md.getLsbD 3 then .ok s
  else if (s.cv w.wid.blk x.d.toNat).members = 0 then .error (mxTrap .bound 9, s)
  else
    match (s.orderLoads w.wid).commit w.wid 1 with
    | none => .error (wbovf w 0, s)
    | some s => .ok s

/-- The request that an MMA makes once its checks have passed. -/
def State.mmaReady (s : State) (x : FM) (w : Iss) (p : PendWave) : Except (Trap × State) (MxOp × State) :=
  match p.ready with
  | some (.mx op) => .ok (op, s)
  | _ =>
    match s.mxChecks w p false 0 (mmaTiles x p) with
    | .error e => .error e
    | .ok (ts, _, s) =>
      match s.signCommit x w with
      | .error e => .error e
      | .ok s =>
        .ok (.mma x.hd.ty (x.hd.md.toNat / 16) x.ofs.toNat (x.hd.md.getLsbD 2) (nth (Tile.whole 0 0) ts 0)
          (nth (Tile.whole 0 0) ts 1), s)

/-- Threads sign one after another; the lanes that have signed, and the state (R337). The signature that brings the count to
the member count makes the request, for which it waits while the engine is full. (DEDUCED, log 47.) -/
def State.sign (s : State) (w : Iss) (n : Nat) (op : MxOp) : List Nat → List Nat × State
  | [] => ([], s)
  | l :: t =>
    let c := s.cv w.wid.blk n
    let last := decide ((c.members : Int) ≤ c.count + 1)
    if last && Nat.ble mxQueue (s.mxUsed w.core) then ([], s)
    else
      let s' := if last then (s.setCv w.wid.blk n { c with count := 0 }).mxAccept w op
                else s.setCv w.wid.blk n { c with count := c.count + 1 }
      let r := State.sign s' w n op t
      (l :: r.1, r.2)

/-- Accept an MMA (R337, R338). -/
def acceptMma (x : FM) (w : Iss) (p : PendWave) (s : State) : Answer :=
  match s.mmaReady x w p with
  | .error (tr, s) => .trap tr s
  | .ok (op, s) =>
    if x.hd.md.getLsbD 3 then
      let left := p.lanes.filter fun l => !p.done.contains l
      let r := s.sign w x.d.toNat op left
      if r.1.length = left.length then .done r.2 else .part r.1 (.mx op) r.2
    else if mxQueue ≤ s.mxUsed w.core then .full
    else .done (s.mxAccept w op)

/-! ### Execution (R340 to R344, R348, R350, R351) -/

/-- The value of an operand element; one out of bounds is +0 (R339, R341). -/
def State.mxValue (s : State) (w : WaveId) (t : Tile) (x y : Nat) : FVal :=
  match s.tileElem w t x y 0 with
  | none => .fin false 0 0
  | some v => elemValue (recFmt t.tr) v.1 v.2

/-- One multiply-add of an accumulator, with the flags that it raises (R341). (DEDUCED, log 26.) -/
def mxStep (c : Nat × Nat) (x y : FVal) : Nat × Nat :=
  let p := x.mul y
  let t := (fmtF32.value c.1).add p.1 .rne
  let r := fmtF32.deliver t.1 .rne false 0
  (r.1, c.2 ||| snanFlag [x, y] ||| p.2 ||| t.2 ||| r.2)

/-- The sum of one accumulator over a row of A and a column of B, k ascending. (DEDUCED, log 26.) -/
def mxSum (c : Nat × Nat) : List (FVal × FVal) → Nat × Nat
  | [] => c
  | q :: t => mxSum (mxStep c q.1 q.2) t

/-- The flags that the matrix engine keeps (R344). (DEDUCED, log 26.) -/
def mxFlags : Nat := flNV + flOF + flUF + flNX

/-- Execute an MMA. (DEDUCED, log 46.) -/
def State.mxMma (s : State) (core : Nat) (w : WaveId) (ty : Ty) (slot k : Nat) (z : Bool) (a b : Tile) : State :=
  let shape := (mmaShape ty).getD 0
  let d := mxDims shape
  let ra := (List.range d.1).map fun m => (List.range k).map fun i => s.mxValue w a i m
  let rb := (List.range d.2.1).map fun n => (List.range k).map fun i => s.mxValue w b i n
  let old := s.mx core
  let res := (tileList shape).map fun q =>
    let i := accIndex shape slot q.1 q.2
    (i, mxSum (if z then 0 else (old.get i).toNat, 0) ((nth [] ra q.1).zip (nth [] rb q.2)))
  s.updMx core fun x =>
    { x with
      acc := res.foldl (fun m r => mput m r.1 (BitVec.ofNat 32 r.2.1)) x.acc
      flags := res.foldl (fun f r => f ||| (r.2.2 &&& mxFlags)) x.flags }

/-- Execute an MLD in its memory form: elements out of bounds write +0. (DEDUCED, log 46.) -/
def State.mxLoad (s : State) (core : Nat) (w : WaveId) (shape slot : Nat) (t : Tile) : State :=
  let res := (tileList shape).map fun q =>
    (accIndex shape slot q.1 q.2, ((s.tileElem w t q.2 q.1 0).getD (0, 0)).1)
  s.updMx core fun x => { x with acc := res.foldl (fun m r => mput m r.1 (BitVec.ofNat 32 r.2)) x.acc }

/-- An MST writes its in-bounds elements, but for those in sectors that an error leaves unwritten (R350, R294). (DEDUCED, log 46.) -/
def State.mxStore (s : State) (core : Nat) (w : WaveId) (shape slot : Nat) (t : Tile) (level : Nat) (bad : List Nat) : State :=
  let acc := s.mx core
  (tileList shape).foldl (fun s q =>
    if q.2 < t.used q.1 0 (q.2 + 1) then
      match dataAddr t.tr (t.x + q.2) (t.y + q.1) t.z with
      | .at_ ga =>
        if bad.contains (ga / 32) then s
        else s.writeGa w level t.map ga (toBytes 4 (acc.get (accIndex shape slot q.1 q.2)).toNat)
      | _ => s
    else s) s

/-- Execute the oldest request of an engine; `bad` holds the sectors that an uncorrectable error strikes. (DEDUCED, log 46.) -/
def State.mxExec (s : State) (core : Nat) (r : MxReq) (bad : List Nat) : State :=
  let fail := s.ctxFault (s.blk r.wid.blk).ctx
  match r.op with
  | .mma ty slot k z a b => if bad.isEmpty then s.mxMma core r.wid ty slot k z a b else fail
  | .zero mask => s.updMx core fun x =>
      { x with acc := x.acc.filter fun p => !mask.testBit (p.1 / 4096) }
  | .load shape slot t bar =>
    if !bad.isEmpty then fail
    else
      let s := s.mxLoad core r.wid shape slot t
      let id_ := s.nextId
      State.addCredit { s with nextId := id_ + 1 } bar (4 * (tileList shape).length) id_
  | .loadV j vals => s.updMx core fun x =>
      { x with acc := vals.foldl (fun m v => mput m (64 * j + v.1) v.2) x.acc }
  | .store shape slot t level token bar =>
    let s := s.mxStore core r.wid shape slot t level bad
    let id_ := s.nextId
    let m : Mst := { core := core, wid := r.wid, issuers := r.issuers, token := token, code := if bad.isEmpty then 0 else 2
                     flags := (s.mx core).flags, sent := s.ns }
    let s : State := { s with msts := mput s.msts id_ m, nextId := id_ + 1 }
    (s.updMx core fun x => { x with flags := 0 }).addCredit bar (4 * (tileList shape).length) id_

/-- The requests of an engine once the oldest has left them: the next one sends its own reads from now on (R384). (DEDUCED, log 49.) -/
def nextHeard (now : Nat) : List MxReq → List MxReq
  | [] => []
  | r :: t => { r with heard := now } :: t

/-- MATRIX_REQUEST: the oldest accepted request of an engine is executed (R343). (DEDUCED, log 46.) -/
def execMatrixRequest (core : Nat) (bad : List Nat) (s : State) : Host.Outcome State Fault Refusal :=
  .next (match (s.mx core).queue with
    | [] => s
    | r :: t => (s.updMx core fun x => { x with queue := nextHeard s.ns t }).mxExec core r bad)

/-- MST_COMPLETE: every byte has been credited, and the token reports the matrix flags (R350). -/
def execMstComplete (id : Nat) (s : State) : Host.Outcome State Fault Refusal :=
  .next (match mfind s.msts id with
    | none => s
    | some m =>
      if !s.credited id then s
      else
        let code := if s.creditRefused id ∧ m.code = 0 then 3 else m.code
        let s : State := { s.dropCredits id with msts := mdel s.msts id }
        s.setToken m.wid m.issuers m.token (code * 2 ^ 24 + m.flags))

end Sys2Proof.Machine
end

