-- ==== Sys2Proof/Machine/MemorySide.lean ====
section
/-! DEFINITION. The memory-side engine: MATOM, MRED, queue bindings, and the steps of its requests and rings (spec/12_memory_side.md R355 to R370). -/

namespace Sys2Proof.Machine

open Sys2Proof

/-! ### MATOM and MRED (R356 to R359) -/

/-- One lane's place: the element must lie in the global space, off the hardware-only pages, on a page that can be read and
written, checked in this order (R358; `State.translate` checks the last two). -/
def State.msAccess (s : State) (w : WaveId) (size l : Nat) (e : Elem) : Except Trap (Option Place × State) :=
  match e with
  | .at_ ga =>
    if ga % size = 0 ∧ ga.testBit 63 = true then .error (Trap.lane_ .prot 2 3 ga l)
    else s.access w .atomic 2 size l e
  | _ => s.access w .atomic 2 size l e

/-- One lane hands its atomic to the engine of its home. -/
def State.msLane (s : State) (w : WaveId) (m : FM) (op group : Nat) (dest : Option Nat) (b c l : Nat) (e : Elem) :
    Except Trap (LaneSrc × State) :=
  match s.msAccess w (elemBytes m.hd.ty) l e with
  | .error tr => .error tr
  | .ok (none, s) => .ok (.known 0, s.useFence (w.thread l))
  | .ok (some p, s) =>
    let r : MsReq := { wid := w, group := group, lane := l, place := p, ty := m.hd.ty, op := op, b := b, c := c, dest := dest,
                        sent := s.ns }
    let s : State := { s with msReqs := mput s.msReqs s.nextId r, nextId := s.nextId + 1 }
    let s := if m.ord.getLsbD 0 then s.noteRead w p.loc else s
    .ok (.pending, s.useFence (w.thread l))

/-- An acquiring form completes once every lane is performed (R358, R110). -/
def WOut.andThen (o : WOut) (f : State → State) : WOut :=
  match o with
  | .done s => .done (f s)
  | .trap tr s => .trap tr (f s)
  | o => o

/-- MATOM and MRED of a wave. -/
def State.msWave (s : State) (x : Iss) (u : Use) (m : FM) (op : Nat) (dest : Option Nat) (vals : Nat → Nat → Nat) : WOut :=
  let ty := m.hd.ty
  let r := s.record x.wid.blk m.tr.toNat
  match s.openRecord x m.tr.toNat r ty .atomic with
  | .bad tr s => .trap tr s
  | .ok rows s =>
    let elem := fun l => elementAt r rows (elemBytes ty) (laneIndex vals m.ofs l)
    let own := if m.ord.getLsbD 1 then some 4 else none
    match s.release x (s.releaseWave x own) with
    | .wait fx => .wait .onPod x.lanes fx
    | .wbovf => .trap (wbovf x 0) s
    | .ok s' =>
      match s'.commitSecs x.wid 4 (s'.namedSecs x.wid x.lanes elem) with
      | none => .trap (wbovf x 0) s
      | some s =>
        let group := s.nextId
        let s : State := { s with nextId := group + 1 }
        let run := s.pushLanes x u fun l s => s.msLane x.wid m op group dest (vals 2 l) (vals 3 l) l (elem l)
        ((run.s.finishLong x u .mside true 0 run.vals).thenTrap run.trap).andThen fun s =>
          if m.ord.getLsbD 0 then s.acquire x.wid 4 else s

/-- MATOM (R356, R358). -/
def execMatom (x : FM) (s : State) : Host.Outcome State Fault Refusal :=
  let op := x.hd.md.toNat % 16
  let u : Use := { rds := [Rd.vs 1 x.a .n32, Rd.vs 2 x.b x.hd.ty] ++ (if op = 7 then [Rd.vs 3 x.c x.hd.ty] else [])
                   dst := some (Dst.vd x.d x.hd.ty), k := 0 }
  s.issueOps (.matom x) u fun w vals s => s.msWave w u x op (some x.d.toNat) vals

/-- MRED (R356, R358). -/
def execMred (x : FM) (s : State) : Host.Outcome State Fault Refusal :=
  let u : Use := { rds := [Rd.vs 1 x.a .n32, Rd.vs 2 x.b x.hd.ty], dst := none, k := 0 }
  s.issueOps (.mred x) u fun w vals s => s.msWave w u x (x.hd.md.toNat % 16) none vals

/-- MS_ATOMIC_PERFORM: a memory-side request is performed (R358, R359). -/
def execMsAtomicPerform (id : Nat) (s : State) : Host.Outcome State Fault Refusal :=
  .next (match mfind s.msReqs id with
    | none => s
    | some r => if s.msBlocked id r then s else s.msPerform id r)

/-! ### Queue bindings (R363, R368) -/

/-- A trap of QBIND at an address. (DEDUCED, log 34.) -/
def qbindTrap (c : Cause) (sub ga : Nat) : Trap := { Trap.whole c sub 0 with acc := 3, addr := ga }

/-- A ring's record may stand at an address (R363). -/
def State.ringAddr (s : State) (ga : Nat) : Option Trap :=
  if ga % 32 ≠ 0 then some (qbindTrap .bound 4 ga)
  else if ga.testBit 63 then (if field ga 62 60 ≠ 0 then some (qbindTrap .prot 2 ga) else none)
  else (s.pkgCheck ga).map fun sub => qbindTrap .prot sub ga

/-- The ring whose record stands at an address, of `n` bytes, every byte of which can be read and written (R363). -/
def State.ringAt (s : State) (t : ThreadId) (ga n : Nat) : Except Trap RingRef :=
  if ga.testBit 63 then
    match s.resolve t ga .atomic, s.resolve t (ga + n - 1) .atomic with
    | .ok p, .ok _ => .ok { sp := p.loc.sp, first := p.loc.addr, chunks := [0] }
    | .error f, _ => .error (qbindTrap f.cause f.sub f.addr)
    | _, .error f => .error (qbindTrap f.cause f.sub f.addr)
  else
    let first := ga % 65536
    let at_ (i : Nat) : Nat := if i = 0 then ga else ga - first + 65536 * i
    let rs := (List.range ((first + n - 1) / 65536 + 1)).map fun i => (i, s.resolve t (at_ i) .atomic)
    match rs.findSome? fun r => match r.2 with
      | .error f => some (qbindTrap f.cause f.sub f.addr)
      | .ok _ => none with
    | some tr => .error tr
    | none => .ok { sp := .glob, first := first, chunks := rs.map fun r => match r.2 with
        | .ok p => p.loc.addr - (if r.1 = 0 then first else 0)
        | .error _ => 0 }

/-- The home knows a ring: its bytes are guarded (R362). -/
def State.noteRing (s : State) (r : RingRef) (n : Nat) : State :=
  { s with ringObjs := (r, n) :: s.ringObjs.filter fun x => !x.1.same r }

/-- Bytes of a ring written by its home from an offset. -/
def State.setRingBytes (s : State) (r : RingRef) (off : Nat) : List Byte → State
  | [] => s
  | b :: t => State.setRingBytes (s.setHomeByte (r.loc off) b) r (off + 1) t

/-- A ring is initialised at its home, in one update (R363, R368). -/
def State.ringInit (s : State) (r : RingRef) (n : Nat) : State :=
  let word : Nat := 2 ^ n * 2 ^ 160 + n * 8 + (if r.sp = .glob then 0 else 2) + 1
  let s := s.setRingBytes r 0 (toBytes 32 word)
  let s := s.setRingBytes r (32 + 4 * 2 ^ n) (List.replicate (2 ^ n / 8) 0xFF)
  let s : State := { s with ringElems := s.ringElems.filter fun e => !e.2.ring.same r }
  ((s.noteRing r n).ringChanged r true).ringChanged r false

/-- A queue register of a block is bound, or unbound. -/
def State.setBinding (s : State) (b q : Nat) (r : Option RingRef) : State :=
  s.updBlk b fun x => { x with queues := match r with
    | some r => mput x.queues q r
    | none => mdel x.queues q }

/-- The queue register that an operand code names. -/
def queueNo (code : Nat) : Nat := code - 896

/-- The operands of QBIND. -/
def qbindUse (x : FA) : Use := { rds := [Rd.pair 1 x.a false], dst := none, k := 0 }

/-- A record that QBIND reads holds an initialised ring (R363). -/
def State.ringValid (s : State) (r : RingRef) : Bool :=
  let b := (s.homeByte (r.loc 0)).toNat
  decide (b % 2 = 1 ∧ 6 ≤ field b 7 3 ∧ field b 7 3 ≤ 16)

/-- QBIND (R363). -/
def execQbind (x : FA) (s : State) : Host.Outcome State Fault Refusal :=
  s.issueOps (.qbind x) (qbindUse x) fun w vals s =>
    let l := nth 0 w.lanes 0
    let ga := vals 1 l
    let t := w.wid.thread l
    match s.ringAddr ga with
    | some tr => .trap tr s
    | none =>
      match s.ringAt t ga 32 with
      | .error tr => .trap tr s
      | .ok rec_ =>
        if !s.ringValid rec_ then .trap (qbindTrap .bound 11 ga) s
        else
          let n := field (s.homeByte (rec_.loc 0)).toNat 7 3
          match s.ringAt t ga (ringBytes n) with
          | .error tr => .trap tr s
          | .ok r => ((s.noteRing r n).setBinding w.wid.blk (queueNo x.d.toNat) (some r)).finish w (qbindUse x) w.lanes [] 0

/-- QBIND.init (R363, R368). -/
def execQbindInit (x : FA) (s : State) : Host.Outcome State Fault Refusal :=
  s.issueOps (.qbindInit x) (qbindUse x) fun w vals s =>
    let l := nth 0 w.lanes 0
    let ga := vals 1 l
    let n := x.b.code.toNat
    match s.ringAddr ga with
    | some tr => .trap tr s
    | none =>
      match s.ringAt (w.wid.thread l) ga (ringBytes n) with
      | .error tr => .trap tr s
      | .ok r => ((s.ringInit r n).setBinding w.wid.blk (queueNo x.d.toNat) (some r)).finish w (qbindUse x) w.lanes [] 0

/-- QBIND.off (R363). -/
def execQbindOff (x : FA) (s : State) : Host.Outcome State Fault Refusal :=
  s.issueBare (.qbindOff x) fun w s => .done (s.setBinding w.wid.blk (queueNo x.d.toNat) none)

/-- QSTAT (R367). -/
def execQstat (x : FA) (s : State) : Host.Outcome State Fault Refusal :=
  let u : Use := { rds := [], dst := some (Dst.sd x.d .b32), k := 0 }
  s.issueOps (.qstat x) u fun w _ s =>
    match s.binding w.wid.blk (queueNo x.a.code.toNat) with
    | none => .trap (Trap.whole .bound 10 0) s
    | some r =>
      let off := nth rFREE [rFREE, rAVAIL, rPSTALL, rQSTALL] x.b.code.toNat
      s.finish w u w.lanes [(nth 0 w.lanes 0, s.ringWord r off)] 0

/-! ### Steps of the rings (R364, R365) -/

/-- RING_ELEMENT_LAND: an element whose value has come lands in its slot (R364). -/
def execRingElementLand (id : Nat) (s : State) : Host.Outcome State Fault Refusal :=
  .next (match mfind s.ringElems id with
    | none => s
    | some e =>
      match e.value with
      | none => s
      | some v =>
        let s : State := { s with ringElems := mdel s.ringElems id }
        if s.frozen e.ring.sp then s else s.ringLand e.ring e.index v)

/-- A thread sleeps on a ring of the given kind. -/
def Wait.onRing (push : Bool) (q : Nat) (x : Wait) : Bool :=
  match x with
  | .onPush k => push && k == q
  | .onPop k => !push && k == q
  | _ => false

/-- RING_WAKE: the wake notice of a change reaches the oldest waiter, whose threads try again (R365). -/
def execRingWake (id : Nat) (s : State) : Host.Outcome State Fault Refusal :=
  .next (match s.ringWaits.find? fun x => x.id == id && x.notice with
    | none => s
    | some x =>
      let s : State := { s with ringWaits := s.ringWaits.map fun y => if y.id = id then { y with notice := false } else y }
      s.wakeWave x.wid (Wait.onRing x.push x.queue))

end Sys2Proof.Machine
end

