-- ==== Sys2Proof/Machine/Exit.lean ====
section
/-! DEFINITION. EXIT and EXIT.CHAIN (spec/05_sequencer.md R189; spec/06_registers.md R210; spec/03_memory_model.md R95). -/

namespace Sys2Proof.Machine

open Sys2Proof

/-- The name lies in the chain range of a launch (R145, R228). -/
def Launch.inChain (l : Launch) (n : Nat) : Bool := decide (l.chf ≤ n ∧ n < l.chf + l.chn)

/-- Live bits of lanes clear in every row but those of the names that `stay` names, and rows that empty are freed (R210). -/
def Wave.exitLanes (w : Wave) (mask : BitVec 64) (stay : Nat → Bool) : Wave :=
  let leave (p : Nat × VReg) : Nat × VReg := if stay p.1 then p else (p.1, { p.2 with live := p.2.live &&& ~~~mask })
  Wave.freeRows { w with vregs := w.vregs.map leave }

/-- The chain range of a wave is freed (R189). -/
def Wave.freeChain (w : Wave) (l : Launch) : Wave := w.exitLanes (BitVec.allOnes 64) fun n => !l.inChain n

/-- The effects of the exit of a wave's last live thread: its batch is sealed, it drops out of its objects, and its chain
range is handed over or freed (R189, R295, R306). -/
def State.lastExit (s : State) (w : WaveId) (chain : Bool) : State :=
  let l := s.launchOf w.blk
  let s := (s.seal w).exitDrops w
  let s := if chain then s.updBlk w.blk fun b => { b with chained := insertN w.wv b.chained }
           else s.updWave w fun x => x.freeChain l
  if (s.blk w.blk).waves.all fun p => p.2.liveLanes.isEmpty then s.updBlk w.blk fun b => { b with exited := true } else s

/-- Threads of a wave exit; none when the commit of the last one finds no room (R95, R189). -/
def State.exitThreads (s : State) (x : Iss) (chain : Bool) : Option State :=
  let l := s.launchOf x.wid.blk
  let chain := chain && decide (0 < l.chn)
  let last := (s.wave x.wid).liveLanes.all x.lanes.contains
  let leave (s : State) : State :=
    let s := s.updThreads x.wid x.lanes fun t => { t with live := false, wait := .ready, fence := none, ready := s.cycle }
    s.updWave x.wid fun w => w.exitLanes (laneMask x.lanes) fun n => chain && l.inChain n
  if last then ((s.orderLoads x.wid).commit x.wid 1).map fun s => (leave s).lastExit x.wid chain
  else some (leave s)

/-- The trap of the exit commit: whole, at the lowest participating lane (R97). -/
def exitTrap : Trap := Trap.whole .wbovf 0 0

/-- EXIT (R189). -/
def execExit (x : FA) (s : State) : Host.Outcome State Fault Refusal :=
  s.issueBare (.exit x) fun w s =>
    match s.exitThreads w false with
    | none => .trap exitTrap s
    | some s => .done s

/-- EXIT.CHAIN (R189, R145). -/
def execExitChain (x : FA) (s : State) : Host.Outcome State Fault Refusal :=
  s.issueBare (.exitChain x) fun w s =>
    match s.exitThreads w true with
    | none => .trap exitTrap s
    | some s => .done s

end Sys2Proof.Machine
end

