-- ==== Sys2Proof/Machine/Fabric.lean ====
section
/-! DEFINITION. The substrate fabric engine: FMLD, FPERM, and requests parked at their target (spec/13_substrate_fabric.md). -/

namespace Sys2Proof.Machine

open Sys2Proof

/-! ### FMLD (R381) -/

/-- The member elements that an address names through an aperture page. -/
def State.memberLocs (s : State) (ctx ga size l : Nat) : Except Trap (List (List Loc)) :=
  let bad (c : Cause) (sub : Nat) : Except Trap (List (List Loc)) := .error (Trap.lane_ c sub 1 ga l)
  if ga % size ≠ 0 then bad .bound 4
  else if ga.testBit 63 then bad .prot 6
  else
    match s.pkgCheck ga with
    | some sub => bad .prot sub
    | none =>
      match (s.ctx ctx).pageOf (ga % 2 ^ 56) with
      | none => bad .page 0
      | some (v, p) =>
        if !pageAper p.entry then bad .prot 6
        else if !p.entry.getLsbD 2 then bad .prot 0
        else .ok (p.members.map fun m => Loc.span { sp := .glob, addr := pagePA m + (ga % 2 ^ 56 - v * 65536) } size)

/-- The members' places that an FMLD reads, each with its page's entry. -/
def State.memberPlaces (s : State) (ctx ga : Nat) : List Place :=
  match (s.ctx ctx).pageOf (ga % 2 ^ 56) with
  | none => []
  | some (v, p) => p.members.map fun m =>
      { loc := { sp := .glob, addr := pagePA m + (ga % 2 ^ 56 - v * 65536) }, entry := m }

/-- The member reads of an FMLD lane are engine reads that the race detector checks (R123, R381). -/
def State.raceMembers (s : State) (w : WaveId) (ga : Nat) : List Place → RaceOut
  | [] => .ok s
  | p :: t =>
    match s.raceCheck w p 3 ga with
    | .race => .race
    | .ok s => State.raceMembers s w ga t

/-- One lane of an FMLD. (DEDUCED, log 38.) -/
def State.fmldLane (s : State) (w : WaveId) (op : Nat) (ty : Ty) (l : Nat) (e : Elem) : Except Trap (LaneSrc × State) :=
  match e with
  | .out => .ok (.known 0, s)
  | .fault c sub => .error (Trap.lane_ c sub 1 0 l)
  | .at_ ga =>
    match s.memberLocs (s.blk w.blk).ctx ga (elemBytes ty) l with
    | .error tr => .error tr
    | .ok ms =>
      match s.raceMembers w ga (s.memberPlaces (s.blk w.blk).ctx ga) with
      | .race => .error (Trap.lane_ .race 0 1 ga l)
      | .ok s => .ok (.reduce op ty ms, s)

/-- FMLD (R381). (DEDUCED, log 38.) -/
def execFmld (x : FM) (s : State) : Host.Outcome State Fault Refusal :=
  let ty := x.hd.ty
  let u : Use := { rds := [Rd.vs 1 x.a .n32], dst := some (Dst.vd x.d ty), k := 0 }
  s.issueOps (.fmld x) u fun w vals s =>
    let r := s.record w.wid.blk x.tr.toNat
    match s.openRecord w x.tr.toNat r ty .load with
    | .bad tr s => .trap tr s
    | .ok rows s =>
      let run := s.pushLanes w u fun l s => s.fmldLane w.wid (x.hd.md.toNat % 4) ty l
        (elementAt r rows (elemBytes ty) (laneIndex vals x.ofs l))
      ((run.s.finishLong w u .fmld true 0 run.vals).thenTrap run.trap).andThen fun s =>
        if x.ord.getLsbD 0 then s.acquire w.wid 4 else s

/-! ### Shard maps (R385) -/

/-- The header of a shard map: its axis and its member count, none when it is not valid. -/
def mapHeader (h : Nat) : Option (Nat × Nat) :=
  if field h 255 10 ≠ 0 ∨ field h 9 8 = 3 ∨ field h 7 0 = 0 ∨ 64 < field h 7 0 then none
  else some (field h 9 8, field h 7 0)

def shardOf (e : Nat) : Shard :=
  { base := field e 255 192, str2 := field e 191 164, str1 := field e 163 136, ext := field e 127 96 }

/-- A member entry has zeros in its reserved bits. -/
def shardClean (e : Nat) : Bool := decide (field e 135 128 = 0 ∧ field e 95 0 = 0)

/-- The extent of a tensor along an axis. -/
def extOf (r : BitVec 256) (axis : Nat) : Nat := nth 0 [recExt0 r, recExt1 r, recExt2 r] axis

/-- The member that holds an axis coordinate, and the coordinate in it. -/
def findShard : List Shard → Nat → Option (Shard × Nat)
  | [], _ => none
  | m :: t, c => if c < m.ext then some (m, c) else findShard t (c - m.ext)

/-- Address of a logical element under a map. -/
def ShardMap.addr (m : ShardMap) (es x y z : Nat) : Elem :=
  match findShard m.members (nth 0 [x, y, z] m.axis) with
  | none => .out
  | some (h, c) =>
    let x' := if m.axis = 0 then c else x
    let y' := if m.axis = 1 then c else y
    let z' := if m.axis = 2 then c else z
    baseAddr h.base ((x' * es + 16 * (y' * h.str1 + z' * h.str2) : Nat) : Int)

/-- The ranges of a member of a map of a tensor, row by row. -/
def ShardMap.memberTouches (m : ShardMap) (r : BitVec 256) (es : Nat) (acc : Acc) (h : Shard) : List Touch :=
  let n (axis : Nat) : Nat := if m.axis = axis then h.ext else extOf r axis
  let at_ (x : Nat) (q : Nat × Nat) : Elem := baseAddr h.base ((x * es + 16 * (q.1 * h.str1 + q.2 * h.str2) : Nat) : Int)
  if n 0 = 0 then []
  else (rowList (n 1) (n 2)).map fun q => touchOf (at_ 0 q) (at_ (n 0 - 1) q) (n 0 * es) es acc

def ShardMap.touches (m : ShardMap) (r : BitVec 256) (es : Nat) (acc : Acc) : List Touch :=
  m.members.flatMap (m.memberTouches r es acc)

/-! ### Acceptance of an FPERM (R387, R288) -/

/-- The engine's checks of one range that it reads at an address of the global space of this package. -/
def State.mapTrap (s : State) (t : ThreadId) (ga len : Nat) : Option Trap :=
  let ts : List Touch := [{ ga := ga, len := len, align := 32, acc := .eread, bad := false }]
  if ga % 32 ≠ 0 then some (engineTrap .bound 4 5 (s.effGa t ga))
  else if ga.testBit 63 then some (engineTrap .prot 2 5 ga)
  else firstTrap [s.gateTrap t ts, s.pageTrap t ts]

/-- Bytes of a map that an engine reads. (DEDUCED, log 48.) -/
def State.readMap (s : State) (t : ThreadId) (ga len : Nat) : Nat :=
  ofBytes (s.readGa t.wid (s.placesOf t [{ ga := ga, len := len, align := 1, acc := .eread, bad := false }]) ga len)

/-- The read of a map at an address is checked, also by the race detector (R123, R387). -/
def State.mapRead (s : State) (t : ThreadId) (ga len : Nat) : Except Trap State :=
  match s.mapTrap t ga len with
  | some tr => .error tr
  | none => s.raceTouches t [{ ga := ga, len := len, align := 1, acc := .eread, bad := false }]

/-- Read a shard map of a tensor; the state holds what the race detector logged. -/
def State.shardMap (s : State) (t : ThreadId) (ga : Nat) (r : BitVec 256) : Except Trap (ShardMap × State) :=
  let bad : Except Trap (ShardMap × State) := .error (engineTrap .bound 3 0 0)
  match s.mapTrap t ga 32 with
  | some tr => .error tr
  | none =>
    match mapHeader (s.readMap t ga 32) with
    | none => bad
    | some (axis, n) =>
      match s.mapRead t ga (32 + 32 * n) with
      | .error tr => .error tr
      | .ok s' =>
        let es := (List.range n).map fun j => s.readMap t (ga + 32 + 32 * j) 32
        let m : ShardMap := { axis := axis, members := es.map shardOf }
        if es.all shardClean && decide ((m.members.map (·.ext)).foldl (· + ·) 0 = extOf r axis) then .ok (m, s') else bad

/-- A member's base is refused (R387). -/
def State.baseTrap (s : State) (ctx : Nat) (acc : Acc) (h : Shard) : Option Trap :=
  if h.base.testBit 63 then some (engineTrap .prot 2 acc.code h.base)
  else
    match s.pkgCheck h.base with
    | some sub => some (engineTrap .prot sub acc.code h.base)
    | none =>
      match (s.ctx ctx).pageOf (h.base % 2 ^ 56) with
      | some (_, p) => if pageAper p.entry then some (engineTrap .prot 6 acc.code h.base) else none
      | none => none

/-- The checks of an FPERM once its maps have been read. (DEDUCED, log 48.) -/
def State.fpermTrap (s : State) (t : ThreadId) (r : BitVec 256) (es : Nat) (src dst : ShardMap) (bar : Bool) (ga : Nat) :
    Option Trap :=
  let ctx := (s.blk t.blk).ctx
  let ts := src.touches r es .eread ++ barTouch bar ga
  let lows := (src.members ++ dst.members).map fun h => (h.base, decide (h.base % es ≠ 0))
  let low := (lows.find? fun q => q.2).map fun q => engineTrap .bound 4 5 q.1
  let bases := firstTrap (src.members.map (s.baseTrap ctx .eread) ++ dst.members.map (s.baseTrap ctx .ewrite))
  let big := if 2 ^ 32 ≤ recExt0 r * recExt1 r * recExt2 r * es then some (engineTrap .bound 8 5 0) else none
  let out := ((dst.touches r es .ewrite).find? (·.bad)).map fun _ => engineTrap .prot 4 6 0
  firstTrap [low, s.alignTrap t (barTouch bar ga), bases, big, out, s.gateTrap t ts, s.pageTrap t ts, s.barAgrees t bar ga]

/-- What it reads and writes. -/
def fpermUse (x : FM) : Use :=
  { rds := [Rd.pair 1 x.a false, Rd.pair 2 x.b false] ++ barRd (x.hd.md.getLsbD 5) x.c, dst := some (Dst.sd x.d .b32), k := 0 }
/-- FPERM (R386). -/
def execFperm (x : FM) (s : State) : Host.Outcome State Fault Refusal :=
  s.issueOps (.fperm x) (fpermUse x) fun w vals s =>
    s.request w (.fperm x) 3 false vals [s.record w.wid.blk x.tr.toNat] [x.d.toNat]

/-- Accept an FPERM (R387). -/
def acceptFperm (x : FM) (w : Iss) (p : PendWave) (s : State) : Answer :=
  let t := w.wid.thread p.low
  let r := p.rec_ 0
  let es := elemBytes (recFmt r)
  let bar := x.hd.md.getLsbD 5
  if recInvalid r || decide (recFmt r = .q4) then .trap (engineTrap .bound 3 0 0) s
  else
    match s.shardMap t (p.sval 1) r with
    | .error tr => .trap tr s
    | .ok (src, s) =>
      match s.shardMap t (p.sval 2) r with
      | .error tr => .trap tr s
      | .ok (dst, s) =>
        match s.fpermTrap t r es src dst bar (p.sval 3) with
        | some tr => .trap tr s
        | none =>
          let ts := src.touches r es .eread
          match s.raceTouches t ts with
          | .error tr => .trap tr s
          | .ok s =>
            let m := s.placesOf t (ts ++ barTouch bar (p.sval 3))
            let f : Fperm := { wid := w.wid, issuers := w.lanes, core := w.core, token := tokenOf x.d, level := max 1 (scopeOf x.scope r)
                               es := es, ext0 := recExt0 r, ext1 := recExt1 r, ext2 := recExt2 r, src := src, dst := dst
                               map := m, got := [], landed := [], heard := [], bar := barOf m bar (p.sval 3), code := 0
                               sent := s.ns, ticket := p.ticket, perm := none }
            .done { s with fperms := mput s.fperms s.nextId f, nextId := s.nextId + 1 }

/-! ### Pieces of an FPERM (R387, R383) -/

/-- Pieces of an FPERM: the elements of its tensor. (DEDUCED, log 48.) -/
def Fperm.pieces (f : Fperm) : Nat := f.ext0 * f.ext1 * f.ext2

/-- Address of a piece under a map. -/
def Fperm.addr (f : Fperm) (m : ShardMap) (i : Nat) : Nat :=
  match m.addr f.es (i % f.ext0) (i / f.ext0 % f.ext1) (i / f.ext0 / f.ext1) with
  | .at_ ga => ga
  | _ => 0

/-- Where a source element lies. -/
def Fperm.srcLoc (f : Fperm) (i : Nat) : Option Loc := (placeOf f.map (f.addr f.src i)).map (·.loc)

/-- Two elements share a byte. -/
def sameBytes (a b : Loc) (n : Nat) : Bool := decide (a.sp = b.sp) && overlap a.addr n b.addr n

/-- The source elements that must be read before an element is written: its own, and those that it overwrites. -/
def Fperm.needed (f : Fperm) (i : Nat) (d : Loc) : List Nat :=
  (List.range f.pieces).filter fun j => (mfind f.got j).isNone &&
    (j == i || (match f.srcLoc j with
      | some l => sameBytes l d f.es
      | none => false))

/-- Read some source elements (R30, R293). (DEDUCED, log 48.) -/
def State.fpermRead (s : State) (f : Fperm) (js : List Nat) : Fperm :=
  { f with got := js.foldl (fun m j => mput m j (ofBytes (s.readGa f.wid f.map (f.addr f.src j) f.es))) f.got }

def State.putFperm (s : State) (id : Nat) (f : Fperm) : State := { s with fperms := mput s.fperms id f }

/-- A piece has landed or failed: its bytes are credited, and the first code stays. -/
def State.pieceDone (s : State) (id : Nat) (f : Fperm) (i code : Nat) : State :=
  let f' := { f with landed := insertN i f.landed, code := if f.code = 0 then code else f.code }
  (s.putFperm id f').addCredit (if f.perm.isSome then none else f.bar) f.es id

/-- The translation of a piece at its target: an aperture page is refused as an absent one is (R380, R387). -/
def State.pieceTarget (s : State) (f : Fperm) (i : Nat) : Except AddrFault Place :=
  let ga := f.addr f.dst i
  match s.translate (s.blk f.wid.blk).ctx (ga % 2 ^ 56) ga .ewrite with
  | .ok p => if pageAper p.entry then .error { cause := .prot, sub := 6, addr := ga } else .ok p
  | e => e

/-- A piece lands at its target (R387). -/
def State.pieceLand (s : State) (id : Nat) (f : Fperm) (i : Nat) (p : Place) : State :=
  let f := s.fpermRead f (f.needed i p.loc)
  let r := s.raceCheck f.wid p 4 (f.addr f.dst i)
  let s' := match r with
    | .race => s
    | .ok s => s
  let code := match r with
    | .race => 5
    | .ok _ => 0
  (s'.engineWrite f.wid f.level p (toBytes f.es (mget 0 f.got i))).pieceDone id f i code

/-- The die at which a request is translated: the home die of a page, and one by its number of a page that is not mapped (R383).
(DESIGN CHOICE, log 87.) -/
def State.targetDie (s : State) (ctx ga : Nat) : Nat :=
  match (s.ctx ctx).pageOf (ga % 2 ^ 56) with
  | some (_, p) => pagePA p.entry / Config.homeSize
  | none => ga % 2 ^ 56 / 65536 % 64

/-- Requests that the fault queue of a die holds (R383). -/
def faultQueueMax : Nat := 256

/-- The fault queue of a request's target die has room; a request that finds none waits at its source (R383). -/
def State.parkRoom (s : State) (ctx ga : Nat) : Bool :=
  Nat.blt (s.parked.filter fun p => p.2.die == s.targetDie ctx ga).length faultQueueMax

/-- A request parks at its target, or fails there when fault service is disabled (R383). (DEDUCED, log 48.) -/
def State.park (s : State) (ctx core ga acc : Nat) (req : ParkReq) : Option State :=
  let id_ := s.nextId
  let die := s.targetDie ctx ga
  let s' : State := { s with nextId := id_ + 1 }
  (s'.pageFault ctx ga core 0xFF acc 2 (.parked id_)).map fun s =>
    { s with parked := mput s.parked id_ { ctx := ctx, die := die, req := req, since := s.ns, notice := false } }

/-- A piece reaches its target: it lands, parks or fails; it waits at its source for a place to park at. (DEDUCED, log 48.) -/
def State.pieceArrive (s : State) (id : Nat) (f : Fperm) (i : Nat) : State :=
  match s.pieceTarget f i with
  | .ok p => s.pieceLand id f i p
  | .error e =>
    let ctx := (s.blk f.wid.blk).ctx
    if (s.ctx ctx).pfEn && !s.parkRoom ctx e.addr then s
    else
      match s.park ctx f.core e.addr 6 (.piece id i) with
      | some s => s
      | none => s.pieceDone id f i 4

/-- The piece is parked. -/
def State.isParked (s : State) (req : ParkReq) : Bool := s.parked.any fun p => decide (p.2.req = req)

/-- FPERM_PIECE_ARRIVE: `err` is 0, or the code of an uncorrectable error that strikes the piece (R387). -/
def execFpermPieceArrive (id piece err : Nat) (s : State) : Host.Outcome State Fault Refusal :=
  .next (match mfind s.fperms id with
    | none => s
    | some f =>
      if f.pieces ≤ piece ∨ f.landed.contains piece = true ∨ 2 < err ∨ s.isParked (.piece id piece) = true then s
      else if err ≠ 0 then s.pieceDone id f piece err
      else s.pieceArrive id f piece)

/-- FPERM_COMPLETE: the token takes its status (R387). -/
def execFpermComplete (id : Nat) (s : State) : Host.Outcome State Fault Refusal :=
  .next (match mfind s.fperms id with
    | none => s
    | some f =>
      if f.landed.length ≠ f.pieces ∨ s.credited id = false ∨ f.perm.isSome = true then s
      else
        let code := if s.creditRefused id ∧ f.code = 0 then 3 else f.code
        let s : State := { s.dropCredits id with fperms := mdel s.fperms id }
        s.setToken f.wid f.issuers f.token (code * 2 ^ 24))

/-! ### Streams (R397, R431) -/

/-- (DEDUCED, log 11.) -/
def State.stream (s : State) (p : Nat) : Stream := mget Stream.reset s.pe.streams p
def State.updStream (s : State) (p : Nat) (f : Stream → Stream) : State :=
  { s with pe := { s.pe with streams := mput s.pe.streams p (f (s.stream p)) } }

/-- A control record for a peer that is not held back until a window opens (R431). -/
def State.urgent (s : State) (peer : Nat) (c : Ctl) : State := s.updStream peer fun x => { x with ctl := x.ctl ++ [c] }

/-- The package and the number of a parked remote entry, none when it is this package's own (R404). -/
def State.parkedSource (s : State) (id : Nat) : Option (Nat × Nat) :=
  match mfind s.pe.inbox id with
  | none => none
  | some x => if x.ctx.isSome then none else some (x.seg.head.src, x.seg.head.id)

/-! ### Keep-waiting notices and timeouts (R383, R384) -/

/-- Nanoseconds between the keep-waiting notices of a parked request. -/
def noticeGap : Nat := 2000

/-- KEEP_WAITING_SEND: a parked request sends its notice every 2 microseconds (R383). -/
def execKeepWaitingSend (id : Nat) (s : State) : Host.Outcome State Fault Refusal :=
  .next (match mfind s.parked id with
    | none => s
    | some p =>
      if s.ns < p.since + noticeGap then s
      else
        let s : State := { s with parked := mput s.parked id { p with since := s.ns, notice := true } }
        match p.req with
        | .piece _ _ => s
        | .remote e => match s.parkedSource e with
          | some q => s.urgent q.1 (.waiting q.2)
          | none => s)

/-- `SFCFG.TMO` in nanoseconds (R384). (DEDUCED, log 49.) -/
def State.sfTimeout (s : State) : Nat := bits s.sfcfg 15 0 * 1000

/-- When a piece of an FPERM was last heard of. (DEDUCED, log 49.) -/
def Fperm.lastHeard (f : Fperm) (i : Nat) : Nat := mget f.sent f.heard i

/-- A notice from another package restarts the timeout of a remote access (R405). -/
def State.heardRemote (s : State) (id : Nat) : State :=
  { s with remotes := s.remotes.map fun r => if r.1 = id then (r.1, { r.2 with heard := s.lockedTurns }) else r }

/-- KEEP_WAITING_RECEIVE: a notice restarts its source's timeout (R384, R405). -/
def execKeepWaitingReceive (id : Nat) (s : State) : Host.Outcome State Fault Refusal :=
  .next (match mfind s.parked id with
    | none => s.heardRemote id
    | some p =>
      if !p.notice then s
      else
        let s : State := { s with parked := mput s.parked id { p with notice := false } }
        match p.req with
        | .piece f i =>
          match mfind s.fperms f with
          | some x => s.putFperm f { x with heard := mput x.heard i s.ns }
          | none => s
        | .remote e => match mfind s.pe.inbox e with
          | some x => if x.ctx.isSome then s.heardRemote x.seg.head.id else s
          | none => s)

/-- The loads of activation banks in progress. -/
def State.bankLoads (s : State) : List BankLoad :=
  s.blocks.flatMap fun b => b.2.banks.filterMap fun k => k.2.loading

/-- The numbers by which a timeout names what is no numbered request: the fill of a slot's fetch block, the reads of a core's matrix
engine, and the reload of a name of a wave. (DESIGN CHOICE, log 4.) -/
def fillId (core slot : Nat) : Nat := 2 ^ 64 + 4 * core + slot
def matrixId (core : Nat) : Nat := 2 ^ 65 + core
def reloadId (w : WaveId) (name : Nat) : Nat := 2 ^ 66 + (16 * w.blk + w.wv) * 1024 + name

/-- The context and the moment of the last word of the fetch fill that a number names: a slot waits for a block that its core's
cache does not hold (R45, R384). (DEDUCED, log 49.) -/
def State.fillAwaited (s : State) (id : Nat) : List (Nat × Nat) :=
  if id < 2 ^ 64 ∨ 2 ^ 65 ≤ id then []
  else
    let core := (id - 2 ^ 64) / 4
    match (s.slot core (id % 4)).run, (s.slot core (id % 4)).miss with
    | some r, some (ctx, blk, at_) =>
      if vaOf r.group.pc / 32 = blk ∧ r.group.members.any (fun t => decide ((s.blk t.blk).ctx = ctx)) = true ∧
          (s.cachedBlock core ctx (32 * blk)).isNone = true then [(ctx, at_)] else []
    | _, _ => []

/-- Of the matrix engine that a number names: its oldest request reads its operands (R347, R384). (DEDUCED, log 49.) -/
def State.matrixAwaited (s : State) (id : Nat) : List (Nat × Nat) :=
  if id < 2 ^ 65 ∨ 2 ^ 66 ≤ id then []
  else
    match (s.mx (id - 2 ^ 65)).queue with
    | [] => []
    | r :: _ => match r.op with
      | .zero _ => []
      | .loadV _ _ => []
      | .store .. => []
      | _ => [((s.blk r.wid.blk).ctx, r.heard)]

/-- Of the reload that a number names (R218, R384). (DEDUCED, log 49.) -/
def State.reloadAwaited (s : State) (id : Nat) : List (Nat × Nat) :=
  if id < 2 ^ 66 then []
  else
    let n := (id - 2 ^ 66) / 1024
    let w : WaveId := { blk := n / 16, wv := n % 16 }
    match ((s.wave w).vreg (id % 1024)).bind (·.reload) with
    | some at_ => [((s.blk w.blk).ctx, at_)]
    | none => []

/-- The context and the moment of the last word of a request of this package that awaits a response: a load, an atomic, a
memory-side request or a member load, the data of a commit, a copy, the reads of a matrix request, a matrix store, the load of a bank,
a reload, a fetch fill (R375, R384). (DEDUCED, log 49.) -/
def State.awaited (s : State) (id : Nat) : List (Nat × Nat) :=
  let ctxOf (w : WaveId) : Nat := (s.blk w.blk).ctx
  ((mfind s.producers id).toList.filter fun p => decide (p.kind = .load ∨ p.kind = .atomic ∨ p.kind = .mside ∨ p.kind = .fmld)).map
      (fun p => (p.ctx, p.sent)) ++
    ((mfind s.commits id).toList.filter fun c => !c.abort && !c.held).map (fun c => (ctxOf c.wid, c.sent)) ++
    ((mfind s.copies id).toList.filter fun c => !c.complete).map (fun c => (ctxOf c.wid, c.heard)) ++
    (mfind s.msts id).toList.map (fun m => (ctxOf m.wid, m.sent)) ++
    ((mfind s.msReqs id).toList.filter fun r => r.dest.isNone).map (fun r => (ctxOf r.wid, r.sent)) ++
    (s.bankLoads.filter fun ld => ld.id == id).map (fun ld => ((s.blk ld.thread.blk).ctx, ld.sent)) ++
    s.fillAwaited id ++ s.matrixAwaited id ++ s.reloadAwaited id

/-- The context of a request of this package that has had no response for the timeout (R384). (DEDUCED, log 49.) -/
def State.timedOut (s : State) (id : Nat) : Option Nat :=
  match mfind s.fperms id with
  | some f =>
    if (List.range f.pieces).any fun i => !f.landed.contains i && decide (f.lastHeard i + s.sfTimeout ≤ s.ns) then
      some (s.blk f.wid.blk).ctx
    else none
  | none => ((s.awaited id).find? fun q => Nat.ble (q.2 + s.sfTimeout) s.ns).map (·.1)

/-- RESPONSE_TIMEOUT: a source without a response ends the request's context (R384). (DEDUCED, log 49.) -/
def execResponseTimeout (id : Nat) (s : State) : Host.Outcome State Fault Refusal :=
  .next (match s.timedOut id with
    | none => s
    | some c => s.ctxFault c)

end Sys2Proof.Machine
end

