-- ==== Sys2Proof/Machine/Port.lean ====
section
/-! DEFINITION. The port engine's instructions: PWR, PRD, PATOM, PSIG, PPERM and PQST, the queues that their entries enter, and how an entry is performed at its target (spec/14_port_engine.md R395, R396, R402 to R414). -/

namespace Sys2Proof.Machine

open Sys2Proof

/-! ### Packages (R82, R390, R409) -/

/-- The number under which this package's own accesses travel: its id, or 64 while none is assigned. -/
def State.ownPkg (s : State) : Nat := s.pkgid.getD 64

/-- Ports of the package. -/
def numPorts : Nat := 16

/-- An entry of the active almanac: its kind and peer (R390). -/
def Calendar.entry (c : Calendar) (slot port : Nat) : Nat × Nat :=
  let b := (mget (0 : Byte) c.active (16 * slot + port)).toNat
  (field b 7 6, field b 5 0)

/-- A peer entry of the active almanac names a package (R409). -/
def State.reachable (s : State) (p : Nat) : Bool :=
  s.cal.running && (List.range (almSlots s.cal.cfg)).any fun t =>
    (List.range numPorts).any fun k => s.cal.entry t k == (0, p)

/-- The package that an address names where a remote address is accepted: this one (none), another, or a sub-cause of PROT. (DEDUCED, log 50.) -/
def State.remoteTarget (s : State) (ga : Nat) : Except Nat (Option Nat) :=
  if ga.testBit 63 then .error 2
  else if !ga.testBit 62 then (if field ga 61 56 = 0x3F then .ok none else .error 8)
  else
    let p := field ga 61 56
    if s.pkgid = some p then .ok none
    else if s.reachable p then .ok (some p)
    else .error 7

/-! ### Queues (R395, R396) -/

/-- Virtual queues: 4 × destination + class. -/
def queueKey (dst cls : Nat) : Nat := 4 * dst + cls

def State.virtq (s : State) (dst cls : Nat) : List VEntry := mget [] s.pe.virt (queueKey dst cls)
def State.transitq (s : State) (dst : Nat) : List VEntry := mget [] s.pe.transit dst

/-- Entries of a virtual queue, with those that have begun to leave it by another package and have data to send (R399, R400, R430). -/
def State.queued (s : State) (dst cls : Nat) : List VEntry :=
  s.virtq dst cls ++ s.pe.streams.flatMap fun q => q.2.detours.filter fun e => decide (e.head.dst = dst ∧ e.head.cls = cls)

/-- Queue space in use: a header and the data not yet sent of each entry (R395). -/
def spaceOf (q : List VEntry) : Nat := (q.map fun e => 32 + e.data.length).foldl (· + ·) 0

/-- Entries of the given data lengths fit in the virtual queue of a destination; an access to this package needs no queue. (DEDUCED, log 50.) -/
def State.fits (s : State) (t : Option Nat) (cls : Nat) (lens : List Nat) : Bool :=
  match t with
  | none => true
  | some d => s.pe.pevqAct &&
      Nat.ble (spaceOf (s.queued d cls) + (lens.map (32 + ·)).foldl (· + ·) 0) (2 ^ s.pe.pevqLog.toNat)

/-- A piece or part of a piece for this package is ready to be performed. -/
def State.deliverSeg (s : State) (seg : Seg) (direct : Bool) (ctx : Option Nat) : State :=
  { s with pe := { s.pe with inbox := mput s.pe.inbox s.nextId { seg := seg, direct := direct, ctx := ctx } }
           nextId := s.nextId + 1 }

/-- Entries of a PPERM of a wave have not entered their queues: later entries of the wave come behind them (R396). -/
def State.behindPerm (s : State) (w : WaveId) : Bool :=
  s.permSends.any fun p => match mfind s.fperms p.1 with
    | some f => decide (f.wid = w) && !p.2.isEmpty
    | none => false

/-- What a remote access needs besides its operation. -/
structure Sender where
  wid : WaveId
  ticket : Nat
  target : Option Nat
  cls : Nat
  any : Bool

/-- A remote access enters the queue of its destination, or is performed without a circuit when it names this package
(R396, R409). (DEDUCED, log 50.) -/
def State.sendEntry (s : State) (x : Sender) (op : RemOp) (data : List Byte) (write : Bool) (dest perm : Option Nat) : State :=
  let ctx := (s.blk x.wid.blk).ctx
  let id_ := s.nextId
  let dst := x.target.getD s.ownPkg
  let r : Remote := { ctx := ctx, blk := x.wid.blk, wid := x.wid, write := write, peer := dst, dest := dest, perm := perm
                      ticket := x.ticket, heard := s.lockedTurns }
  let h : PieceHead := { op := op, src := s.ownPkg, dst := dst, cls := x.cls, tag := BitVec.ofNat 16 (bits (s.ctx ctx).pectx 15 0)
                         id := id_, ofs := 0 }
  let s : State := { s with remotes := mput s.remotes id_ r, nextId := id_ + 1 }
  match x.target with
  | none => s.deliverSeg { head := h, data := data, start := true } true (some ctx)
  | some d =>
    let e : VEntry := { head := h, ctx := ctx, any := x.any, data := data, started := false, since := s.turns
                        space := 32 + data.length, sender := s.ownPkg }
    { s with pe := { s.pe with virt := mput s.pe.virt (queueKey d x.cls) (s.virtq d x.cls ++ [e]) } }

/-- The class and the mark of a port instruction (R408). -/
def FM.cls (x : FM) : Nat := x.hd.md.toNat % 4
def FM.anyRoute (x : FM) : Bool := x.hd.md.getLsbD 2

def senderOf (x : FM) (w : Iss) (p : PendWave) (t : Option Nat) : Sender :=
  { wid := w.wid, ticket := p.ticket, target := t, cls := FM.cls x, any := FM.anyRoute x }

/-- A trap of the port engine at an address. -/
def portTrap (c : Cause) (sub acc ga : Nat) : Trap := engineTrap c sub acc ga

/-! ### PWR (R410) -/

/-- What it reads and writes. -/
def pwrUse (x : FM) : Use :=
  { rds := [Rd.pair 1 x.a false, Rd.pair 2 x.b false] ++ barRd (x.hd.md.getLsbD 3) x.c, dst := none, k := 0 }
/-- PWR. -/
def execPwr (x : FM) (s : State) : Host.Outcome State Fault Refusal :=
  s.issueOps (.pwr x) (pwrUse x) fun w vals s => s.request w (.pwr x) 3 false vals [] []

/-- The target of a remote access, with that of its barrier object: both must be the same package (R409). -/
def State.targetsOf (s : State) (ga : Nat) (bar : Option Nat) : Except Trap (Option Nat) :=
  match s.remoteTarget ga with
  | .error sub => .error (portTrap .prot sub 6 ga)
  | .ok t =>
    match bar with
    | none => .ok t
    | some b =>
      match s.remoteTarget b with
      | .error sub => .error (portTrap .prot sub 6 b)
      | .ok t' => if t = t' then .ok t else .error (portTrap .bound 12 6 b)

/-- A misaligned address of a port instruction (BOUND, SUB 4). (DEDUCED, log 50.) -/
def misaligned (ga align : Nat) : Option Trap := if ga % align = 0 then none else some (portTrap .bound 4 6 ga)

/-- Accept a PWR. (DEDUCED, log 50.) -/
def acceptPwr (x : FM) (w : Iss) (p : PendWave) (s : State) : Answer :=
  let t := w.wid.thread p.low
  let n := x.ofs.toNat
  let bar := if x.hd.md.getLsbD 3 then some (p.sval 3) else none
  let ts : List Touch := [{ ga := p.sval 2, len := n, align := 4, acc := .eread, bad := false }]
  match firstTrap [misaligned (p.sval 1) 4, s.alignTrap t ts, bar.bind fun b => misaligned b 16] with
  | some tr => .trap tr s
  | none =>
    match s.targetsOf (p.sval 1) bar with
    | .error tr => .trap tr s
    | .ok target =>
      match firstTrap [s.gateTrap t ts, s.pageTrap t ts] with
      | some tr => .trap tr s
      | none =>
        match s.raceTouches t ts with
        | .error tr => .trap tr s
        | .ok s =>
          if s.behindPerm w.wid || !s.fits target (FM.cls x) [n] then .full
          else
            let data := s.readGa w.wid (s.placesOf t ts) (p.sval 2) n
            .done (s.sendEntry (senderOf x w p target) (.write (p.sval 1) n bar) data true none none)

/-! ### PSIG (R412) -/

/-- Both forms of PSIG: with `.rel` the wave first commits at `.pod`. -/
def State.psig (s : State) (i : Instr) (x : FM) (u : Use) : Host.Outcome State Fault Refusal :=
  s.issueOps i u fun w vals s =>
    match s.release w (if x.hd.md.getLsbD 4 then some 5 else none) with
    | .wait fx => .wait .onPod w.lanes fx
    | .wbovf => .trap (wbovf w 0) s
    | .ok s => s.request w i 2 false vals [] []

/-- What it reads. -/
def psigUse (x : FM) (add : Bool) : Use :=
  { rds := Rd.pair 1 x.a false :: (if add then [Rd.pair 2 x.b false] else []), dst := none, k := 0 }
/-- PSIG.arv. -/
def execPsigArv (x : FM) (s : State) : Host.Outcome State Fault Refusal :=
  s.psig (.psigArv x) x (psigUse x false)
/-- PSIG.add. -/
def execPsigAdd (x : FM) (s : State) : Host.Outcome State Fault Refusal :=
  s.psig (.psigAdd x) x (psigUse x true)

/-- Accept a PSIG; an addend is the entry's data. -/
def acceptPsig (x : FM) (w : Iss) (p : PendWave) (align : Nat) (op : RemOp) (data : List Byte) (s : State) : Answer :=
  match misaligned (p.sval 1) align with
  | some tr => .trap tr s
  | none =>
    match s.targetsOf (p.sval 1) none with
    | .error tr => .trap tr s
    | .ok target =>
      if s.behindPerm w.wid || !s.fits target (FM.cls x) [data.length] then .full
      else .done (s.sendEntry (senderOf x w p target) op data true none none)

def acceptPsigArv (x : FM) (w : Iss) (p : PendWave) (s : State) : Answer := acceptPsig x w p 16 (.arrive (p.sval 1)) [] s
def acceptPsigAdd (x : FM) (w : Iss) (p : PendWave) (s : State) : Answer :=
  acceptPsig x w p 8 (.add (p.sval 1) (p.sval 2)) (toBytes 8 (p.sval 2)) s

/-! ### PRD and PATOM (R411) -/

/-- What it reads and writes. -/
def prdUse (x : FM) : Use := { rds := [Rd.vs 1 x.a .n32], dst := some (Dst.vd x.d x.hd.ty), k := 0 }
/-- PRD. -/
def execPrd (x : FM) (s : State) : Host.Outcome State Fault Refusal :=
  s.issueOps (.prd x) (prdUse x) fun w vals s =>
    s.request w (.prd x) 1 true vals [s.record w.wid.blk x.tr.toNat] (Dst.vd x.d x.hd.ty).codes

/-- What it reads and writes. -/
def patomUse (x : FM) : Use :=
  { rds := [Rd.vs 1 x.a .n32, Rd.vs 2 x.b x.hd.ty] ++ (if x.xmod.toNat = 7 then [Rd.vs 3 x.c x.hd.ty] else [])
    dst := some (Dst.vd x.d x.hd.ty), k := 0 }
/-- PATOM. -/
def execPatom (x : FM) (s : State) : Host.Outcome State Fault Refusal :=
  s.issueOps (.patom x) (patomUse x) fun w vals s =>
    s.request w (.patom x) 3 true vals [s.record w.wid.blk x.tr.toNat] (Dst.vd x.d x.hd.ty).codes

/-- A fault of a port instruction is whole (R409). -/
def Trap.asWhole (t : Trap) : Trap := { t with lane := none }

/-- Addresses of the lanes that are in bounds, or a trap. -/
def remoteLanes (r : BitVec 256) (rows es acc : Nat) (idx : Nat → Int) : List Nat → Except Trap (List (Nat × Nat))
  | [] => .ok []
  | l :: t =>
    match elementAt r rows es (idx l) with
    | .out => remoteLanes r rows es acc idx t
    | .fault c sub => .error (portTrap c sub acc 0)
    | .at_ ga =>
      if ga % es ≠ 0 then .error (portTrap .bound 4 acc ga)
      else
        match remoteLanes r rows es acc idx t with
        | .error tr => .error tr
        | .ok q => .ok ((l, ga) :: q)

/-- Lanes grouped by the 128-byte line of their address (R411). -/
def byLine (ls : List (Nat × Nat)) : List (List (Nat × Nat)) :=
  (sortN (ls.map fun q => q.2 / 128)).map fun k => ls.filter fun q => q.2 / 128 == k

/-- Accept a PRD or PATOM; `op` forms the request of some lanes and `data` is the payload that it carries. (DEDUCED, log 50.) -/
def acceptRemote (x : FM) (w : Iss) (p : PendWave) (acc : Acc) (write : Bool) (op : List (Nat × Nat) → RemOp)
    (data : List (Nat × Nat) → List Byte) (s : State) : Answer :=
  let ty := x.hd.ty
  let r := p.rec_ 0
  match s.openRecord w x.tr.toNat r ty acc with
  | .bad tr s => .trap tr.asWhole s
  | .ok rows s =>
    match s.remoteTarget (recBase r) with
    | .error sub => .trap (portTrap .prot sub acc.code (recBase r)) s
    | .ok target =>
      match remoteLanes r rows (elemBytes ty) acc.code (fun l => ((p.val 1 l : Nat) : Int) + sextN x.ofs.toNat 32) p.lanes with
      | .error tr => .trap tr s
      | .ok ls =>
        let groups := byLine ls
        if s.behindPerm w.wid || !s.fits target (FM.cls x) (groups.map fun g => (data g).length) then .full
        else
          let s := s.startProducer w .remote (Dst.vd x.d ty) 0 0
            (p.lanes.map fun l => (l, if ls.any (fun q => q.1 == l) then LaneSrc.pending else .known 0))
          .done (groups.foldl (fun s g =>
            s.sendEntry (senderOf x w p target) (op g) (data g) write (some x.d.toNat) none) s)

/-- Accept a PRD. -/
def acceptPrd (x : FM) (w : Iss) (p : PendWave) (s : State) : Answer :=
  acceptRemote x w p .load false (.read (elemBytes x.hd.ty)) (fun _ => []) s

/-- Accept a PATOM; its operands are the request's payload. -/
def acceptPatom (x : FM) (w : Iss) (p : PendWave) (s : State) : Answer :=
  let n := elemBytes x.hd.ty
  let cas := decide (x.xmod.toNat = 7)
  acceptRemote x w p .atomic true
    (fun g => .atomic x.hd.ty x.xmod.toNat (g.map fun q => (q.1, q.2, p.val 2 q.1, p.val 3 q.1)))
    (fun g => g.flatMap fun q => toBytes n (p.val 2 q.1) ++ (if cas then toBytes n (p.val 3 q.1) else [])) s

/-! ### PPERM (R413) -/

/-- What it reads and writes. -/
def ppermUse (x : FM) : Use :=
  { rds := [Rd.pair 1 x.a false, Rd.pair 2 x.b false] ++ barRd (x.hd.md.getLsbD 3) x.c, dst := some (Dst.sd x.d .b32), k := 0 }
/-- PPERM. -/
def execPperm (x : FM) (s : State) : Host.Outcome State Fault Refusal :=
  s.issueOps (.pperm x) (ppermUse x) fun w vals s =>
    s.request w (.pperm x) 3 false vals [s.record w.wid.blk x.tr.toNat] [x.d.toNat]

/-- A member's base is refused by PPERM, which accepts a remote address (R413). -/
def State.remoteBaseTrap (s : State) (ctx acc : Nat) (h : Shard) : Option Trap :=
  match s.remoteTarget h.base with
  | .error sub => some (portTrap .prot sub acc h.base)
  | .ok (some _) => none
  | .ok none =>
    match (s.ctx ctx).pageOf (h.base % 2 ^ 56) with
    | some (_, p) => if pageAper p.entry then some (portTrap .prot 6 acc h.base) else none
    | none => none

/-- The members of a map that lie on this package. -/
def State.localMembers (s : State) (m : ShardMap) : List Shard :=
  m.members.filter fun h => match s.remoteTarget h.base with
    | .ok none => true
    | _ => false

/-- The member of a map that holds a piece. -/
def Fperm.shard (f : Fperm) (m : ShardMap) (i : Nat) : Option Shard :=
  (findShard m.members (nth 0 [i % f.ext0, i / f.ext0 % f.ext1, i / f.ext0 / f.ext1] m.axis)).map (·.1)

/-- The package of a piece under a map, none for this package. -/
def State.piecePkg (s : State) (f : Fperm) (m : ShardMap) (i : Nat) : Option Nat :=
  match f.shard m i with
  | none => none
  | some h => match s.remoteTarget h.base with
    | .ok t => t
    | .error _ => none

/-- Remote runs of elements: package, first address, and bytes; consecutive elements join up to 65,536 bytes. A run of elements
smaller than a word begins or ends at a word, so that no cut splits one (R399). -/
def joinRun (q : Nat × Nat × List Byte) : List (Nat × Nat × List Byte) → List (Nat × Nat × List Byte)
  | [] => [q]
  | r :: t =>
    if r.1 = q.1 ∧ r.2.1 + r.2.2.length = q.2.1 ∧ r.2.2.length + q.2.2.length ≤ 65536 ∧
      (r.2.1 % 4 = 0 ∨ q.2.1 % 4 ≠ 0) then
      (r.1, r.2.1, r.2.2 ++ q.2.2) :: t
    else q :: r :: t

/-- The remote entries of a PPERM, in the order of its elements. (DEDUCED, log 50.) -/
def State.permRuns (s : State) (f : Fperm) (moved : List Nat) : List (Nat × Nat × List Byte) :=
  (moved.foldl (fun acc i =>
    match s.piecePkg f f.dst i with
    | none => acc
    | some d => joinRun (d, f.addr f.dst i, toBytes f.es (mget 0 f.got i)) acc) []).reverse

/-- The entry of a run, as it waits for its queue. -/
def runEntry (x : FM) (ctx : Nat) (q : Nat × Nat × List Byte) : VEntry :=
  { head := { op := .write q.2.1 q.2.2.length none, src := 0, dst := q.1, cls := FM.cls x, tag := 0, id := 0, ofs := 0 }
    ctx := ctx, any := FM.anyRoute x, data := q.2.2, started := false, since := (0, 0), space := 32 + q.2.2.length, sender := 0 }

/-- The remote entries of a PPERM enter their queues while they fit; the others are left. -/
def State.feedPerm (s : State) (w : WaveId) (ticket id : Nat) : List VEntry → List VEntry × State
  | [] => ([], s)
  | e :: t =>
    if s.fits (some e.head.dst) e.head.cls [e.data.length] then
      State.feedPerm (s.sendEntry { wid := w, ticket := ticket, target := some e.head.dst, cls := e.head.cls, any := e.any } e.head.op
        e.data true none (some id)) w ticket id t
    else (e :: t, s)

/-- Entries of a begun PPERM enter their queues. -/
def State.feed (s : State) (id : Nat) : State :=
  match mfind s.fperms id with
  | none => s
  | some f =>
    let r := s.feedPerm f.wid f.ticket id (mget [] s.permSends id)
    { r.2 with permSends := if r.1.isEmpty then mdel r.2.permSends id else mput r.2.permSends id r.1 }

/-- Feed the queues with the entries of a begun PPERM, which is accepted once all have entered. -/
def State.pushPerm (s : State) (id : Nat) : Answer :=
  let s := s.feed id
  if (mget [] s.permSends id).isEmpty then .done s else .part [] (.perm id) s

/-- The entries that a PPERM has left enter the queues as room comes, also when a halt has taken its slot (R407, R413). (DEDUCED,
log 50.) -/
def State.feedAll (s : State) : State := (s.permSends.map (·.1)).foldl State.feed s

/-- The object of a PPERM has scope `.pkg` or `.pod` (R413): one of another scope is refused as a disagreeing one is. (DEDUCED,
log 50.) -/
def State.permBar (s : State) (t : ThreadId) (bar : Bool) (ga : Nat) : Option Trap :=
  if !bar then none
  else
    match s.resolve t ga .credit with
    | .error _ => none
    | .ok p =>
      let o := s.bar p.loc
      if o.valid ∧ o.scope ≠ 4 ∧ o.scope ≠ 5 then some (engineTrap .prot 5 6 (s.effGa t ga)) else none

/-- The checks of a PPERM once its maps have been read. -/
def State.permTrap (s : State) (t : ThreadId) (r : BitVec 256) (es : Nat) (src dst : ShardMap) (ts : List Touch) (bar : Bool)
    (ga : Nat) : Option Trap :=
  let ctx := (s.blk t.blk).ctx
  let all := ts ++ barTouch bar ga
  let low := ((src.members ++ dst.members).find? fun h => h.base % es != 0).map fun h => portTrap .bound 4 5 h.base
  let bases := firstTrap (src.members.map (s.remoteBaseTrap ctx 5) ++ dst.members.map (s.remoteBaseTrap ctx 6))
  let big := if 2 ^ 32 ≤ recExt0 r * recExt1 r * recExt2 r * es then some (portTrap .bound 8 5 0) else none
  let out := ((dst.touches r es .ewrite).find? (·.bad)).map fun _ => engineTrap .prot 4 6 0
  firstTrap [low, s.alignTrap t (barTouch bar ga), bases, big, out, s.gateTrap t all, s.pageTrap t all, s.barAgrees t bar ga,
    s.permBar t bar ga]

/-- Accept a PPERM. (DEDUCED, log 50.) -/
def acceptPperm (x : FM) (w : Iss) (p : PendWave) (s : State) : Answer :=
  let t := w.wid.thread p.low
  let r := p.rec_ 0
  let es := elemBytes (recFmt r)
  let bar := x.hd.md.getLsbD 3
  match p.ready with
  | some (.perm id) => s.pushPerm id
  | _ =>
    if s.behindPerm w.wid then .full
    else if recInvalid r || decide (recFmt r = .q4) then .trap (portTrap .bound 3 0 0) s
    else
      match s.shardMap t (p.sval 1) r with
      | .error tr => .trap tr s
      | .ok (src, s) =>
        match s.shardMap t (p.sval 2) r with
        | .error tr => .trap tr s
        | .ok (dst, s) =>
          let ts := (s.localMembers src).flatMap (src.memberTouches r es .eread)
          match s.permTrap t r es src dst ts bar (p.sval 3) with
          | some tr => .trap tr s
          | none =>
            match s.raceTouches t ts with
            | .error tr => .trap tr s
            | .ok s =>
              let m := s.placesOf t (ts ++ barTouch bar (p.sval 3))
              let f : Fperm := { wid := w.wid, issuers := w.lanes, core := w.core, token := tokenOf x.d, level := 4, es := es, ext0 := recExt0 r
                                 ext1 := recExt1 r, ext2 := recExt2 r, src := src, dst := dst, map := m, got := [], landed := []
                                 heard := [], bar := barOf m bar (p.sval 3), code := 0, sent := s.ns, ticket := p.ticket, perm := none }
              let moved := (List.range f.pieces).filter fun i => (s.piecePkg f src i).isNone
              let far := (List.range f.pieces).filter fun i => (s.piecePkg f src i).isSome || (s.piecePkg f dst i).isSome
              let f := { s.fpermRead f moved with landed := far, perm := some (moved.length * es, false) }
              let id_ := s.nextId
              let s : State := { s with
                fperms := mput s.fperms id_ f
                permSends := mput s.permSends id_ ((s.permRuns f moved).map (runEntry x (s.blk w.wid.blk).ctx))
                nextId := id_ + 1 }
              s.pushPerm id_

/-- PPERM_COMPLETE: its bytes are credited once every piece has landed or been acknowledged, and its token takes its status
once they have been (R413). -/
def execPpermComplete (id : Nat) (s : State) : Host.Outcome State Fault Refusal :=
  .next (match mfind s.fperms id with
    | none => s
    | some f =>
      match f.perm with
      | none => s
      | some (n, credited) =>
        let busy := decide (f.landed.length ≠ f.pieces) || !(mget [] s.permSends id).isEmpty ||
          s.remotes.any (fun r => decide (r.2.perm = some id))
        if busy || !s.credited id then s
        else if f.bar.isSome && !credited then (s.putFperm id { f with perm := some (n, true) }).addCredit f.bar n id
        else
          let code := if s.creditRefused id ∧ f.code = 0 then 3 else f.code
          let s : State := { s.dropCredits id with fperms := mdel s.fperms id }
          s.setToken f.wid f.issuers f.token (code * 2 ^ 24))

/-! ### PQST (R414, R430) -/

/-- What PQST samples. -/
def State.pqst (s : State) (a sel : Nat) : Nat :=
  let d := field a 5 0
  let q := s.queued d (field a 9 8)
  let dataOf (q : List VEntry) : Nat := (q.map fun e => e.data.length).foldl (· + ·) 0
  match sel with
  | 0 => min (dataOf q) (2 ^ 32 - 1)
  | 1 => q.length
  | 2 => min (dataOf (s.transitq d)) (2 ^ 32 - 1)
  | _ => match q with
    | [] => 0
    | e :: _ => wholeTurns e.since s.turns

/-- PQST. -/
def execPqst (x : FA) (s : State) : Host.Outcome State Fault Refusal :=
  let u : Use := { rds := [Rd.ss 1 x.a .n32], dst := some (Dst.sd x.d .b32), k := x.ext.getD 0 }
  s.issueOps (.pqst x) u fun w vals s =>
    let l := nth 0 w.lanes 0
    s.finish w u w.lanes [(l, s.pqst (vals 1 l) x.b.code.toNat % 2 ^ 32)] 0

/-! ### Answers at the source (R403, R405, R411) -/

/-- A remote write has been acknowledged: what waits for it goes on (R94, R109, R303). -/
def State.remoteDone (s : State) (id : Nat) : State :=
  match mfind s.remotes id with
  | none => s
  | some r =>
    { s with remotes := mdel s.remotes id }.wakePod r.blk

/-- The values of a request arrive at its source. -/
def State.remoteAnswer (s : State) (id : Nat) (vals : List (Nat × Nat)) : State :=
  match mfind s.remotes id with
  | none => s
  | some r =>
    let put (p : Producer) : Producer := vals.foldl (fun p v => p.answer .remote r.wid (r.dest.getD 0) v.1 v.2) p
    State.remoteDone { s with producers := s.producers.map fun p => (p.1, put p.2) } id

/-- A remote failure ends the context of the access, and `PESTAT` names it (R404, R405). -/
def State.remoteFail (s : State) (id code pkg : Nat) : State :=
  match mfind s.remotes id with
  | none => s
  | some r =>
    let live := decide ((s.ctx r.ctx).st ≠ .idle ∧ (s.ctx r.ctx).st ≠ .fault ∧ (s.ctx r.ctx).resetting = false)
    let s := if live then
        s.updCtx r.ctx fun c => { c with pestat := BitVec.ofNat 64 (code % 256 * 2 ^ 24 + pkg % 64 * 2 ^ 8) }
      else s
    (s.ctxFault r.ctx).remoteDone id

/-- REMOTE_ACK: an acknowledgement from the final target (R403). (DESIGN CHOICE, log 8.) -/
def execRemoteAck (peer id : Nat) (s : State) : Host.Outcome State Fault Refusal :=
  .next (match mfind s.remotes id with
    | some r => if r.peer = peer ∧ r.dest = none then s.remoteDone id else s
    | none => s)

/-- REMOTE_FAILURE: a failure report in place of an acknowledgement or answer (R405). -/
def execRemoteFailure (id code pkg : Nat) (s : State) : Host.Outcome State Fault Refusal := .next (s.remoteFail id code pkg)

/-- `PETMO.TMO` in rotations (R405). -/
def State.petmo (s : State) : Nat := bits s.pe.petmo 7 0

/-- REMOTE_TIMEOUT: an access has waited the timeout with no word from its target, in whole rotations (R388, R405). (DEDUCED, log 50.) -/
def execRemoteTimeout (id : Nat) (s : State) : Host.Outcome State Fault Refusal :=
  .next (match mfind s.remotes id with
    | none => s
    | some r => if s.cal.locked = true ∧ s.petmo ≤ wholeTurns r.heard s.lockedTurns then s.remoteFail id 5 s.ownPkg else s)

/-! ### Performing an entry at its target (R402, R404, R406) -/

/-- The context that an entry acts in. -/
def State.linkedCtx (s : State) (x : InEntry) : Option Nat :=
  match x.ctx with
  | some c => some c
  | none => (s.ctxs.find? fun c => c.2.pectx.getLsbD 16 && decide (bits c.2.pectx 15 0 = x.seg.head.tag.toNat)).map (·.1)

/-- An earlier entry of the same direct stream has not been performed and is not parked (R402). -/
def State.inBlocked (s : State) (id : Nat) (x : InEntry) : Bool :=
  x.direct && s.pe.inbox.any fun q => decide (q.1 < id ∧ q.2.direct = true ∧ q.2.seg.head.src = x.seg.head.src ∧
    q.2.seg.head.cls = x.seg.head.cls ∧ q.2.seg.head.id ≠ x.seg.head.id) && !s.isParked (.remote q.1)

/-- Places of the bytes of a remote access, page by page. -/
def State.remotePlaces (s : State) (ctx ga n : Nat) (a : Acc) : Except AddrFault (List (Nat × Place)) :=
  ({ ga := ga, len := n, align := 1, acc := a, bad := false : Touch }.chunks).foldl (fun r c =>
    match r with
    | .error f => .error f
    | .ok m =>
      match s.translate ctx (c.2 % 2 ^ 56) c.2 a with
      | .ok p => .ok ((c.1, { p with loc := { p.loc with addr := p.loc.addr - (c.2 - c.1) } }) :: m)
      | .error f => .error f) (.ok [])

/-- The log record of a remote access: its package stands for its core; the spec gives its wave and block no value. (DESIGN CHOICE, log 3.) -/
def State.remoteAccessor (s : State) (ctx src : Nat) : Accessor :=
  { ctx := ctx, core := 0xF000 + src, wv := (Config.freeValue s.free).toNat % 16
    blin := (Config.freeValue (s.free + 1)).toNat % 2 ^ 32, interval := 0 }

/-- The race check of one sector for a remote access: none for a conflict in TRAP mode (R406). An atomic at home does not conflict
with another there (R123). (DESIGN CHOICE, log 3.) -/
def State.remoteRace (s : State) (ctx src kind ga : Nat) (p : Place) : Option State :=
  match p.loc.sp with
  | .glob =>
    if pageRace p.entry = 0 then some s
    else
      match mfind s.shadows p.loc.sec with
      | none => some s
      | some e =>
        if 5 ≤ e.scope ∨ (kind = 2 ∧ e.atom = true ∧ e.scope = 4) then some s
        else if pageRace p.entry = 1 then none
        else some (State.raceLogAs { s with free := s.free + 2 } (s.remoteAccessor ctx src) e kind ga)
  | _ => some s

/-- The shadow entry that a remote write leaves (R406). -/
def State.remoteNote (src : Nat) (atom : Bool) (s : State) (p : Place) : State :=
  match p.loc.sp with
  | .glob =>
    if pageRace p.entry = 0 then s
    else { s with shadows := mput s.shadows p.loc.sec
                    { blk := 0, atom := atom, core := 0xF000 + src, blin := 0, wv := 0, interval := 0, scope := 5 } }
  | _ => s

/-- Bytes of a remote access enter level 4: at home, or at each member of an aperture, whose sectors' entries are set (R380, R406). -/
def State.remoteEnter (s : State) (src : Nat) (atom : Bool) (p : Place) (bytes : List Byte) : State :=
  let s := s.enterHomeWith none (State.remoteNote src atom) (sectorOf p.loc (pageCmode p.entry) bytes)
  State.remoteNote src atom s p

/-- Sectors of a range: the number and the bytes of each in it. -/
def sectorRuns (ga : Nat) (bytes : List Byte) : List (Nat × List Byte) :=
  if bytes.isEmpty then []
  else (rangeFrom (ga / 32) ((ga + bytes.length - 1) / 32 - ga / 32 + 1)).map (sectorPart ga bytes)

/-- Write bytes at their home for a remote access, sector by sector; none for a race in TRAP mode. (DEDUCED, log 51.) -/
def State.remoteWrite (s : State) (ctx src : Nat) (m : List (Nat × Place)) (ga : Nat) (bytes : List Byte) : Option State :=
  let checked := (sectorRuns ga bytes).foldl (fun (s : Option State) q =>
    s.bind fun s => match placeOf m q.1 with
      | some p => s.remoteRace ctx src 4 q.1 p
      | none => some s) (some s)
  checked.map fun s => (sectorRuns ga bytes).foldl (fun s q =>
    match placeOf m q.1 with
    | some p => s.remoteEnter src false p q.2
    | none => s) s

/-- What performing an entry gives. -/
inductive Performed where
  | ok (s : State) (vals : Option (List (Nat × Nat)))
  | park (f : AddrFault) (acc : Nat)
  | fail (code : Nat)

/-- A refused translation parks when it is a page fault, and fails otherwise (R404). -/
def refused (f : AddrFault) (acc : Nat) : Performed := if f.cause = .page then .park f acc else .fail 3

/-- Bytes of an entry that have landed. -/
def State.landedOf (s : State) (src id : Nat) : Nat :=
  match s.pe.landed.find? fun x => x.src == src && x.id == id with
  | some x => x.n
  | none => 0

def State.setLanded (s : State) (src id n : Nat) (done : Bool) : State :=
  let rest := s.pe.landed.filter fun x => !(x.src == src && x.id == id)
  { s with pe := { s.pe with landed := if done then rest else { src := src, id := id, n := n } :: rest } }

/-- The update of a `.pod` barrier object by a remote access (R410, R412, R404). (DEDUCED, log 50.) -/
def State.podBar (s : State) (ctx ga : Nat) (k : BarUpd) (a : Acc) : Performed :=
  if ga % 16 ≠ 0 then .fail 3
  else
    match s.translate ctx (ga % 2 ^ 56) ga a with
    | .error f => refused f a.code
    | .ok p =>
      if (s.bar p.loc).scope ≠ 5 then .fail 3
      else
        match s.barUpdate p.loc k with
        | .ok s => .ok s none
        | .error _ => .fail 3

/-- A part of a remote write lands; the last one credits the object (R410). -/
def State.performWrite (s : State) (ctx : Nat) (x : Seg) (ga total : Nat) (bar : Option Nat) : Performed :=
  let h := x.head
  let at_ := ga + h.ofs
  match s.remotePlaces ctx at_ x.data.length .ewrite with
  | .error f => refused f 6
  | .ok m =>
    match s.remoteWrite ctx h.src m at_ x.data with
    | none => .fail 3
    | some s' =>
      let n := s.landedOf h.src h.id + x.data.length
      let s' := s'.setLanded h.src h.id n (Nat.ble total n)
      if n < total then .ok s' none
      else
        match bar with
        | none => .ok s' none
        | some b => s'.podBar ctx b (.credit total) .credit

/-- The lanes of a PRD read their elements at home. -/
def State.performRead (s : State) (ctx src size : Nat) : List (Nat × Nat) → List (Nat × Nat) → Performed
  | [], acc => .ok s (some acc.reverse)
  | (l, ga) :: t, acc =>
    match s.translate ctx (ga % 2 ^ 56) ga .eread with
    | .error f => refused f 5
    | .ok p =>
      match s.remoteRace ctx src 3 ga p with
      | none => .fail 3
      | some s => State.performRead s ctx src size t ((l, s.homeNat p.loc size) :: acc)

/-- One lane of a PATOM, or the addition of a PSIG. -/
def State.remoteAtomic (s : State) (ctx src : Nat) (ty : Ty) (op ga b c : Nat) : Performed :=
  match s.translate ctx (ga % 2 ^ 56) ga .atomic with
  | .error f => refused f 3
  | .ok p =>
    match s.remoteRace ctx src 2 ga p with
    | none => .fail 3
    | some s =>
      let n := ty.bits / 8
      let old := s.homeNat p.loc n
      .ok (s.remoteEnter src true p (toBytes n (atomicNew op ty old b c))) (some [(0, old)])

/-- The lanes of a PATOM, ascending. -/
def State.performAtomic (s : State) (ctx src : Nat) (ty : Ty) (op : Nat) :
    List (Nat × Nat × Nat × Nat) → List (Nat × Nat) → Performed
  | [], acc => .ok s (some acc.reverse)
  | (l, ga, b, c) :: t, acc =>
    match s.remoteAtomic ctx src ty op ga b c with
    | .ok s (some [(_, old)]) => State.performAtomic s ctx src ty op t ((l, old) :: acc)
    | o => o

/-- Every address of a request translates, so that it is performed whole or not at all. -/
def State.lanesFault (s : State) (ctx : Nat) (a : Acc) (gas : List Nat) : Option AddrFault :=
  gas.findSome? fun ga => match s.translate ctx (ga % 2 ^ 56) ga a with
    | .error f => some f
    | .ok _ => none

/-- Data bytes of an access's entry (R396): the operands of a request, and the values of an answer. -/
def RemOp.bytes (op : RemOp) : Nat :=
  match op with
  | .write _ total _ => total
  | .arrive _ => 0
  | .add _ _ => 8
  | .read _ _ => 0
  | .atomic ty op lanes => lanes.length * (ty.bits / 8) * (if op = 7 then 2 else 1)
  | .answer size vals => size * vals.length

/-- A part of an entry that does nothing before all of it has come: none while some of it is to come. (DEDUCED, log 51.) -/
def State.gather (s : State) (x : Seg) : State × Bool :=
  let h := x.head
  let n := s.landedOf h.src h.id + x.data.length
  let whole := Nat.ble h.op.bytes n
  (s.setLanded h.src h.id n whole, whole)

/-- Perform an entry in a context; of an entry that came in parts, the last part performs a request or a signal. -/
def State.perform (s : State) (ctx : Nat) (x : Seg) : Performed :=
  match x.head.op with
  | .write ga total bar => s.performWrite ctx x ga total bar
  | .arrive ga => s.podBar ctx ga .arrive .atomic
  | .add ga v => match s.remoteAtomic ctx x.head.src .n64 0 ga v 0 with
    | .ok s _ => .ok s none
    | o => o
  | .read size lanes => match s.lanesFault ctx .eread (lanes.map (·.2)) with
    | some f => refused f 5
    | none => s.performRead ctx x.head.src size lanes []
  | .atomic ty op lanes => match s.lanesFault ctx .atomic (lanes.map fun q => q.2.1) with
    | some f => refused f 3
    | none => s.performAtomic ctx x.head.src ty op lanes []
  | .answer _ _ => .ok s none

/-- The entry has been taken. -/
def State.dropIn (s : State) (id : Nat) : State := { s with pe := { s.pe with inbox := mdel s.pe.inbox id } }

/-- A control record for a peer, sent at the opening of the next window (R431). -/
def State.owe (s : State) (peer : Nat) (c : Ctl) : State := s.updStream peer fun x => { x with owed := x.owed ++ [c] }

/-- The entry fails: its source learns of it (R405). -/
def State.failIn (s : State) (id : Nat) (x : InEntry) (code : Nat) : State :=
  let s := s.dropIn id
  match x.ctx with
  | some _ => s.remoteFail x.seg.head.id code s.ownPkg
  | none => s.owe x.seg.head.src (.failed x.seg.head.id code)

/-- A finished entry is answered or acknowledged: at once when it is this package's own (R403, R409, R411). -/
def State.answerIn (s : State) (x : InEntry) (vals : Option (List (Nat × Nat))) : State :=
  let h := x.seg.head
  match vals, x.ctx with
  | some vs, some _ => s.remoteAnswer h.id vs
  | none, some _ => s.remoteDone h.id
  | none, none => s.owe h.src (.acks [h.id])
  | some vs, none =>
    let n := match h.op with
      | .read size _ => size
      | .atomic ty _ _ => ty.bits / 8
      | _ => 0
    let data := vs.flatMap fun v => toBytes n v.2
    let e : VEntry := { head := { op := .answer n vs, src := s.ownPkg, dst := h.src, cls := h.cls, tag := h.tag, id := h.id, ofs := 0 }
                        ctx := Config.numContexts, any := false, data := data, started := false, since := s.turns
                        space := 32 + data.length, sender := s.ownPkg }
    s.updStream h.src fun y => { y with resps := y.resps ++ [e] }

/-- The whole entry has landed. (DEDUCED, log 51.) -/
def entryDone (s : State) (h : PieceHead) : Bool := !s.pe.landed.any fun x => x.src == h.src && x.id == h.id

/-- What a fault record gives as the core of an entry that parks: the issuing core of this package's own, and else one past every
core, by the source package (R273, R406). -/
def State.entryCore (s : State) (x : InEntry) : Nat :=
  match x.ctx, mfind s.remotes x.seg.head.id with
  | some _, some r => (s.blk r.blk).core
  | _, _ => 0xF000 + x.seg.head.src

/-- The context performs a part of an entry, which is then acknowledged or answered if it was the last. -/
def State.performAs (s : State) (id : Nat) (x : InEntry) (ctx : Nat) : State :=
  let isWrite := match x.seg.head.op with
    | .write _ _ _ => true
    | _ => false
  let g := if isWrite then (s, true) else s.gather x.seg
  if !g.2 then g.1.dropIn id
  else
    match g.1.perform ctx x.seg with
    | .ok s' vals => if entryDone s' x.seg.head then (s'.dropIn id).answerIn x vals else s'.dropIn id
    | .fail code => g.1.failIn id x code
    | .park f acc =>
      if (s.ctx ctx).pfEn && !s.parkRoom ctx f.addr then s
      else match s.park ctx (s.entryCore x) f.addr acc (.remote id) with
      | some s => s
      | none => g.1.failIn id x 2

/-- Perform an entry that has arrived, in the order that R402 gives. (DEDUCED, log 51.) -/
def State.performIn (s : State) (id : Nat) (x : InEntry) (err : Bool) : State :=
  match x.seg.head.op with
  | .answer _ vals =>
    if err then (s.dropIn id).remoteFail x.seg.head.id 4 s.ownPkg
    else
      let g := s.gather x.seg
      if g.2 then (g.1.dropIn id).remoteAnswer x.seg.head.id vals else g.1.dropIn id
  | _ =>
    if err then s.failIn id x 4
    else
      match s.linkedCtx x with
      | none => s.failIn id x 1
      | some ctx => s.performAs id x ctx

/-- REMOTE_ENTRY_PERFORM: an entry that has arrived is performed; `err` is an uncorrectable error (R402, R404). (DEDUCED, log 51.) -/
def execRemoteEntryPerform (id : Nat) (err : Bool) (s : State) : Host.Outcome State Fault Refusal :=
  .next (match mfind s.pe.inbox id with
    | none => s
    | some x => if s.inBlocked id x || s.isParked (.remote id) then s else s.performIn id x err)

end Sys2Proof.Machine
end

