-- ==== Sys2Proof/Machine/Rs.lean ====
section
/-! DEFINITION. The Reed–Solomon code RS(128, 116) of the optical flits over GF(2⁸) (spec/15_optical_circuits.md R420): parity, and decoding of errors and erasures. -/

namespace Sys2Proof.Machine

open Sys2Proof

/-! ### GF(2⁸) with the polynomial x⁸ + x⁴ + x³ + x² + 1 -/

/-- A field element times α. -/
def gfDouble (a : Nat) : Nat := if 2 * a ≥ 256 then (2 * a) ^^^ 0x11D else 2 * a

/-- The product of `a` and the low `n` bits of `b`. -/
def gfMulN : Nat → Nat → Nat → Nat
  | 0, _, _ => 0
  | n + 1, a, b => (if b % 2 = 1 then a else 0) ^^^ gfMulN n (gfDouble a) (b / 2)

def gfMul (a b : Nat) : Nat := gfMulN 8 a b

/-- The inverse a²⁵⁴ = a² · a⁴ · … · a¹²⁸. -/
def gfInv (a : Nat) : Nat :=
  ((List.range 7).foldl (fun (r : Nat × Nat) _ => let q := gfMul r.2 r.2; (gfMul r.1 q, q)) (1, a)).1

/-- α to the power `n`. -/
def gfAlpha (n : Nat) : Nat := n.repeat gfDouble 1

/-! ### Polynomials, least degree first -/

def polyAdd : List Nat → List Nat → List Nat
  | [], q => q
  | p, [] => p
  | a :: p, b :: q => (a ^^^ b) :: polyAdd p q

def polyScale (c : Nat) (p : List Nat) : List Nat := p.map (gfMul c)

def polyMul : List Nat → List Nat → List Nat
  | [], _ => []
  | a :: p, q => polyAdd (polyScale a q) (0 :: polyMul p q)

def polyEval (p : List Nat) (x : Nat) : Nat := p.foldr (fun a r => a ^^^ gfMul x r) 0

/-- The formal derivative. -/
def polyDeriv (p : List Nat) : List Nat := (p.mapIdx fun i a => if i % 2 = 1 then a else 0).drop 1

/-! ### The code -/

/-- Parity symbols of a codeword. -/
def rsParity : Nat := 12
/-- Symbols of a codeword. -/
def rsLen : Nat := 128

/-- The generator with roots α⁰ to α¹¹, least degree first. -/
def rsGen : List Nat := (List.range rsParity).foldl (fun g j => polyMul g [gfAlpha j, 1]) [1]

/-- One step of the division by the generator; the remainder is held with its highest coefficient first. -/
def rsShift (r : List Nat) (b : Nat) : List Nat :=
  let q := b ^^^ nth 0 r 0
  polyAdd (r.drop 1 ++ [0]) (polyScale q (rsGen.take rsParity).reverse)

/-- The parity of a message; the first symbol of a codeword is its highest coefficient. -/
def rsEncode (msg : List Nat) : List Nat := msg.foldl rsShift (List.replicate rsParity 0)

/-- The syndromes of a received word. -/
def rsSyndromes (c : List Nat) : List Nat :=
  (List.range rsParity).map fun j => let x := gfAlpha j; c.foldl (fun a b => gfMul a x ^^^ b) 0

/-- The locator of symbol `k`. -/
def rsLocator (k : Nat) : Nat := gfAlpha (rsLen - 1 - k)

/-- What the search for the shortest recurrence holds. -/
structure BmState where
  c : List Nat
  b : List Nat
  len : Nat
  gap : Nat
  last : Nat

/-- One step of the search for the shortest recurrence of a sequence. -/
def bmStep (t : List Nat) (s : BmState) (n : Nat) : BmState :=
  let d := (List.range (s.len + 1)).foldl (fun a i => a ^^^ gfMul (nth 0 s.c i) (nth 0 t (n - i))) 0
  if d = 0 then { s with gap := s.gap + 1 }
  else
    let next := polyAdd s.c (polyScale (gfMul d (gfInv s.last)) (List.replicate s.gap 0 ++ s.b))
    if 2 * s.len ≤ n then { c := next, b := s.c, len := n + 1 - s.len, gap := 1, last := d }
    else { s with c := next, gap := s.gap + 1 }

/-- The error locator of a sequence of syndromes. -/
def bmSearch (t : List Nat) : List Nat :=
  ((List.range t.length).foldl (bmStep t) { c := [1], b := [1], len := 0, gap := 1, last := 1 }).c

/-- The value to add to symbol `k`, given the locator polynomial and its evaluator: zero when it is no root. -/
def rsFix (loc eval : List Nat) (k : Nat) : Nat :=
  let x := rsLocator k
  let i := gfInv x
  if polyEval loc i = 0 then gfMul x (gfMul (polyEval eval i) (gfInv (polyEval (polyDeriv loc) i))) else 0

/-- A codeword decodes when 2e + f ≤ 12 for its e errors and f erasures: the corrected codeword. (DEDUCED, log 53.) -/
def rsDecode (c : List Nat) (erased : List Nat) : Option (List Nat) :=
  let f := erased.length
  let syn := rsSyndromes c
  if rsParity < f then none
  else
    let gam := erased.foldl (fun g k => polyMul g [1, rsLocator k]) [1]
    let mod_ := (polyMul gam syn).take rsParity
    let loc := polyMul gam (bmSearch (mod_.drop f))
    let eval := (polyMul loc syn).take rsParity
    let fixed := c.mapIdx fun k b => b ^^^ rsFix loc eval k
    let errs := (List.range rsLen).filter fun k => !erased.contains k && nth 0 c k != nth 0 fixed k
    if (rsSyndromes fixed).all (· == 0) && decide (2 * errs.length + f ≤ rsParity) then some fixed else none

/-! ### Flits (R419, R420) -/

/-- Symbols of codeword `j` of a flit's bytes. -/
def flitWord (bytes : List Nat) (j : Nat) : List Nat := (List.range rsLen).map fun k => nth 0 bytes (2 * k + j)

/-- The bytes that two lists of symbols interleave to. -/
def interleave : List Nat → List Nat → List Nat
  | a :: x, b :: y => a :: b :: interleave x y
  | _, _ => []

/-- A flit's 256 bytes: its first 232 bytes and the parity of its codewords. (DESIGN CHOICE, log 8.) -/
def flitBytes (body : List Byte) : List Byte :=
  let ns := body.map (·.toNat)
  let par (j : Nat) : List Nat := rsEncode ((List.range 116).map fun k => nth 0 ns (2 * k + j))
  body ++ (interleave (par 0) (par 1)).map (BitVec.ofNat 8)

/-- A received flit decodes when both of its codewords do: the corrected flit, and the codewords that were corrected. (DEDUCED, log 53.) -/
def flitDecode (raw : List Byte) (erased : List Nat) : Option (List Byte) × Nat :=
  let ns := raw.map (·.toNat)
  let part (j : Nat) : Option (List Nat) :=
    rsDecode (flitWord ns j) ((erased.filter fun i => i % 2 == j && i < 256).map (· / 2))
  let fixed (j : Nat) : Nat := match part j with
    | none => 0
    | some w => if w = flitWord ns j ∧ (erased.filter fun i => i % 2 == j && i < 256).isEmpty then 0 else 1
  match part 0, part 1 with
  | some a, some b => (some ((interleave a b).map (BitVec.ofNat 8)), fixed 0 + fixed 1)
  | _, _ => (none, fixed 0 + fixed 1)

end Sys2Proof.Machine
end

