-- ==== Sys2Proof/Machine/Calendar.lean ====
section
/-! DEFINITION. Pod time, the calendar and its slots, the queue region, and the lane maps of the ports (spec/14_port_engine.md R388 to R395; spec/15_optical_circuits.md R417, R418, R422 to R428). -/

namespace Sys2Proof.Machine

open Sys2Proof

/-! ### Ports -/

/-- (DEDUCED, log 11.) -/
def State.port (s : State) (p : Nat) : Port := mget Port.reset s.pe.ports p
def State.updPort (s : State) (p : Nat) (f : Port → Port) : State :=
  { s with pe := { s.pe with ports := mput s.pe.ports p (f (s.port p)) } }

/-- Lane maps of a port towards a peer (R418). (DEDUCED, log 11.) -/
def Port.tx (p : Port) (d : Nat) : BitVec 16 := mget 0xFFFF p.txmap d
/-- (DEDUCED, log 11.) -/
def Port.rx (p : Port) (d : Nat) : BitVec 16 := mget 0xFFFF p.rxmap d

/-- A stream number lies before another (R419). -/
def seqBefore (a b : BitVec 32) : Bool := (a - b).msb

/-- The map of a stream flit: the one that came into force last before it (R422). -/
def mapAt (cur : BitVec 16) : List (BitVec 32 × BitVec 16) → BitVec 32 → BitVec 16
  | [], _ => cur
  | (q, old) :: t, f => if seqBefore f q then mapAt old t f else cur

/-- The lanes of a flit sent to a peer, and of one received from it, by its stream number (R422). -/
def Port.txAt (p : Port) (d : Nat) (q : BitVec 32) : BitVec 16 := mapAt (p.tx d) (mget [] p.txold d) q
def Port.rxAt (p : Port) (d : Nat) (q : BitVec 32) : BitVec 16 := mapAt (p.rx d) (mget [] p.rxold d) q

/-- Maps that no flit of the last 2³⁰ was sent under are forgotten, so that stream numbers compare as they were meant. -/
def keepOld (now : BitVec 32) (olds : List (BitVec 32 × BitVec 16)) : List (BitVec 32 × BitVec 16) :=
  olds.filter fun e => seqBefore (now - 0x40000000) e.1

/-- The channel of a circuit between two packages, and the output at which light of a channel leaves a plane's router (R417). -/
def channelOf (a b : Nat) : Nat := (a + b) % 64
def routerOut (a c : Nat) : Nat := (c + 64 - a % 64) % 64

/-- The lanes of a map, ascending, and the lane of the unit `u` of a sequence (R420). -/
def lanesOf (m : BitVec 16) : List Nat := (List.range 16).filter m.getLsbD
def unitLane (m : BitVec 16) (u : Nat) : Nat := nth 0 (lanesOf m) (u % (lanesOf m).length)

/-- The cached profile of a lane for a peer; the spec gives one that was never trained no values but its channel (R425). (DESIGN
CHOICE, log 10.) -/
def Port.profile (p : Port) (own d k : Nat) : Profile :=
  (mfind p.profiles (16 * d + k)).getD { equaliser := 0, phase := 0, channel := channelOf own d }

/-- The receiver loads the profiles of the lanes of its receive map (R425). -/
def Port.load (p : Port) (own d : Nat) : Port := { p with loaded := (lanesOf (p.rx d)).map fun k => (k, p.profile own d k) }

/-- A lane is retrained for a peer: what its profile then holds the spec leaves open (R424, R426). (DESIGN CHOICE, log 3.) -/
def State.train (s : State) (port peer : Nat) (k : Nat) : State :=
  let x : Profile := { equaliser := BitVec.ofNat 32 (Config.freeValue s.free).toNat
                       phase := BitVec.ofNat 32 (Config.freeValue (s.free + 1)).toNat, channel := channelOf s.ownPkg peer }
  { s.updPort port (fun p => { p with profiles := mput p.profiles (16 * peer + k) x }) with free := s.free + 2 }

/-- The bit of a lane. -/
def lane16 (k : Nat) : BitVec 16 := BitVec.ofNat 16 (2 ^ k)

/-- Set lanes in a map by peer. -/
def addLanes (m : Map (BitVec 16)) (d : Nat) (x : BitVec 16) : Map (BitVec 16) := mput m d (mget 0 m d ||| x)
def clearLanes (m : Map (BitVec 16)) (d : Nat) (x : BitVec 16) : Map (BitVec 16) := mput m d (mget 0 m d &&& ~~~x)

/-- `OPCFG` (R427). -/
def PortEngine.margin (p : PortEngine) : Nat := bits p.opcfg 31 24
def PortEngine.miss (p : PortEngine) : Nat := bits p.opcfg 23 16
def PortEngine.insvc (p : PortEngine) : Bool := p.opcfg.getLsbD 1

/-- The map that a receiver last proposed, or the one in force. -/
def Port.wanted (p : Port) (d : Nat) : BitVec 16 := mget (p.rx d) p.proposed d

/-- The receiver sends a proposal of a map. -/
def State.proposeNow (s : State) (port peer : Nat) (m : BitVec 16) : State :=
  (s.updPort port fun p => { p with proposed := mput p.proposed peer m }).urgent peer (.propose port m)

/-- The receiver proposes a map that it has not proposed (R422). (DEDUCED, log 55.) -/
def State.propose (s : State) (port peer : Nat) (m : BitVec 16) : State :=
  if (s.port port).wanted peer = m then s else s.proposeNow port peer m

/-! ### Pod time (R388, R393) -/

/-- The distance of two readings of pod time. -/
def podGap (a b : Nat) : Nat := max a b - min a b

/-- CALENDS_LOCK: the package locks to pod time; the first lock assigns its id and steps its estimate (R388, R393). (DEDUCED, log 52.) -/
def State.lock (s : State) (pos : BitVec 6) (time : BitVec 64) (ofs : BitVec 8) : State :=
  match s.pkgid with
  | none =>
    { s with pkgid := some pos.toNat, podTime := time, cal := { s.cal with locked := true, ofs := ofs } }
  | some _ =>
    if podGap s.podTime.toNat time.toNat ≤ 4 then
      { s with cal := { s.cal with locked := true, ofs := ofs, skipped := s.cal.skipped + (s.turns.1 - s.cal.lostAt) } }
    else s

/-- CALENDS_LOCK. A pod-excluded start never locks (R434). (DEDUCED, log 52.) -/
def execCalendsLock (pos : BitVec 6) (time : BitVec 64) (ofs : BitVec 8) (s : State) : Host.Outcome State Fault Refusal :=
  .next (if s.mc.podout || s.cal.locked then s else s.lock pos time ofs)

/-- LOCK_LOSS (R388, R389). -/
def execLockLoss (s : State) : Host.Outcome State Fault Refusal :=
  .next (if !s.cal.locked then s
    else { s with cal := { s.cal with locked := false
                                      lostAt := s.turns.1
                                      lost := if s.cal.lost = 255 then 255 else s.cal.lost + 1 } })

/-! ### What the flits of a stream bring (R401, R402, R421) -/

/-- The missing stream flits below the highest that has been held (R421). -/
def Stream.missing (x : Stream) : List (BitVec 32) :=
  let top := x.rxHeld.foldl (fun m q => if seqBefore m q.1 then q.1 else m) x.rxNext
  ((List.range (min (top - x.rxNext).toNat 64)).map fun i => x.rxNext + BitVec.ofNat 32 i).filter
    (fun q => !x.rxHeld.any fun h => h.1 == q) |>.take 32

/-- The record that says nothing but what the receiver says of the stream in each control record (R421). -/
def Stream.ackRecord (x : Stream) : Ctl := .flits x.rxNext x.missing

/-- A part of a piece has come from a peer: it is this package's, or it goes on to another (R401). -/
def State.takeSeg (s : State) (peer : Nat) (g : Seg) : State :=
  if g.head.dst = s.ownPkg then s.deliverSeg g (decide (g.head.src = peer)) none
  else
    { s with pe := { s.pe with transitIn := mput s.pe.transitIn s.nextId { sender := peer, seg := g } }, nextId := s.nextId + 1 }

/-- Stream flits that have been held and come next in order. -/
def State.takeHeld (s : State) (peer : Nat) : Nat → State
  | 0 => s
  | n + 1 =>
    let x := s.stream peer
    match x.rxHeld.find? fun h => h.1 == x.rxNext with
    | none => s
    | some h =>
      let s := (Config.segsOf h.2).foldl (fun s g => s.takeSeg peer g) s
      State.takeHeld (s.updStream peer fun y =>
        { y with rxNext := y.rxNext + 1, rxHeld := y.rxHeld.filter fun q => q.1 != h.1 }) peer n

/-- A stream flit: the stream keeps its order by `SEQ`, and a flit that has come before is discarded (R421). (DESIGN CHOICE, log 8.) -/
def State.takeStream (s : State) (peer : Nat) (q : BitVec 32) (body : List Byte) : State :=
  let x := s.stream peer
  if seqBefore q x.rxNext || x.rxHeld.any (fun h => h.1 == q) then s
  else
    let s := (s.updStream peer fun x => { x with rxHeld := x.rxHeld ++ [(q, body)] }).takeHeld peer (x.rxHeld.length + 1)
    if (s.stream peer).missing.isEmpty then s else s.urgent peer (s.stream peer).ackRecord

/-- The acknowledgement of stream flits (R421). -/
def Stream.acked (x : Stream) (below : BitVec 32) (missing : List (BitVec 32)) : Stream :=
  let sent := x.sent.filter fun f => !seqBefore f.seq below
  let lost := (sent.filter fun f => missing.contains f.seq && !x.again.contains f.seq && !x.resend.contains f.seq).map (·.seq)
  { x with sent := sent, again := x.again.filter fun q => !seqBefore q below
           resend := (x.resend.filter fun q => !seqBefore q below) ++ lost }

/-- A decoded flit from a peer. -/
def State.takeFlit (s : State) (port peer : Nat) (f : List Byte) : State :=
  let seq : BitVec 32 := BitVec.ofNat 32 (ofBytes (f.take 4))
  let body := (f.drop 8).take 224
  let kind := (nth 0 f 4).toNat
  if kind = 0 then
    match Config.flitAck body with
    | none => s
    | some (below, missing) => s.updStream peer fun x => x.acked below missing
  else if kind = 1 ∨ kind = 2 then s.takeStream peer seq body
  else if kind = 3 then s
  else s.updPort port fun p => { p with fecunc := p.fecunc + 1 }

/-! ### The almanac (R390, R391) -/

/-- The staged configuration and bank may take effect (R391). -/
def State.stagedOk (s : State) : Bool :=
  let c := s.cal
  let n := almSlots c.stg
  let entryOk (b : Byte) : Bool :=
    let kind := field b.toNat 7 6
    let peer := field b.toNat 5 0
    kind != 3 && (kind == 0 || peer == 0) && !(kind == 0 && decide (s.pkgid = some peer))
  decide (24 ≤ almVigil c.stg ∧ 1 ≤ bits c.stg 22 16 ∧ bits c.stg 22 16 ≤ 64 ∧ 1 ≤ n ∧ n ≤ 64) &&
    ((List.range (16 * n)).all fun i => entryOk (mget 0 c.staged i)) &&
    !(c.running && decide (c.next.toNat ≤ s.cycleNow)) && !s.mc.podout && s.pkgid.isSome &&
    !(c.stg.getLsbD 0 && !s.pe.pevqAct)

/-- The calendar's slots counted from the anchor of the running configuration: the number of the current one. -/
def State.slotIndex (s : State) : Nat := (s.podTime.toNat - s.cal.base) / almSlotNs s.cal.cfg

/-- The end of the current slot in pod time. -/
def State.slotEnd (s : State) : Nat := s.cal.base + (s.slotIndex + 1) * almSlotNs s.cal.cfg

/-- Nanoseconds of the slot that the ports know, as far as it has passed. -/
def State.slotPast (s : State) : Nat :=
  if s.slotIndex < s.cal.slot then (s.podTime.toNat - s.cal.base) % almSlotNs s.cal.cfg else almSlotNs s.cal.cfg

/-- A lane that locks after the vigil still carries flits of its slot; and no lane locks any more in it (R425). -/
def State.lockMayBeLate (s : State) : Bool :=
  Nat.ble (almVigil s.cal.cfg) s.slotPast && Nat.ble s.slotPast (almVigil s.cal.cfg + 8)
def State.lockIsKnown (s : State) : Bool := Nat.ble (almVigil s.cal.cfg + 8) s.slotPast

/-- Lanes of a port for a peer whose profiles are fresh and whose margin is not low. -/
def Port.good (p : Port) (d : Nat) : BitVec 16 := ~~~(mget 0 p.stale d ||| mget 0 p.low d)

/-- A receiver whose direction was dark cannot know of the other one: now that it has locked it proposes its map. While both maps are
empty that is of the lanes, proposed or good, that have locked (R423). (DEDUCED, log 55.) -/
def State.reproposal (s : State) (port d : Nat) : State :=
  let p := s.port port
  if p.rx d = 0 ∧ p.tx d = 0 then
    let m := p.good d &&& Config.lockedLanes s.free
    let s : State := { s with free := s.free + 1 }
    if m = 0 then s else s.proposeNow port d m
  else if p.rx d ≠ 0 ∧ p.rxdark.contains d = true then s.proposeNow port d (p.wanted d)
  else s

/-- It is known of a port's slot whether its lanes have locked: what came before is taken, and a map may be proposed again; when the
direction is dark, it is discarded (R423, R425). (DEDUCED, log 55.) -/
def State.settlePort (s : State) (port d : Nat) : State :=
  let p := s.port port
  match p.early with
  | none => s
  | some fs =>
    let s := s.updPort port fun p => { p with early := none }
    if p.dark then s else (fs.foldl (fun s f => s.takeFlit port d f) s).reproposal port d

/-- A slot that joined a port to a peer ends: it was dark, or lit (R425, R428). (DEDUCED, log 52.) -/
def Port.noteDark (p : Port) (d : Nat) (dark : Bool) : Port :=
  if dark then
    { p with darkRun := mput p.darkRun d (min 255 (mget 0 p.darkRun d + 1))
             darkTotal := mput p.darkTotal d (min (2 ^ 24 - 1) (mget 0 p.darkTotal d + 1)) }
  else { p with darkRun := mput p.darkRun d 0 }

/-- A peer's stream when a window to it closes: the piece being sent is cut after its last whole unit, and flits that are
still unacknowledged at the end of the window after theirs are sent again in the next (R399, R421). (DEDUCED, log 53.) -/
def Stream.close (x : Stream) : Stream :=
  let sent := x.sent.map fun f => { f with age := f.age + 1 }
  let late := (sent.filter fun f => decide (2 ≤ f.age) && !x.again.contains f.seq && !x.resend.contains f.seq).map (·.seq)
  { x with cur := none, sent := sent, resend := x.resend ++ late }

/-- The slot of a port ends: its window closes. Ports joined to one peer share its stream, which closes with the last of them
(R397, R399, R421, R425). -/
def State.closePort (s : State) (port : Nat) : State :=
  let p := s.port port
  match p.peer with
  | none => s
  | some d =>
    let others := (List.range numPorts).any fun q => q != port && decide ((s.port q).peer = some d) && (s.port q).opened
    let s := if p.opened then s.settlePort port d else s
    let s := if p.opened && !others then s.updStream d Stream.close else s
    let rxdark := !p.opened || p.dark || p.rx d == 0
    let others := p.rxdark.filter (· != d)
    s.updPort port fun p =>
      { (p.noteDark d (rxdark || p.tx d == 0)) with
        peer := none, opened := false, dark := false, early := none, rxdark := if rxdark then d :: others else others }

/-- Every port's slot ends. -/
def State.closePorts (s : State) : State := (List.range numPorts).foldl State.closePort s

/-- The switch: the staged configuration and bank come into force (R391). -/
def State.switchNow (s : State) (rot base slot : Nat) : State :=
  let s := s.closePorts
  let past := s.turns.1
  let s : State := { s with cal := { s.cal with cfg := s.cal.stg, active := s.cal.staged, go := false, rot := rot, base := base
                                                slot := slot }
                            pe := { s.pe with rotations := past } }
  { s with cal := { s.cal with first := s.cycleNow } }

/-- `GO` is written: the device checks what is staged, and switches at once when rotation 0 has begun already (R391). -/
def State.almGo (s : State) : State :=
  if !s.stagedOk then { s with cal := { s.cal with go := false, err := true } }
  else
    let s : State := { s with cal := { s.cal with go := true } }
    if !s.cal.running && decide (s.cal.epoch.toNat < s.podTime.toNat) then
      let base := s.cal.epoch.toNat
      s.switchNow 0 base ((s.podTime.toNat - base) / almSlotNs s.cal.stg + 1)
    else s

/-- A write of `ALMNEXT` (R391). -/
def State.writeAlmnext (s : State) (value : BitVec 64) : State :=
  let s : State := { s with cal := { s.cal with next := BitVec.ofNat 48 value.toNat
                                                err := s.cal.err && !value.getLsbD 62 } }
  if value.getLsbD 63 then s.almGo else s

/-- ALMNEXT_GO (R391). -/
def execAlmnextGo (value : BitVec 64) (s : State) : Host.Outcome State Fault Refusal := .next <| s.host (s.writeAlmnext value)

/-- ALMANAC_SWITCH: a switch that was accepted takes effect at the start of rotation `AT`, or at `T0` (R391). -/
def execAlmanacSwitch (s : State) : Host.Outcome State Fault Refusal :=
  .next (let c := s.cal
    if !c.go then s
    else if c.running then
      if c.next.toNat ≤ s.cycleNow then s.switchNow c.next.toNat (c.base + (c.next.toNat - c.rot) * almRotNs c.cfg) 0 else s
    else if c.epoch.toNat ≤ s.podTime.toNat then s.switchNow 0 c.epoch.toNat 0 else s)

/-! ### Slots (R392, R417, R425, R426) -/

/-- A leap slot that a peer shares retrains the port's stale and low-margin profiles for it: they are fresh, and their lanes return
to the map in the next window to the peer (R426). -/
def State.retrainPeer (s : State) (port d : Nat) : State :=
  let p := s.port port
  let ks := mget 0 p.stale d ||| mget 0 p.low d
  let s := s.updPort port fun p => { p with stale := mdel p.stale d, low := mdel p.low d, ready := addLanes p.ready d ks }
  (lanesOf ks).foldl (fun s k => s.train port d k) s

/-- A port at the start of a slot takes its entry of the active almanac, and loads its profiles; `leaps` names the peers that hold a
leap entry on a port in the slot (R390, R417, R425, R426). (DEDUCED, log 52.) -/
def State.slotPort (s : State) (slot : Nat) (leaps : List (Nat × Nat)) (port : Nat) : State :=
  let e := s.cal.entry slot port
  let s := s.updPort port fun p =>
    let p := { p with peer := if e.1 = 0 then some e.2 else none, leap := decide (e.1 = 1), opened := false, fresh := false
                      txUnit := 0, rxUnit := 0, dark := false, early := some [], detoured := 0, loaded := [] }
    if e.1 = 0 then p.load s.ownPkg e.2 else p
  if (s.port port).leap && s.cal.locked then
    (sortN ((leaps.filter fun q => q.1 == port).map (·.2))).foldl (fun s d => s.retrainPeer port d) s
  else s

/-- SLOT_START: the slot in progress ends, and the one that pod time gives begins with its vigil; which peers hold a leap entry on a
port in the slot is free, as each package knows only its own almanac (R392, R394, R398, R426). (DEDUCED, log 52.) -/
def execSlotStart (s : State) : Host.Outcome State Fault Refusal :=
  .next (if !s.cal.running ∨ s.podTime.toNat < s.cal.base ∨ s.slotIndex < s.cal.slot then s
    else
      let leaps := Config.peerLeaps s.free
      let s := s.closePorts
      let s : State := { s with free := s.free + 1
                                cal := { s.cal with slot := s.slotIndex + 1 }
                                pe := { s.pe with streams := s.pe.streams.map (fun q => (q.1, { q.2 with used := [] })) } }
      (List.range numPorts).foldl (fun s p => s.slotPort s.slotNow leaps p) s)

/-! ### The queue region (R395) -/

/-- A physical range meets the home range of a die that is out of service (R434, R443). -/
def State.inExcluded (s : State) (pa n : Nat) : Bool :=
  s.mc.out.any fun d => overlap pa n (d * Config.homeSize) Config.homeSize

/-- A write of `PEVQ` places the region, or is refused (R395). (DEDUCED, log 50, 54.) -/
def State.writePevq (s : State) (value : BitVec 64) : State :=
  let base := bits value 40 12 * 4096
  let n := bits value 4 0
  let size := 320 * 2 ^ n
  let ref := s.pe.pevqRef && !value.getLsbD 6
  let ok := decide (17 ≤ n ∧ n ≤ 24 ∧ base + size < Config.memTop) && !s.inExcluded base size && !inMetadata base size &&
    !(s.cal.running && s.pe.pevqAct)
  if ok then
    { s with pe := { s.pe with pevqBase := BitVec.ofNat 29 (base / 4096), pevqLog := BitVec.ofNat 5 n, pevqAct := true
                               pevqRef := ref } }
  else { s with pe := { s.pe with pevqRef := true } }

/-- PEVQ_WRITE (R395). -/
def execPevqWrite (value : BitVec 64) (s : State) : Host.Outcome State Fault Refusal := .next <| s.host (s.writePevq value)

/-! ### Lane maps (R422 to R428) -/

/-- A lane map of a port changes, from a stream flit onward: earlier flits keep the old map (R422); `EVT` (R428). -/
def State.setRx (s : State) (port peer : Nat) (m : BitVec 16) (q : BitVec 32) : State :=
  s.updPort port fun p => { p with rxmap := mput p.rxmap peer m, rxold := mput p.rxold peer ((q, p.rx peer) :: mget [] p.rxold peer)
                                   evt := p.evt || p.rx peer != m, ready := clearLanes p.ready peer m }
def State.setTx (s : State) (port peer : Nat) (m : BitVec 16) (q : BitVec 32) : State :=
  s.updPort port fun p => { p with txmap := mput p.txmap peer m, txold := mput p.txold peer ((q, p.tx peer) :: mget [] p.txold peer)
                                   evt := p.evt || p.tx peer != m }

/-- The port and lane exist, and the port's circuit is to the peer. -/
def State.onCircuit (s : State) (port lane peer : Nat) : Bool :=
  decide (port < numPorts ∧ lane < 16 ∧ (s.port port).peer = some peer)

/-- LOSS_OF_LIGHT: a lane shows loss of light for 64 ns (R422, R428). -/
def execLossOfLight (port lane peer : Nat) (s : State) : Host.Outcome State Fault Refusal :=
  .next (if !s.onCircuit port lane peer then s
    else
      let b := lane16 lane
      let s := s.updPort port fun p => { p with rxlos := p.rxlos ||| b, evt := p.evt || !p.rxlos.getLsbD lane }
      s.propose port peer ((s.port port).wanted peer &&& ~~~b))

/-- LMAP_PROPOSAL: a peer proposes its receive map; the sender answers with the first stream flit under it (R422). (DESIGN CHOICE, log 8.) -/
def execLmapProposal (port peer : Nat) (lanes : BitVec 16) (s : State) : Host.Outcome State Fault Refusal :=
  .next (if numPorts ≤ port ∨ 64 ≤ peer then s
    else (s.setTx port peer lanes (s.stream peer).seq).urgent peer (.answer port lanes (s.stream peer).seq))

/-- LMAP_ANSWER: the sender answers a proposal; both ends apply the map from flit `seq` onward (R418, R422). (DESIGN CHOICE, log 8.) -/
def execLmapAnswer (port peer : Nat) (lanes : BitVec 16) (seq : BitVec 32) (s : State) : Host.Outcome State Fault Refusal :=
  .next (match mfind (s.port port).proposed peer with
    | none => s
    | some m =>
      let s := s.setRx port peer lanes seq
      if m = lanes then s.updPort port fun p => { p with proposed := mdel p.proposed peer } else s)

/-- MARGIN_LOW: a lane's margin falls below `OPCFG.MARGIN`: the lane leaves the map (R424). -/
def execMarginLow (port lane peer margin : Nat) (s : State) : Host.Outcome State Fault Refusal :=
  .next (if !s.onCircuit port lane peer ∨ s.pe.margin ≤ margin then s
    else
      let b := lane16 lane
      let s := s.updPort port fun p => { p with low := addLanes p.low peer b }
      s.propose port peer ((s.port port).wanted peer &&& ~~~b))

/-- RETRAIN_DONE: a lane retrained in service has twice the margin: it returns to the map (R424). (DEDUCED, log 55.) -/
def execRetrainDone (port lane peer margin : Nat) (s : State) : Host.Outcome State Fault Refusal :=
  .next (let p := s.port port
    if !s.onCircuit port lane peer || !s.pe.insvc || !(mget 0 p.low peer).getLsbD lane || decide (margin < 2 * s.pe.margin) then s
    else
      let b := lane16 lane
      let s := (s.train port peer lane).updPort port fun p =>
        { p with low := clearLanes p.low peer b, ready := addLanes p.ready peer b }
      s.propose port peer ((s.port port).wanted peer ||| b))

/-- LANE_LOCK_FAIL: a lane of the receive map with a fresh profile has not locked by the vigil plus 8 ns: what came before in the slot
is discarded with all that comes (R425). It comes first of what follows that moment. (DEDUCED, log 55.) -/
def execLaneLockFail (port lane peer : Nat) (s : State) : Host.Outcome State Fault Refusal :=
  .next (let p := s.port port
    if !s.onCircuit port lane peer || !(p.rx peer).getLsbD lane || (mget 0 p.stale peer).getLsbD lane || !s.lockIsKnown ||
        !(p.dark || p.early.isSome) then s
    else
      let b := lane16 lane
      let s := s.updPort port fun p => { p with dark := true, stale := addLanes p.stale peer b }
      s.propose port peer ((s.port port).wanted peer &&& ~~~b))

/-- LANE_LOCK_LATE: a lane locks in the 8 ns after the vigil; the units that it missed arrive as erasures. When the maps of both
directions are empty the receiver proposes a good lane now that it has locked (R423, R425, R426). (DEDUCED, log 55.) -/
def execLaneLockLate (port lane peer : Nat) (s : State) : Host.Outcome State Fault Refusal :=
  .next (let p := s.port port
    if !s.onCircuit port lane peer || p.rx peer != 0 || p.tx peer != 0 || !(p.good peer).getLsbD lane || !s.lockMayBeLate then s
    else s.propose port peer (p.wanted peer ||| lane16 lane))

/-- LASER_FAILURE (R428). -/
def execLaserFailure (port lane : Nat) (s : State) : Host.Outcome State Fault Refusal :=
  .next (if numPorts ≤ port ∨ 16 ≤ lane then s
    else s.updPort port fun p => { p with txfault := p.txfault ||| lane16 lane, evt := p.evt || !p.txfault.getLsbD lane })

/-- EYE_SAMPLE: the shadow sampler reports the margin of the selected lane and peer (R424, R428). -/
def execEyeSample (port margin : Nat) (s : State) : Host.Outcome State Fault Refusal :=
  .next (if numPorts ≤ port then s
    else s.updPort port fun p => { p with eyevalid := true, eyemargin := BitVec.ofNat 8 margin })

end Sys2Proof.Machine
end

