-- ==== Sys2Proof/Machine/Circuits.lean ====
section
/-! DEFINITION. Windows and flits: the drain order, budgets, cuts and detours, control records, acknowledgement and resending of flits, and transit through an intermediate (spec/14_port_engine.md R397 to R403; spec/15_optical_circuits.md R419 to R421; spec/16_pod_programs.md R430, R431). -/

namespace Sys2Proof.Machine

open Sys2Proof

/-! ### Windows (R392, R431) -/

/-- The acknowledgements owed become one record (R431). -/
def mergeAcks (cs : List Ctl) : List Ctl :=
  let ids := cs.flatMap fun c => match c with
    | .acks is => is
    | _ => []
  let rest := cs.filter fun c => match c with
    | .acks _ => false
    | _ => true
  if ids.isEmpty then rest else .acks ids :: rest

/-- A peer's stream when a window to it opens: what is owed becomes ready to be sent, with what an earlier opening left unsent, and
lost flits are sent again. -/
def Stream.open_ (x : Stream) (waits : List Ctl) : Stream :=
  { x with ctl := mergeAcks (x.owed ++ waits ++ x.ctl), owed := [], again := x.again ++ x.resend, resend := [] }

/-- Records of one control flit: none says only how the stream stands (R431). -/
def Stream.records (x : Stream) : List Ctl := if x.ctl.isEmpty then [x.ackRecord] else x.ctl.take 14

/-- The body of a control flit: records of 16 bytes, each of which says how the stream stands (R421, R431). -/
def Stream.ctlBody (x : Stream) : List Byte :=
  x.records.flatMap fun c => (Config.ctlRecord x.rxNext x.missing c ++ List.replicate 16 0).take 16

/-- Notices of the entries of a peer that are parked here (R404). -/
def State.noticesFor (s : State) (peer : Nat) : List Ctl :=
  s.parked.filterMap fun p => match p.2.req with
    | .piece _ _ => none
    | .remote e => match s.parkedSource e with
      | some q => if q.1 = peer then some (.waiting q.2) else none
      | none => none

/-- The window of the port's slot may open: the vigil has passed (R388, R392). (DEDUCED, log 52.) -/
def State.mayOpen (s : State) (port : Nat) : Bool :=
  let p := s.port port
  s.cal.running && s.cal.locked && !p.opened && decide (s.cal.slot = s.slotIndex + 1) &&
    decide (s.slotEnd + almVigil s.cal.cfg ≤ s.podTime.toNat + almSlotNs s.cal.cfg)

/-- WINDOW_OPEN: the window opens with a control flit, and lanes retrained in a leap slot are proposed (R426, R431). (DEDUCED, log 52.) -/
def execWindowOpen (port : Nat) (s : State) : Host.Outcome State Fault Refusal :=
  .next (match (s.port port).peer with
    | none => s
    | some d =>
      if !s.mayOpen port then s
      else
        let x := s.stream d
        let s := s.updPort port fun p => { p with opened := true, fresh := true, rxlos := 0, evt := p.evt || p.rxlos != 0
                                                  txold := mput p.txold d (keepOld x.seq (mget [] p.txold d))
                                                  rxold := mput p.rxold d (keepOld x.rxNext (mget [] p.rxold d)) }
        let s := s.updStream d fun x => x.open_ (s.noticesFor d)
        let back := mget 0 (s.port port).ready d
        if back = 0 then s else s.propose port d ((s.port port).wanted d ||| back))

/-- WINDOW_CLOSE: the slot of the port ends (R399, R421). -/
def execWindowClose (port : Nat) (s : State) : Host.Outcome State Fault Refusal :=
  .next (if !(s.port port).opened || decide (s.slotIndex < s.cal.slot) then s else s.closePort port)

/-! ### Queues towards a peer (R397) -/

/-- The first entry of a queue towards a peer. -/
def State.headOf (s : State) (d : Nat) (k : QKey) : Option VEntry :=
  match k with
  | .resp c => (s.stream d).resps.find? fun e => e.head.cls == c
  | .transit c => (s.transitq d).find? fun e => e.head.cls == c
  | .virt c => (s.virtq d c).head?
  | .detour c => (s.stream d).detours.find? fun e => e.head.cls == c

/-- Change the first entry that `p` accepts, or remove it. -/
def editFirst (p : VEntry → Bool) (f : VEntry → Option VEntry) : List VEntry → List VEntry
  | [] => []
  | e :: t =>
    if p e then (match f e with
      | some e' => e' :: t
      | none => t)
    else e :: editFirst p f t

/-- Change or remove the first entry of a queue towards a peer. -/
def State.editHead (s : State) (d : Nat) (k : QKey) (f : VEntry → Option VEntry) : State :=
  match k with
  | .resp c => s.updStream d fun x => { x with resps := editFirst (fun e => e.head.cls == c) f x.resps }
  | .transit c => { s with pe := { s.pe with transit := mput s.pe.transit d (editFirst (fun e => e.head.cls == c) f (s.transitq d)) } }
  | .virt c => { s with pe := { s.pe with virt := mput s.pe.virt (queueKey d c) (editFirst (fun _ => true) f (s.virtq d c)) } }
  | .detour c => s.updStream d fun x => { x with detours := editFirst (fun e => e.head.cls == c) f x.detours }

/-- The class of a queue, and whether its entries consume the class's budget (R398). -/
def QKey.cls : QKey → Nat
  | .resp c => c
  | .transit c => c
  | .virt c => c
  | .detour c => c
def QKey.budgeted : QKey → Bool
  | .resp _ => false
  | _ => true

/-- The budget of a class in data bytes per peer and slot; none without a limit (R398). -/
def PortEngine.budget (p : PortEngine) (c : Nat) : Option Nat :=
  let b := bits p.pebud (16 * c + 15) (16 * c)
  if b = 0 then none else some (256 * b)

/-- Data that a class may still send to a peer in this slot. -/
def State.budgetLeft (s : State) (d c : Nat) : Option Nat :=
  (s.pe.budget c).map fun b => b - mget 0 (s.stream d).used c

/-- The data of the next piece of an entry: all that is left of it, or what fits the budget, in units of 32 bytes; none while
the budget is spent (R398, R399). -/
def pieceData (left : Nat) (budget : Option Nat) : Option Nat :=
  match budget with
  | none => some left
  | some b => if b = 0 then none else if left ≤ b then some left else if b < 32 then none else some (b / 32 * 32)

/-- The next piece of a queue. -/
def State.pieceOf (s : State) (d : Nat) (k : QKey) : Option (QKey × VEntry × Nat) :=
  match s.headOf d k with
  | none => none
  | some e =>
    (pieceData e.data.length (if k.budgeted then s.budgetLeft d k.cls else none)).map fun n => (k, e, n)

/-! ### Detours (R400, R401) -/

def PortEngine.deep (p : PortEngine) : Nat := bits p.peany 19 0
def PortEngine.maxb (p : PortEngine) : Nat := bits p.peany 39 20

/-- Entries of a queue may be detoured: it is deep, or its circuit has been dark too often (R400, R425). -/
def State.deepQueue (s : State) (d c : Nat) : Bool :=
  s.pe.deep != 0 &&
    (Nat.blt (s.pe.deep * 1024) (((s.virtq d c).map fun e => e.data.length).foldl (· + ·) 0) ||
      (List.range numPorts).any fun p => Nat.ble s.pe.miss (mget 0 (s.port p).darkRun d))

/-- An entry that a window to `i` may take from the queue of another destination, whole (R400, R401). (DEDUCED, log 52.) -/
def State.detourOf (s : State) (port i d c : Nat) : Option VEntry :=
  if d = i ∨ s.pkgid = some d ∨ 64 ≤ d ∨ s.deepQueue d c = false then none
  else
    match ((s.virtq d c).take 64).find? fun e => e.any && !e.started with
    | none => none
    | some e =>
      let credit := mget 0 (s.stream i).credit d + e.space
      let fitsBudget := match s.budgetLeft i c with
        | none => true
        | some b => b != 0 && Nat.ble e.data.length b
      if credit ≤ 2 ^ (s.pe.pevqLog.toNat - 6) ∧ fitsBudget = true ∧
          (s.port port).detoured + e.data.length ≤ s.pe.maxb * 1024 then some e
      else none

/-- Remove the first entry with a number. -/
def dropEntry (id : Nat) (q : List VEntry) : List VEntry := editFirst (fun e => e.head.id == id) (fun _ => none) q

/-- The entry leaves its queue for the intermediate: it takes credit there. (DEDUCED, log 52.) -/
def State.takeDetour (s : State) (port i d c : Nat) (e : VEntry) : State :=
  let s : State := { s with pe := { s.pe with virt := mput s.pe.virt (queueKey d c) (dropEntry e.head.id (s.virtq d c)) } }
  let s := s.updStream i fun x => { x with detours := x.detours ++ [e], credit := mput x.credit d (mget 0 x.credit d + e.space) }
  s.updPort port fun p => { p with detoured := p.detoured + e.data.length }

/-! ### The entry stream (R397, R399, R430) -/

/-- What of class `c` goes next to a peer: responses, transit entries, the peer's own queue, then detours (R397, R400). The
second part is the state once a detoured entry has left its queue. -/
def State.nextOfClass (s : State) (port d choice c : Nat) : Option ((QKey × VEntry × Nat) × State) :=
  match s.pieceOf d (.resp c) with
  | some x => some (x, s)
  | none =>
    match s.pieceOf d (.transit c) with
    | some x => some (x, s)
    | none =>
      match s.pieceOf d (.virt c) with
      | some x => some (x, s)
      | none =>
        match s.pieceOf d (.detour c) with
        | some x =>
          -- the remainder of a cut entry is another piece, and its header takes credit (R401)
          some (x, s.updStream d fun y => { y with credit := mput y.credit x.2.1.head.dst (mget 0 y.credit x.2.1.head.dst + 32) })
        | none =>
          (s.detourOf port d choice c).map fun e => ((.detour c, e, e.data.length), s.takeDetour port d choice c e)

/-- The next piece to a peer in the drain order (R397). (DEDUCED, log 53.) -/
def State.nextPiece (s : State) (port d choice : Nat) : Option ((QKey × VEntry × Nat) × State) :=
  [3, 2, 1, 0].findSome? fun c => s.nextOfClass port d choice c

/-- The entry stream while a flit is filled: room in the flit, the parts that it carries, and the state. -/
structure Fill where
  room : Nat
  segs : List Seg
  st : State

/-- Part of the piece in progress leaves: its header, then its data. Data leaves a queue once its 32-byte unit has left whole,
and consumes the budget then (R399, R430). (DEDUCED, log 53.) -/
def Fill.send (f : Fill) (d : Nat) (c : Cur) (e : VEntry) : Fill :=
  let h := min c.headLeft f.room
  let m := if h < c.headLeft then 0 else min c.left (f.room - h)
  let out := if m = c.left then c.pend + m else (c.pend + m) / 32 * 32
  let whole := decide (h = c.headLeft ∧ m = c.left)
  let s := f.st.editHead d c.key fun e =>
    let rest := e.data.drop out
    if whole && rest.isEmpty then none
    else some { e with head := { e.head with ofs := e.head.ofs + out }, data := rest, started := true }
  let next : Cur := { c with headLeft := c.headLeft - h, left := c.left - m, pend := c.pend + m - out }
  let s := s.updStream d fun x =>
    { x with cur := if whole then none else some next
             used := if c.key.budgeted then mput x.used c.key.cls (mget 0 x.used c.key.cls + out) else x.used }
  -- a transit entry that has left returns its credit to the package that sent it here (R401)
  let s := match c.key with
    | .transit _ => if whole && (e.data.drop out).isEmpty then s.owe e.sender (.credit d e.space) else s
    | _ => s
  let start := decide (0 < c.headLeft ∧ h = c.headLeft)
  let seg : Seg := { head := e.head, data := e.data.take out, start := start }
  { room := f.room - h - m, segs := if start || out != 0 then f.segs ++ [seg] else f.segs, st := s }

/-- Fill a flit of the stream to a peer; the remainder of a cut entry begins on a flit boundary (R399). (DEDUCED, log 53.) -/
def Fill.run (port d choice : Nat) : Nat → Fill → Fill
  | 0, f => f
  | n + 1, f =>
    if f.room = 0 then f
    else
      match (f.st.stream d).cur with
      | some c =>
        match f.st.headOf d c.key with
        | some e => Fill.run port d choice n (f.send d c e)
        | none => { f with st := f.st.updStream d fun x => { x with cur := none } }
      | none =>
        match f.st.nextPiece port d choice with
        | none => f
        | some ((k, e, len), s') =>
          if e.started && f.room != 224 then f
          else
            Fill.run port d choice n
              { f with st := s'.updStream d fun x => { x with cur := some { key := k, headLeft := 32, left := len, pend := 0 } } }

/-! ### FLIT_SEND (R392, R397, R419, R421, R431) -/

/-- The first 232 bytes of a flit. -/
def State.flitHead (s : State) (seq : BitVec 32) (kind d : Nat) (body : List Byte) : List Byte :=
  toBytes 4 seq.toNat ++ [BitVec.ofNat 8 kind, BitVec.ofNat 8 (s.ownPkg % 64), BitVec.ofNat 8 (d % 64), 0] ++
    (body ++ List.replicate 224 0).take 224

/-- The map of a control flit with these records, which goes before the stream flit that is next: the one in force, and of a flit that
answers proposals of the port the one that was in force before them (R422). (DEDUCED, log 55.) -/
def Port.ctlMap (p : Port) (port d : Nat) (cs : List Ctl) : BitVec 16 :=
  match (cs.filter fun c => match c with
    | .answer k _ _ => k == port
    | _ => false).length with
  | 0 => p.tx d
  | n + 1 => (((mget [] p.txold d)[n]?).map (·.2)).getD (p.tx d)

/-- The lanes on which a flit is sent: a control flit of a direction without a lane is sent on every lane, as a proposal that would end
the darkness must be. (DESIGN CHOICE, log 86.) -/
def sendLanes (m : BitVec 16) : BitVec 16 := if m = 0 then 0xFFFF else m

/-- The units of a flit on the lanes of a map, from the unit `u` of the window's sequence (R420). -/
def unitsOf (m : BitVec 16) (u : Nat) (bytes : List Byte) : List (Nat × List Byte) :=
  (List.range 16).map fun i => (unitLane m (u + i), (bytes.drop (16 * i)).take 16)

/-- A flit leaves on a port under a map, on the channel of the circuit (R417, R420). The units are counted from the window's opening,
and those of a direction without a lane are no part of their sequence. (DESIGN CHOICE, log 86.) -/
def State.emit (s : State) (port d kind : Nat) (m : BitVec 16) (seq : BitVec 32) (body : List Byte) : State :=
  let p := s.port port
  let s := s.updPort port fun p => { p with txUnit := if m = 0 then p.txUnit else p.txUnit + 16 }
  s.send (.flit port (channelOf s.ownPkg d) (unitsOf (sendLanes m) p.txUnit (flitBytes (s.flitHead seq kind d body))))

/-- Lanes in service. -/
def laneCount (m : BitVec 16) : Nat := popCount 16 m.toNat

/-- A flit on so many lanes ends before the window closes (R392). -/
def State.flitFits (s : State) (lanes : Nat) : Bool := Nat.ble 256 ((s.slotEnd - s.podTime.toNat) * 50 * lanes)

/-- The next flit to a peer on a port is a control flit: the window has just opened, or records are ready (R431). -/
def State.ctlNext (s : State) (port d : Nat) : Bool := (s.port port).fresh || !(s.stream d).ctl.isEmpty

/-- The map of the next flit: a resent flit keeps the one it was sent under (R422). -/
def State.nextMap (s : State) (port d : Nat) : BitVec 16 :=
  let x := s.stream d
  if s.ctlNext port d then (s.port port).ctlMap port d x.records
  else match x.again with
    | q :: _ => (s.port port).txAt d q
    | [] => (s.port port).tx d

/-- The port may send: its window is open, a queue region is in force, and the next flit ends before the window closes (R388,
R392, R395). -/
def State.maySend (s : State) (port d : Nat) : Bool :=
  let p := s.port port
  p.opened && s.cal.locked && s.pe.pevqAct && decide (s.slotIndex < s.cal.slot) &&
    s.flitFits (laneCount (sendLanes (s.nextMap port d)))

/-- A resent flit (R421). -/
def State.sendAgain (s : State) (port d : Nat) (q : BitVec 32) (rest : List (BitVec 32)) : State :=
  let x := s.stream d
  match x.sent.find? fun f => f.seq == q with
  | none => s.updStream d fun x => { x with again := rest }
  | some f =>
    let s := s.updStream d fun x =>
      { x with again := rest, sent := x.sent.map fun g => if g.seq = q then { g with age := 0 } else g }
    (s.updPort port fun p => { p with resend := p.resend + 1 }).emit port d 2 ((s.port port).txAt d q) q f.body

/-- The next flit to a peer: control records, resent flits, then the stream, and an idle flit when there is none (R397, R419, R421).
While the map in force is empty the direction is dark: entries wait in their queues and lost flits are sent later (R422, R425, R426). -/
def State.sendFlit (s : State) (port d choice : Nat) : State :=
  let x := s.stream d
  if s.ctlNext port d then
    ((s.updPort port fun p => { p with fresh := false }).updStream d fun x => { x with ctl := x.ctl.drop 14 }).emit port d 0
      (s.nextMap port d) x.seq x.ctlBody
  else if (s.port port).tx d = 0 then s
  else
    match x.again with
    | q :: rest => s.sendAgain port d q rest
    | [] =>
      let f := Fill.run port d choice 32 { room := 224, segs := [], st := s }
      if f.room = 224 then f.st.emit port d 3 ((s.port port).tx d) x.seq []
      else
        let body := Config.segBytes f.segs
        let s := f.st.updStream d fun x =>
          { x with seq := x.seq + 1, sent := x.sent ++ [{ seq := x.seq, body := body, age := 0 }] }
        s.emit port d 1 ((s.port port).tx d) x.seq body

/-- FLIT_SEND: a slot whose locks are known is settled, entries that wait for room enter their queues, and a port sends its next
flit; `choice` is the destination whose queue it visits for a detour (R397, R400). (DEDUCED, log 53.) -/
def execFlitSend (port choice : Nat) (s : State) : Host.Outcome State Fault Refusal :=
  .next (match (s.port port).peer with
    | none => s
    | some d =>
      let s := if s.lockIsKnown then s.settlePort port d else s
      if s.maySend port d then s.feedAll.sendFlit port d choice else s)

/-! ### FLIT_RECEIVE (R402, R420, R421) -/

/-- The stream number of a decoded flit. -/
def flitSeq (f : List Byte) : BitVec 32 := BitVec.ofNat 32 (ofBytes (f.take 4))

/-- The bytes of a flit received under a map that came on lanes without light or lock: those that show loss of light in this window,
and those that `gone` names as the flit comes (R420). -/
def Port.erasures (p : Port) (m : BitVec 16) (gone : List Nat) : List Nat :=
  (List.range 256).filter fun i =>
    let k := unitLane m (p.rxUnit + i / 16)
    p.rxlos.getLsbD k || gone.contains k

/-- The maps under which a flit of a peer may come: the one in force, and those before it (R422). -/
def Port.rxMaps (p : Port) (d : Nat) : List (BitVec 16) :=
  (p.rx d :: (mget [] p.rxold d).map (·.2)).filter (· != 0)

/-- A received flit decodes under the map of its own stream number, which is found with it (R420, R422); with what the decoder
corrected. (DEDUCED, log 53.) -/
def Port.decode (p : Port) (d : Nat) (raw : List Byte) (gone : List Nat) : Option (List Byte) × Nat :=
  let fits (r : Option (List Byte) × Nat) (m : BitVec 16) : Bool := match r.1 with
    | some f => p.rxAt d (flitSeq f) == m
    | none => false
  match (p.rxMaps d).findSome? fun m =>
      let r := flitDecode raw (p.erasures m gone)
      if fits r m then some r else none with
  | some r => r
  | none => (none, (flitDecode raw (p.erasures (p.rx d) gone)).2)

/-- FLIT_RECEIVE: 256 bytes arrive on a port; on the lanes of `gone` there is no light or no lock as they come. While the map in force
is empty the direction is dark, and what comes before it is known whether the lanes have locked is taken then (R420, R421, R422, R425).
(DEDUCED, log 53, 55.) -/
def execFlitReceive (port : Nat) (raw : List Byte) (gone : List Nat) (s : State) : Host.Outcome State Fault Refusal :=
  .next (let p := s.port port
    match p.peer with
    | none => s
    | some d =>
      if !p.opened || p.dark || !s.cal.locked || raw.length != 256 || p.rx d == 0 then s
      else
        let s := if s.lockIsKnown then s.settlePort port d else s
        let r := p.decode d raw gone
        let s := s.updPort port fun p => { p with feccor := p.feccor + BitVec.ofNat 32 r.2, rxUnit := p.rxUnit + 16 }
        match r.1 with
        | none => s.updPort port fun p => { p with fecunc := p.fecunc + 1 }
        | some f => match (s.port port).early with
          | some fs => s.updPort port fun p => { p with early := some (fs ++ [f]) }
          | none => s.takeFlit port d f)

/-! ### Transit (R401) -/

/-- A part of a piece enters the transit queue of its destination: it follows what has come of its entry before. -/
def addTransit (t : TransitIn) (now : Nat × Nat) (q : List VEntry) : List VEntry :=
  let h := t.seg.head
  let n := (if t.seg.start then 32 else 0) + t.seg.data.length
  let same (e : VEntry) : Bool := decide (e.head.src = h.src ∧ e.head.id = h.id ∧ e.head.ofs + e.data.length = h.ofs)
  if q.any same then
    q.map fun e => if same e then { e with data := e.data ++ t.seg.data, space := e.space + n } else e
  else
    q ++ [{ head := h, ctx := Config.numContexts, any := false, data := t.seg.data, started := false, since := now, space := n
            sender := t.sender }]

/-- TRANSIT_ARRIVE: a part of a detoured entry enters its transit queue (R401). -/
def execTransitArrive (id : Nat) (s : State) : Host.Outcome State Fault Refusal :=
  .next (match mfind s.pe.transitIn id with
    | none => s
    | some t =>
      let d := t.seg.head.dst
      { s with pe := { s.pe with transitIn := mdel s.pe.transitIn id
                                 transit := mput s.pe.transit d (addTransit t s.turns (s.transitq d)) } })

/-- TRANSIT_CREDIT: an intermediate returns credit for a destination (R401). (DESIGN CHOICE, log 8.) -/
def execTransitCredit (peer dest amount : Nat) (s : State) : Host.Outcome State Fault Refusal :=
  .next (s.updStream peer fun x => { x with credit := mput x.credit dest (mget 0 x.credit dest - amount) })

end Sys2Proof.Machine
end

