-- ==== Sys2Proof/Machine/Accept.lean ====
section
/-! DEFINITION. Acceptance of requests by engines (spec/01_machine.md R27, R34; spec/05_sequencer.md R165; spec/12_memory_side.md R364). -/

namespace Sys2Proof

/-- What an instruction that an engine accepts reads and writes through its operand fields. -/
def Instr.requestUse (i : Instr) : Machine.Use :=
  match i with
  | .cpy x => Machine.cpyUse x
  | .cpyt x => Machine.cpytUse x
  | .mma x => Machine.mmaUse x
  | .mld x => Machine.mldUse x
  | .mldV x => Machine.mldVUse x
  | .mst x => Machine.mstUse x
  | .fperm x => Machine.fpermUse x
  | .pwr x => Machine.pwrUse x
  | .prd x => Machine.prdUse x
  | .patom x => Machine.patomUse x
  | .psigArv x => Machine.psigUse x false
  | .psigAdd x => Machine.psigUse x true
  | .pperm x => Machine.ppermUse x
  | _ => { rds := [], dst := none, k := 0 }

/-- An engine's answer to the request of one wave. -/
def Instr.accept (i : Instr) : Machine.Iss → Machine.PendWave → Machine.State → Machine.Answer :=
  match i with
  | .cpy x => Machine.acceptCpy x
  | .cpyt x => Machine.acceptCpyt x
  | .mma x => Machine.acceptMma x
  | .mzero x => Machine.acceptMzero x
  | .mld x => Machine.acceptMld x
  | .mldV x => Machine.acceptMldV x
  | .mst x => Machine.acceptMst x
  | .fperm x => Machine.acceptFperm x
  | .pwr x => Machine.acceptPwr x
  | .prd x => Machine.acceptPrd x
  | .patom x => Machine.acceptPatom x
  | .psigArv x => Machine.acceptPsigArv x
  | .psigAdd x => Machine.acceptPsigAdd x
  | .pperm x => Machine.acceptPperm x
  | _ => fun _ _ s => .done s

end Sys2Proof

namespace Sys2Proof.Machine

open Sys2Proof

/-- A wave of a pending request as it issued. -/
def State.pendIss (s : State) (c k : Nat) (r : Run) (i : Instr) (members : List Nat) (p : PendWave) : Iss :=
  { s.issOf i c k r.group p.wid members with lanes := p.lanes, prev := p.prev }

/-- The members of a wave in the groups' list. -/
def membersOf (waves : List (WaveId × List Nat)) (w : WaveId) : List Nat :=
  match waves.find? fun q => decide (q.1 = w) with
  | some q => q.2
  | none => []

/-- The elements of queue sources as they stand now. -/
inductive Peek where
  | ok (p : PendWave)
  | unbound
  | wait (q : Nat) (r : RingRef) (k : Nat)

/-- Read the queue sources of a request as they stand at its acceptance (R364), unless the engine has begun it. (DEDUCED, log 45.) -/
def State.repeek (s : State) (x : Iss) (u : Use) (p : PendWave) : Peek :=
  if !u.pops || p.ready.isSome then .ok p
  else
    match s.scanPops x [] u.rds with
    | .ok _ vals =>
      let set (o : Nat) (l : Nat) (v : Nat) : Nat :=
        match mfind vals (o + 1) with
        | none => v
        | some m => mget (mget v m 0) m l
      .ok { p with ops := p.ops.map fun q => (q.1, q.2.mapIdx fun o v => set o q.1 v) }
    | .unbound => .unbound
    | .wait q r _ k => .wait q r k

/-- The operand codes of the destination. -/
def Use.dcodes (u : Use) : List Nat :=
  match u.dst with
  | some d => d.codes
  | none => []

/-- The destinations of a request that is refused or dropped are as they were before its issue. (DEDUCED, log 45.) -/
def State.refill (s : State) (p : PendWave) (u : Use) : State :=
  u.dcodes.foldl (fun s c =>
    (s.updWave p.wid fun x => (x.unsetLive c (mget 0 p.was c) p.lanes).markFull c).wakeReg p.wid c) s

/-- A refused request of a wave. -/
def PendWave.refuse (p : PendWave) (tr : Trap) : PendWave := { p with answered := true, refusal := some tr }

/-- A request that the engine takes uses its operands: popped elements and last uses are gone, and then the lanes of its destinations
are live (R207, R364). -/
def State.spendOperands (s : State) (x : Iss) (u : Use) : State :=
  ((s.takePops x u x.lanes.length).clearLast x u x.lanes).updWave x.wid fun w =>
    Wave.freeRows (u.dcodes.foldl (fun w c => w.setLive c (laneMask x.lanes)) w)

/-- The operands of a request are used once: as its engine begins it, or takes it. (DEDUCED, log 45.) -/
def State.spendOnce (s : State) (x : Iss) (u : Use) (p : PendWave) : State := if p.ready.isSome then s else s.spendOperands x u

/-- No register takes the result of a request with queue sources, so that its group keeps its slot until the popped elements arrive
(R366). -/
def Use.keepsSlot (u : Use) : Bool := u.pops && u.dst.all fun d => (queueOf d.op).isSome

/-- A wave's elements are gone when its request is taken: the attempt is counted, and its threads sleep on the ring (R365).
(DEDUCED, log 45.) -/
def State.sleepRequest (s : State) (x : Iss) (u : Use) (q : Nat) (r : RingRef) (k : Nat) : State :=
  (s.ringStall r false x.wid x.lanes q (Nat.ble k (s.ringRoom x u r false))).updThreads x.wid x.lanes fun t =>
    { t with wait := .onPop q }

/-- The engine answers the waves of a request one after another, until one waits for room (R27). -/
def State.answerWaves (s : State) (c k : Nat) (r : Run) (i : Instr) (waves : List (WaveId × List Nat)) :
    List PendWave → List PendWave × State
  | [] => ([], s)
  | p :: t =>
    if p.answered then
      let rest := State.answerWaves s c k r i waves t
      (p :: rest.1, rest.2)
    else
      let u := i.requestUse
      let x := s.pendIss c k r i (membersOf waves p.wid) p
      match s.repeek x u p with
      | .wait q ring n =>
        let rest := State.answerWaves ((s.refill p u).sleepRequest x u q ring n) c k r i waves t
        ({ p with answered := true, slept := true } :: rest.1, rest.2)
      | .unbound =>
        let rest := State.answerWaves ((s.refill p u).forgetWaits p.wid p.lanes) c k r i waves t
        (p.refuse (Trap.whole .bound 10 0) :: rest.1, rest.2)
      | .ok q =>
        match i.accept x q s with
        | .full => (p :: t, s)
        | .part done op s' => ({ q with done := p.done ++ done, ready := some op } :: t, s'.spendOnce x u p)
        | .trap tr s' =>
          let rest := State.answerWaves ((s'.refill p u).forgetWaits p.wid p.lanes) c k r i waves t
          (p.refuse tr :: rest.1, rest.2)
        | .done s' =>
          let s' := s'.spendOnce x u p
          if u.keepsSlot then
            let rest := State.answerWaves (s'.addProducer (s'.popArrival x 0)) c k r i waves t
            ({ p with answered := true, await := some s'.nextId } :: rest.1, rest.2)
          else
            let rest := State.answerWaves s' c k r i waves t
            ({ p with answered := true } :: rest.1, rest.2)

/-- The traps that refused waves take. -/
def State.refusals (s : State) (c k : Nat) (r : Run) (i : Instr) (waves : List (WaveId × List Nat)) (ps : List PendWave) :
    List (Iss × Trap) :=
  ps.filterMap fun p => p.refusal.map fun tr => (s.pendIss c k r i (membersOf waves p.wid) p, tr)

/-- The wave of the request stays at the instruction, or stands after it already. -/
def PendWave.stands (p : PendWave) : Bool := p.refusal.isSome || p.slept || p.passed

/-- A request whose every wave is answered retires: its waves go on, but those that have gone on already and those that sleep on a
ring, which ends the run, and refused waves take their traps (R27, R165, R366). -/
def State.retireRequest (s : State) (c k : Nat) (r : Run) (i : Instr) (waves : List (WaveId × List Nat)) (ps : List PendWave) :
    State :=
  let traps := s.refusals c k r i waves ps
  let ok := waves.filter fun w => !ps.any fun p => decide (p.wid = w.1) && p.stands
  let s := s.updSlot c k fun y => { y with pend := none }
  let s := ok.foldl (fun s w => s.advance (s.issOf i c k r.group w.1 w.2)) s
  let s := s.retire i c k r waves traps
  if ps.any (·.slept) then s.endRun c k r.group.members else s

/-- The slot has its engine's answer for every wave, and the popped elements that it keeps its slot for have arrived. -/
def State.answered (s : State) (ps : List PendWave) : Bool :=
  ps.all fun p => p.answered && p.await.all fun id => (mfind s.producers id).isNone

/-- A slot whose request is answered goes on (R165). -/
def State.tryRetire (s : State) (c k : Nat) : State :=
  match (s.slot c k).run, (s.slot c k).pend with
  | some r, some p => if s.answered p.waves then s.retireRequest c k r p.instr (s.groupWaves r.group) p.waves else s
  | _, _ => s

/-- Releases that waited for a remote write of the request that has been refused wait no more (R93). -/
def State.wakePods (s : State) (p : Pend) : State :=
  if remoteWriter p.instr then p.waves.foldl (fun s q => s.wakePod q.wid.blk) s else s

/-- A lower slot has a matrix request of the same block that was issued in the same cycle and has not been answered: that one is taken
first (R337, R343). -/
def State.lowerFirst (s : State) (core slot : Nat) (p : Pend) : Bool :=
  decide (p.instr.engine = 3) && (List.range slot).any fun j =>
    match (s.slot core j).pend with
    | none => false
    | some q =>
      decide (q.instr.engine = 3) && q.waves.any fun a => !a.answered && p.waves.any fun b =>
        !b.answered && decide (a.issued = b.issued ∧ a.wid.blk = b.wid.blk)

/-- REQUEST_ACCEPT: the engine takes the request of a slot, wave by wave, as far as it has room (R27, R34). (DEDUCED, log 45.) -/
def execRequestAccept (core slot : Nat) (s : State) : Host.Outcome State Fault Refusal :=
  .next (match (s.slot core slot).run, (s.slot core slot).pend with
    | some r, some p =>
      if s.lowerFirst core slot p then s else
      let waves := s.groupWaves r.group
      let q := s.answerWaves core slot r p.instr waves p.waves
      let s := if q.2.answered q.1 then q.2.retireRequest core slot r p.instr waves q.1
        else q.2.updSlot core slot fun y => { y with pend := some { p with waves := q.1 } }
      (s.trimStaged core).wakePods p
    | _, _ => s)

/-- A PPERM has begun: it is taken, and its entries go on into their queues whatever becomes of its slot (R407). -/
def PendWave.begunPerm (p : PendWave) : Bool :=
  match p.ready with
  | some (.perm _) => true
  | _ => false

/-- A slot stops at an instruction boundary (R150): waves whose request was taken stand after the instruction, refused ones
take their traps, and the others stand at it and issue it again, but for the threads that have finished it. -/
def State.stopSlot (s : State) (c k : Nat) : State :=
  match (s.slot c k).run with
  | none => s
  | some r =>
    match (s.slot c k).pend with
    | none => s.endRun c k r.group.members
    | some p =>
      let waves := s.groupWaves r.group
      let s := p.waves.foldl (fun s q =>
        let ms := membersOf waves q.wid
        let x := s.pendIss c k r p.instr ms q
        match q.refusal with
        | some tr => s.takeTrap (x.site tr) tr
        | none =>
          if q.passed || q.slept then s
          else if q.answered || q.begunPerm then s.advance x
          else
            let s := s.refill q p.instr.requestUse
            if q.done.isEmpty then s else s.advance { x with members := q.done, lanes := q.done }) s
      s.endRun c k r.group.members

end Sys2Proof.Machine
end

