-- ==== Sys2Proof/Machine/Queues.lean ====
section
/-! DEFINITION. The front end: work queues, the checks of packets and kernel descriptors, dependencies and completion (spec/04_dispatcher.md R126 to R137, R142). -/

namespace Sys2Proof.Machine

open Sys2Proof

/-! ### Functions, queues and contexts (R126, R127) -/

/-- The k-th number, counting from 0, of those that `p` accepts, when the listed numbers are the only ones that may not be
like `d`. -/
def nthOf (d : Bool) (p : Nat → Bool) (listed : List Nat) (limit k : Nat) : Option Nat :=
  if d then
    let n := listed.foldl (fun n q => if decide (q ≤ n) && !p q then n + 1 else n) k
    if n < limit then some n else none
  else (listed.filter p)[k]?

/-- The queue with a local number of a function, and its context likewise. -/
def State.queueOf (s : State) (f k : Nat) : Option Nat :=
  nthOf (decide (f = 0)) (fun q => decide ((s.queue q).func.toNat = f)) (sortN (s.queues.map (·.1))) Config.numQueues k
/-- (DEDUCED, log 56.) -/
def State.contextOf (s : State) (f k : Nat) : Option Nat :=
  nthOf (decide (f = 0)) (fun c => decide ((s.ctx c).func.toNat = f)) (sortN (s.ctxs.map (·.1))) Config.numContexts k

/-- The bound context of a queue (R130). -/
def Queue.ctx (q : Queue) : Nat := bits q.wqctl 35 24

/-- A queue is bound to a context: only queues of the context's function are (R126). (DEDUCED, log 56.) -/
def State.bound (s : State) (q c : Nat) : Bool := decide ((s.queue q).unbound = false ∧ (s.queue q).ctx = c ∧ (s.queue q).func = (s.ctx c).func)

/-- The queue with a context-local number: the queues bound to the context, in ascending global order (R126, R157). (DEDUCED, log 56.) -/
def State.boundQueue (s : State) (c k : Nat) : Option Nat :=
  nthOf (decide (c = 0 ∧ (s.ctx 0).func = 0)) (fun q => s.bound q c) (sortN (s.queues.map (·.1))) Config.numQueues k

/-! ### Queue registers (R128 to R132) -/

/-- `LOG2N`, and `EN` as it reads (R130). -/
def Queue.log2n (q : Queue) : Nat := bits q.wqctl 19 16
def Queue.en (q : Queue) : Bool := q.wqctl.getLsbD 0 && Nat.ble 4 q.log2n
def Queue.deven (q : Queue) : Bool := q.wqctl.getLsbD 2
def Queue.prio (q : Queue) : Nat := bits q.wqctl 23 20
/-- Packets of the ring, and packets in it (R128). -/
def Queue.size (q : Queue) : Nat := 2 ^ q.log2n
def Queue.held (q : Queue) : Nat := (q.wqwr - q.wqrd).toNat

/-- A queue stops with an error; one that has stopped keeps the first (R131, R135). (DEDUCED, log 57.) -/
def Queue.fail (q : Queue) (idx : BitVec 32) (code : Nat) : Queue :=
  if q.err then q else { q with err := true, erridx := idx, errcode := BitVec.ofNat 8 code }

/-- A write index is taken, or refused with code 4 (R132). -/
def Queue.setWidx (q : Queue) (v : BitVec 32) : Queue :=
  if q.size < (v - q.wqrd).toNat then q.fail q.wqrd 4 else { q with wqwr := v }

/-- A host write of `WIDX`; a queue that accepts LAUNCH only ignores it (R130, R132). -/
def State.writeWidx (s : State) (q : Nat) (value : BitVec 32) : State :=
  if (s.queue q).deven then s else s.updQueue q fun x => x.setWidx value

/-- WQWR_WRITE (R132). -/
def execWqwrWrite (fn queue : Nat) (value : BitVec 32) (s : State) : Host.Outcome State Fault Refusal :=
  .next <| s.host (match s.queueOf fn queue with
    | none => s
    | some q => s.writeWidx q value)

/-- The bits of `WQCTL` that hold fields (R130). -/
def wqctlMask : BitVec 64 := BitVec.ofNat 64 ((2 ^ 11 - 1) * 2 ^ 36 + (2 ^ 12 - 1) * 2 ^ 24 + 255 * 2 ^ 16 + 7)

/-- A queue with a written `WQCTL`, whose `CTX` names this context; with none the queue is bound to no context, and `CTX` reads as
written (R8, R126, R130). (DEDUCED, log 56.) -/
def Queue.withWqctl (q : Queue) (value : BitVec 64) (ctx : Option Nat) : Queue :=
  match ctx with
  | some c => { q with wqctl := BitVec.ofNat 64 (setField (value &&& wqctlMask).toNat 35 24 c), unbound := false }
  | none => { q with wqctl := value &&& wqctlMask, unbound := true }

/-- A host write of `WQCTL`: while `EN` is 1, one that changes another field is ignored (R130). (DEDUCED, log 56.) -/
def State.writeWqctl (s : State) (fn q : Nat) (value : BitVec 64) : State :=
  let x := s.queue q
  let y := x.withWqctl value (s.contextOf fn (bits value 35 24))
  if x.en && (decide ((y.wqctl ^^^ x.wqctl) &&& ~~~1#64 ≠ 0) || y.unbound != x.unbound) then s else s.updQueue q fun _ => y

/-- WQCTL_WRITE (R130). -/
def execWqctlWrite (fn queue : Nat) (value : BitVec 64) (s : State) : Host.Outcome State Fault Refusal :=
  .next <| s.host (match s.queueOf fn queue with
    | none => s
    | some q => s.writeWqctl fn q value)

/-- `ERR` is cleared: the packet at `ERRIDX` is taken again (R131, R135). -/
def Queue.clearErr (q : Queue) : Queue := if q.err then { q with err := false, wqrd := q.erridx } else q

/-- WQSTAT_ERR_CLEAR. -/
def execWqstatErrClear (fn queue : Nat) (s : State) : Host.Outcome State Fault Refusal :=
  .next <| s.host (match s.queueOf fn queue with
    | none => s
    | some q => s.updQueue q Queue.clearErr)

/-- A write of a queue's byte of `QFUNC` (R127). -/
def State.writeQfunc (s : State) (queue : Nat) (value : Byte) : State :=
  let f := bits value 4 0
  let q := s.queue queue
  if Config.numQueues ≤ queue ∨ 16 < f ∨ f = q.func.toNat ∨ q.en = true then s
  else s.updQueue queue fun x => { x with func := BitVec.ofNat 5 f, wqctl := Queue.reset.wqctl, unbound := false }

/-- A write of a context's byte of `CFUNC` (R127). -/
def State.writeCfunc (s : State) (ctx : Nat) (value : Byte) : State :=
  let f := bits value 4 0
  let busy := s.queues.any fun q => s.bound q.1 ctx && q.2.en
  if Config.numContexts ≤ ctx ∨ 16 < f ∨ f = (s.ctx ctx).func.toNat ∨ (s.ctx ctx).st ≠ .idle ∨ busy = true then s
  else s.updCtx ctx fun x => { x with func := BitVec.ofNat 5 f }

/-- QFUNC_WRITE. -/
def execQfuncWrite (queue : Nat) (value : Byte) (s : State) : Host.Outcome State Fault Refusal :=
  .next <| s.host (s.writeQfunc queue value)

/-- CFUNC_WRITE. -/
def execCfuncWrite (ctx : Nat) (value : Byte) (s : State) : Host.Outcome State Fault Refusal :=
  .next <| s.host (s.writeCfunc ctx value)

/-! ### Reads of the front end at `.pkg` (R135, R136) -/

/-- Bytes at a virtual address of a context; none where a translation or protection fault stands in the way. (DEDUCED, log 58.) -/
def State.frontRead (s : State) (ctx va n : Nat) : Option (List Byte) :=
  match s.remotePlaces ctx (va % 2 ^ 56) n .eread with
  | .error _ => none
  | .ok m => some ((List.range n).map fun i =>
      match placeOf m (va % 2 ^ 56 + i) with
      | some p => s.homeByte p.loc
      | none => 0)

/-- (DEDUCED, log 58.) -/
def State.frontNat (s : State) (ctx va n : Nat) : Option Nat := (s.frontRead ctx va n).map ofBytes

/-! ### Packets and descriptors (R133, R134) -/

def pktType (p : BitVec 512) : Nat := bits p 3 0
def pktNdep (p : BitVec 512) : Nat := bits p 6 4
def pktOrder (p : BitVec 512) : Bool := p.getLsbD 7
def pktCint (p : BitVec 512) : Bool := p.getLsbD 9
def pktGrp (p : BitVec 512) : Nat := bits p 12 10
def pktCset (p : BitVec 512) : Nat := bits p 16 13
def pktCompen (p : BitVec 512) : Bool := p.getLsbD 30
def pktCompsig (p : BitVec 512) : Nat := bits p 46 31
def pktKdesc (p : BitVec 512) : Nat := 64 * bits p 96 47
def pktCount (p : BitVec 512) : Nat := 4 * bits p 213 160
def pktSig (p : BitVec 512) (j : Nat) : Nat := bits p (335 + 48 * j) (320 + 48 * j)
def pktWait (p : BitVec 512) (j : Nat) : Nat := bits p (367 + 48 * j) (336 + 48 * j)

/-- The packet is a NOP. -/
def Launch.nop (l : Launch) : Bool := decide (pktType l.packet = 0)

/-- Reserved bits of a packet and of a descriptor. -/
def pktReserved : Nat := (2 ^ 22 - 1) * 2 ^ 298
def descReserved : Nat := (2 ^ 116 - 1) * 2 ^ 396 + 2 ^ 319 + 31 * 2 ^ 187

/-- Bits of a NOP packet that may be set: its fields and its dependencies in force (R133). -/
def nopFields (ndep : Nat) : Nat :=
  255 + 2 ^ 9 + 2 ^ 30 + (2 ^ 16 - 1) * 2 ^ 31 + (2 ^ (48 * ndep) - 1) * 2 ^ 320

/-- What code 1 asks of a packet (R135). -/
def pktForm (p : BitVec 512) : Bool :=
  decide (pktType p ≤ 1 ∧ pktNdep p ≤ 4) && decide (p.toNat &&& pktReserved = 0) &&
    (decide (pktType p = 1) || decide (p.toNat &&& nopFields (pktNdep p) = p.toNat))

/-- Signals in use lie below the context's signal count (R135). -/
def sigsOk (p : BitVec 512) (n : Nat) : Bool :=
  ((List.range (pktNdep p)).all fun j => Nat.blt (pktSig p j) n) && (!pktCompen p || Nat.blt (pktCompsig p) n)

/-- Grid extents with the selection applied (R133). -/
def gridOf (p d : BitVec 512) : Nat × Nat × Nat :=
  let pick (a b : Nat) : Nat := if a = 0 then b else a
  (pick (bits p 127 97) (bits d 318 288), pick (bits p 143 128) (bits d 335 320), pick (bits p 159 144) (bits d 351 336))

/-- A launch of a packet and a descriptor, with the priority that its queue has now (R138). (DESIGN CHOICE, log 92.) -/
def mkLaunch (ctx queue : Nat) (idx : BitVec 32) (prio : Nat) (p d : BitVec 512) (after : Option Nat) : Launch :=
  let g := gridOf p d
  { Launch.ofDesc ctx queue p d with
    idx := idx, prio := prio, gx := g.1, gy := g.2.1, gz := g.2.2, st := .waiting, after := after }

/-- Bytes of `RECMASK` (R134). -/
def Launch.recmask (l : Launch) : BitVec 64 := BitVec.ofNat 64 (bits l.desc 255 192)

/-- What code 2 asks of a launch (R135). -/
def Launch.fieldsOk (l : Launch) (nsig : Nat) : Bool :=
  decide (1 ≤ l.gx ∧ l.gx < 2 ^ 31 ∧ 1 ≤ l.gy ∧ l.gy ≤ 65535 ∧ 1 ≤ l.gz ∧ l.gz ≤ 65535) &&
    decide (1 ≤ l.nwaves ∧ l.nwaves ≤ 16 ∧ 1 ≤ l.clus ∧ l.clus ≤ 4 ∧ l.gx % l.clus = 0) &&
    decide (4 ≤ l.sreg ∧ l.sreg + l.sscr + l.sl1 = 24) &&
    decide (1 ≤ l.win ∧ l.win ≤ 768 ∧ 1 ≤ l.floor ∧ l.floor ≤ l.win ∧ l.nwaves * l.floor ≤ 256 * l.sreg) &&
    decide (l.chn = 0 ∨ l.chf + l.chn ≤ l.win) && decide (16 * l.bars ≤ 8192 * l.sscr) &&
    decide (l.priv ≤ 256 * 4096) && (!l.alias_ || decide (l.privbase ≠ 0)) && sigsOk l.packet nsig &&
    (decide (l.recmask = 0) || decide (l.data ≠ 0))

/-! ### Preloaded records (R134, R144, R429) -/

/-- The records of `RECMASK`, ascending. -/
def Launch.recNames (l : Launch) : List Nat := (List.range 64).filter fun n => l.recmask.getLsbD n

/-- The image of a preloaded record, and its relocation: the data-section base is added to bits [55:0] of a global-space base;
none where a fault or a carry out of bit 55 stands in the way. -/
def State.loadRecord (s : State) (l : Launch) (i : Nat) : Option (BitVec 256) :=
  (s.frontNat l.ctx (l.data + bits l.desc 287 256 + 4 * i) 4).bind fun off =>
    (s.frontNat l.ctx (l.data + off) 32).bind fun v =>
      let b := field v 255 192
      if b.testBit 63 then some (BitVec.ofNat 256 v)
      else
        let x := b % 2 ^ 56 + l.data
        if 2 ^ 56 ≤ x then none else some (BitVec.ofNat 256 (setField v 247 192 x))

/-- The preloaded records of a launch. -/
def State.loadRecords (s : State) (l : Launch) : Option (Map (BitVec 256)) :=
  ((List.range l.recNames.length).foldl (fun (m : Option (Map (BitVec 256))) i =>
    m.bind fun m => (s.loadRecord l i).map fun v => mput m (nth 0 l.recNames i) v) (some []))

/-- The record offset table and the records can be read (R135 code 3). -/
def State.recordsReadable (s : State) (l : Launch) : Bool :=
  (List.range l.recNames.length).all fun i =>
    match s.frontNat l.ctx (l.data + bits l.desc 287 256 + 4 * i) 4 with
    | none => false
    | some off => (s.frontNat l.ctx (l.data + off) 32).isSome

/-! ### Reservations in the pool (R146) -/

/-- What one block reserves, and what the first block on a quad and on a die reserve besides. -/
def Launch.blockNeed (l : Launch) : Nat :=
  l.nwaves * l.win * 256 + l.shadow 1 * 65536 + (if l.alias_ then 0 else 1024 * l.priv) + 1632 * 1024
def Launch.quadNeed (l : Launch) : Nat := l.shadow 2 * 65536
def Launch.dieNeed (l : Launch) : Nat := l.shadow 3 * 65536 + 10 * 2 ^ 20

/-- Bytes of a context's pool that are reserved. -/
def State.poolUsed (s : State) (c : Nat) : Nat :=
  let x := s.ctx c
  ((s.blocks.filter fun b => decide (b.2.ctx = c)).map fun b => (s.launch b.2.launch).blockNeed).foldl (· + ·) 0 +
    (x.quadArea.map fun q => q.2 * 65536).foldl (· + ·) 0 + (x.dieArea.map fun q => q.2 * 65536 + 10 * 2 ^ 20).foldl (· + ·) 0

/-! ### Whether a launch can be placed at all (R135 code 6, R142) -/

/-- The cores of a core set; set 0 is every core (R133, R142). A mask that cannot be read names no core. -/
def State.inSet (s : State) (c set core : Nat) : Bool :=
  decide (set = 0) ||
    (match s.frontRead c ((s.ctx c).ctxcset.toNat + 256 * (set - 1) + core / 8) 1 with
     | some [b] => b.getLsbD (core % 8)
     | _ => false)

/-- Blocks of a launch that an empty core holds at once. -/
def Launch.perCore (l : Launch) : Nat :=
  min (min 8 (32 / max 1 l.nwaves)) (256 * l.sreg / max 1 (l.nwaves * l.floor))

/-- A core is excluded until the next package reset (R143, R434, R444). -/
def State.coreGone (s : State) (core : Nat) : Bool := s.mc.faulty.contains core || s.mc.out.contains (dieOf core)

/-- Cores of a core set in a quad that may ever take a block. -/
def State.setIn (s : State) (l : Launch) (quad : Nat) : Nat :=
  ((rangeFrom (4 * quad) 4).filter fun k => s.inSet l.ctx (pktCset l.packet) k && !s.coreGone k).length

/-- Quads of the package. -/
def numQuads : Nat := 512

/-- One block fits an empty core, a cluster an empty quad of its core set, and the pool its reservations. -/
def State.placeable (s : State) (l : Launch) : Bool :=
  Nat.ble 1 l.perCore && ((List.range numQuads).any fun q => Nat.ble l.clus (s.setIn l q)) &&
    Nat.ble (l.clus * l.blockNeed + l.quadNeed + l.dieNeed) (s.ctx l.ctx).poolSize

/-- Blocks of a launch's grid. -/
def Launch.blocks (l : Launch) : Nat := l.gx * l.gy * l.gz

/-! ### Taking a packet (R132, R135) -/

/-- The packet at an index of a queue's ring. (DEDUCED, log 57.) -/
def State.packetAt (s : State) (q : Queue) (idx : BitVec 32) : Option (BitVec 512) :=
  (s.frontNat q.ctx (bits q.wqbase 55 12 * 4096 + 64 * (idx.toNat % q.size)) 64).map (BitVec.ofNat 512)

/-- The checks of one packet in the order of their codes, up to code 3; a packet or descriptor that cannot be read fails code 3.
(DEDUCED, log 57.) -/
def State.checkForm (s : State) (qn : Nat) (q : Queue) (idx : BitVec 32) (after : Option Nat) : Except Nat Launch :=
  let nsig := (s.ctx q.ctx).ctxsign.toNat
  match s.packetAt q idx with
  | none => .error 3
  | some p =>
    if !pktForm p then .error 1
    else if pktType p = 0 then
      if sigsOk p nsig then .ok (mkLaunch q.ctx qn idx q.prio p 0 after) else .error 2
    else
      match s.frontNat q.ctx (pktKdesc p) 64 with
      | none => .error 3
      | some d =>
        let l := mkLaunch q.ctx qn idx q.prio p (BitVec.ofNat 512 d) after
        if d &&& descReserved ≠ 0 then .error 1
        else if !l.fieldsOk nsig then .error 2
        else if !s.recordsReadable l then .error 3
        else .ok l

/-- A launch can be placed at all (R135 code 6). -/
def State.everPlaced (s : State) (l : Launch) : Bool := l.nop || s.placeable l

/-- The checks of a packet that is taken alone, in the order of their codes. (DEDUCED, log 57.) -/
def State.checkPacket (s : State) (qn : Nat) (q : Queue) (idx : BitVec 32) (after : Option Nat) : Except Nat Launch :=
  match s.checkForm qn q idx after with
  | .error c => .error c
  | .ok l => if s.everPlaced l then .ok l else .error 6

/-- The packets taken together, from an index upwards: their launches, or the index and the code of the first that fails, up to
code 3. A packet before them in the queue has the number `prev`, and they get the numbers from `first` upwards. (DEDUCED, log 57.) -/
def State.checkPackets (s : State) (qn : Nat) (q : Queue) (idx : BitVec 32) (prev : Option Nat) (first : Nat) :
    Nat → Except (BitVec 32 × Nat) (List Launch)
  | 0 => .ok []
  | n + 1 =>
    match s.checkForm qn q idx prev with
    | .error c => .error (idx, c)
    | .ok l =>
      match State.checkPackets s qn q (idx + 1) (some first) (first + 1) n with
      | .error e => .error e
      | .ok ls => .ok (l :: ls)

/-- The front end may take a packet of a queue (R130, R131, R132, R148). (DEDUCED, log 57.) -/
def State.takeable (s : State) (q : Queue) : Bool :=
  let x := s.ctx q.ctx
  q.en && !q.unbound && !q.err && q.placing.isNone && decide (q.held ≠ 0) && (decide (x.st = .idle) || decide (x.st = .run)) && !x.resetting

/-! ### Readiness (R136) -/

/-- A launch has completed. -/
def State.completed (s : State) (id : Nat) : Bool := decide ((s.launch id).st = .done)

/-- The dependencies of a launch, and its order; a signal that cannot be read is not met. (DEDUCED, log 58.) -/
def State.condsMet (s : State) (l : Launch) : Bool :=
  ((List.range (pktNdep l.packet)).all fun j =>
    match s.frontNat l.ctx ((s.ctx l.ctx).ctxsig.toNat + 8 * pktSig l.packet j) 8 with
    | some v => Nat.ble (pktWait l.packet j) v
    | none => false) &&
    (!pktOrder l.packet || (match l.after with
      | none => true
      | some p => s.completed p))

/-- A taken launch becomes ready: every member of its group meets its conditions. (DEDUCED, log 58.) -/
def State.isMet (s : State) (l : Launch) : Bool :=
  s.condsMet l && l.group.all fun m => s.condsMet (s.launch m)

/-! ### Completion (R137) -/

/-- MSI-X vectors of a function (R446). -/
def vectorsOf (f : Nat) : Nat := if f = 0 then 2048 else 64

/-- A launch completes: its signal rises by one at home, and its interrupt is raised. (DEDUCED, log 58.) -/
def State.complete (s : State) (id : Nat) : State :=
  let l := s.launch id
  let q := s.queue l.queue
  let s := s.updLaunch id fun x => { x with st := .done }
  let s := if !pktCompen l.packet then s
    else
      match s.translate l.ctx (((s.ctx l.ctx).ctxsig.toNat + 8 * pktCompsig l.packet) % 2 ^ 56) 0 .atomic with
      | .error _ => s
      | .ok p => s.enterHome none (sectorOf p.loc (pageCmode p.entry) (toBytes 8 ((s.homeNat p.loc 8 + 1) % 2 ^ 64)))
  if pktCint l.packet && q.wqctl.getLsbD 1 then
    s.send (.msix q.func.toNat (bits q.wqctl 46 36 % vectorsOf q.func.toNat))
  else s

/-- A queue's packet leaves placement when every launch taken with it has been placed (R132). -/
def State.leavePlacement (s : State) (id : Nat) : State :=
  let l := s.launch id
  let ids := id :: l.group
  if ids.all fun m => decide ((s.launch m).st ≠ .waiting ∧ (s.launch m).st ≠ .ready) then
    s.updQueue l.queue fun q => match q.placing with
      | some p => if ids.contains p then { q with placing := none } else q
      | none => q
  else s

/-- A waiting launch whose conditions are met becomes ready; a NOP completes at once (R133, R136). -/
def State.pollOne (s : State) (id : Nat) : State :=
  let l := s.launch id
  if decide (l.st ≠ .waiting) || decide ((s.ctx l.ctx).st = .fault) || !s.isMet l then s
  else if l.nop then (s.complete id).leavePlacement id
  else s.updLaunch id fun x => { x with st := .ready }

/-- Read the signals of every waiting launch, as often as a completion of a NOP may change them (R136). -/
def State.pollAll : Nat → State → State
  | 0, s => s
  | n + 1, s => State.pollAll n ((s.launches.map (·.1)).foldl State.pollOne s)

def State.poll (s : State) : State := State.pollAll ((s.launches.filter fun l => l.2.nop && decide (l.2.st = .waiting)).length + 1) s

/-- Enter taken launches into the tables. -/
def State.addLaunches (s : State) (qn : Nat) (ls : List Launch) : State :=
  let first := s.nextId
  let n := ls.length
  let ids := rangeFrom first n
  let group (i : Nat) : List Nat := if n = 1 then [] else ids.filter (· != i)
  let s : State := { s with
    launches := (ids.zip ls).foldl (fun m p => mput m p.1 { p.2 with group := group p.1 }) s.launches
    nextId := first + n }
  s.updQueue qn fun q => { q with placing := some first, prev := some (first + n - 1) }

/-- DEPENDENCY_POLL: the front end reads a waiting launch's signals (R136). -/
def execDependencyPoll (launch : Nat) (s : State) : Host.Outcome State Fault Refusal := .next ((s.pollOne launch).poll)

/-! ### A launch's end (R137, R148) -/

/-- The context has no block, and none is being placed: it is IDLE (R148). (DEDUCED, log 60.) -/
def State.settleIdle (s : State) (c : Nat) : State :=
  if (s.ctx c).st = .run ∧ (s.blocks.any fun b => decide (b.2.ctx = c)) = false ∧
      (s.launches.any fun l => decide (l.2.ctx = c ∧ l.2.st = .ready)) = false then
    s.updCtx c fun x => { x with st := .idle }
  else s

/-- LAUNCH_COMPLETE: placement is over and every block has released its resources or been culled (R137). -/
def execLaunchComplete (launch : Nat) (s : State) : Host.Outcome State Fault Refusal :=
  .next (let l := s.launch launch
    if l.st ≠ .placed ∨ (s.ctx l.ctx).st = .fault ∨ (s.blocks.any fun b => decide (b.2.launch = launch)) = true then s
    else (s.complete launch).poll)

end Sys2Proof.Machine
end

