-- ==== Sys2Proof/Machine/Place.lean ====
section
/-! DEFINITION. Placement: the order in which launches obtain cores, culling, the choice of cores, the start of a block, chained blocks, and the release of a block (spec/04_dispatcher.md R138 to R146; spec/01_machine.md R36; spec/03_memory_model.md R95; spec/06_registers.md R228, R229). -/

namespace Sys2Proof.Machine

open Sys2Proof

/-! ### Cores that fit (R141, R143) -/

/-- A core is excluded from placement (R143, R434, R444). -/
def State.coreOut (s : State) (core : Nat) : Bool := s.mc.hot.contains core || s.coreGone core

/-- Waves on a core. -/
def State.waveCount (s : State) (core : Nat) : Nat :=
  ((s.blocksOn core).map fun b => (s.launchOf b).nwaves).foldl (· + ·) 0

/-- A core fits a block of a launch, but for the pool. -/
def State.coreFits (s : State) (l : Launch) (core : Nat) : Bool :=
  let bs := s.blocksOn core
  let split (m : Launch) : Bool := decide (m.sreg = l.sreg ∧ m.sscr = l.sscr ∧ m.sl1 = l.sl1)
  let floors := (bs.map fun b => (s.launchOf b).nwaves * (s.launchOf b).floor).foldl (· + ·) 0
  !s.coreOut core && s.inSet l.ctx (pktCset l.packet) core && Nat.blt bs.length 8 &&
    Nat.ble (s.waveCount core + l.nwaves) 32 && (bs.all fun b => split (s.launchOf b)) &&
    Nat.ble (floors + l.nwaves * l.floor) (256 * l.sreg)

/-- A droop event struck the core's die in the last 100 microseconds (R141, R442). -/
def State.drooped (s : State) (core : Nat) : Bool :=
  match mfind s.mc.droopNs (dieOf core) with
  | some t => Nat.blt s.ns (t + 100000)
  | none => false

/-- The preference of a core: non-empty first, then no droop, then fewer waves. (DEDUCED, log 59.) -/
def State.rankOf (s : State) (core : Nat) : Nat :=
  (if (s.blocksOn core).isEmpty then 2 else 0) * 64 + (if s.drooped core then 1 else 0) * 64 + s.waveCount core

/-- The best `n` fitting cores of a quad in order of preference, ties to the lower core number; none when it has too few. (DEDUCED, log 59.) -/
def State.quadCores (s : State) (l : Launch) (n quad : Nat) : Option (List (Nat × Nat)) :=
  let keys := sortN (((rangeFrom (4 * quad) 4).filter (s.coreFits l)).map fun k => s.rankOf k * 4096 + k)
  if keys.length < n then none else some ((keys.take n).map fun k => (k / 4096, k % 4096))

/-- One list of preferences is better than another. (DEDUCED, log 59.) -/
def betterRanks : List Nat → List Nat → Bool
  | a :: x, b :: y => decide (a < b) || (decide (a = b) && betterRanks x y)
  | _, _ => false

/-- What `n` blocks of a launch on a quad would reserve (R146). -/
def State.needOn (s : State) (l : Launch) (n quad : Nat) : Nat :=
  let c := s.ctx l.ctx
  n * l.blockNeed + (if (mfind c.quadArea quad).isNone then l.quadNeed else 0) +
    (if (mfind c.dieArea (quad / 8)).isNone then l.dieNeed else 0)

/-- The cores for a cluster of `n` blocks: the quad with the best cores, ties to the lower quad (R141). (DEDUCED, log 59.) -/
def State.chooseCores (s : State) (l : Launch) (n : Nat) : Option (List Nat) :=
  let room := (s.ctx l.ctx).poolSize - s.poolUsed l.ctx
  ((List.range numQuads).foldl (fun (best : Option (List (Nat × Nat))) q =>
    match s.quadCores l n q with
    | none => best
    | some ks =>
      if room < s.needOn l n q then best
      else
        match best with
        | none => some ks
        | some b => if betterRanks (ks.map (·.1)) (b.map (·.1)) then some ks else best) none).map fun ks => ks.map (·.2)

/-! ### The start of a block (R140, R144, R146, R160) -/

/-- The lowest free block position of a core (R260). (DEDUCED, log 59.) -/
def State.freePos (s : State) (core : Nat) : Nat :=
  let used := (s.blocksOn core).map fun b => (s.blk b).pos
  ((List.range 8).find? fun p => !used.contains p).getD 0

/-- A wave of a placed block: its threads at `ENTRY`, its role, and the names that it inherits (R144, R160, R203, R228). -/
def Launch.newWave (l : Launch) (order i now : Nat) (names : List (Nat × VReg)) : Wave :=
  { Wave.placed (l.role i) order with
    vregs := names, threads := (List.range 64).map fun k => (k, Thread.placed l.entry now) }

/-- The names that wave `i` of a block hands to its successor (R228). -/
def Block.handed (b : Block) (l : Launch) (i : Nat) : List (Nat × VReg) :=
  if b.chained.contains i then (mget Wave.absent b.waves i).vregs.filter fun p => l.inChain p.1 else []

/-- A block of a launch starts on a core at a position, whose L1 has the lines of the launch (R260, R261); `names` gives the names that
each wave inherits. -/
def State.startBlock (s : State) (id cluster core pos blin : Nat) (recs : Map (BitVec 256))
    (names : Nat → List (Nat × VReg)) : State :=
  let l := s.launch id
  let order := s.nextId
  let b : Block := { Block.placed l.ctx id core pos with
    bx := blin % l.gx, by_ := blin / l.gx % l.gy, bz := blin / l.gx / l.gy, blin := blin, cluster := cluster
    rank := blin % max 1 l.clus, recs := recs
    waves := (List.range l.nwaves).map fun i => (i, l.newWave (order + 1 + i) i s.cycle (names i)) }
  let s : State := { s with blocks := mput s.blocks order b, nextId := order + 1 + l.nwaves }
  let s := s.updCore core fun k => { k with icache := k.icache.filter fun x => x.1 != l.ctx }
  let s := s.trimCleans order
  s.updCtx l.ctx fun c =>
    { c with
      st := .run
      quadArea := if (mfind c.quadArea (quadOf core)).isNone then mput c.quadArea (quadOf core) (l.shadow 2) else c.quadArea
      dieArea := if (mfind c.dieArea (dieOf core)).isNone then mput c.dieArea (dieOf core) (l.shadow 3) else c.dieArea }

/-- The kept blocks of cluster `j` start on cores of one quad. -/
def State.startCluster (s : State) (id j : Nat) (cores : List Nat) (recs : Map (BitVec 256)) : State :=
  let l := s.launch id
  let cluster := s.nextId
  let s : State := { s with nextId := cluster + 1 }
  ((List.range cores.length).zip cores).foldl (fun s p =>
    s.startBlock id cluster p.2 (s.freePos p.2) (l.clus * j + p.1) recs fun _ => []) s

/-! ### A block's resources are freed (R36, R146, R333) -/

/-- A block's hold of the matrix engine ends (R333). -/
def State.dropEngine (s : State) (b : Nat) : State :=
  let core := (s.blk b).core
  if (s.core core).mx.holder = some b then
    s.updCore core fun c => { c with mx := { c.mx with holder := none, releasing := false } }
  else s

/-- Remove a block: its reservations and its hold of the matrix engine end. -/
def State.freeBlock (s : State) (b : Nat) : State :=
  let x := s.blk b
  let s := s.dropEngine b
  let s : State := { s with
    blocks := mdel s.blocks b
    barObjs := s.barObjs.filter fun o => decide (o.sp ≠ .scr b)
    ringObjs := s.ringObjs.filter fun r => decide (r.1.sp ≠ .scr b)
    recs := s.recs.filter fun r => decide (r.owner ≠ b) }
  let left (p : Block → Bool) : Bool := s.blocks.any fun q => decide (q.2.ctx = x.ctx) && p q.2
  s.updCtx x.ctx fun c =>
    { c with
      quadArea := if left fun y => decide (quadOf y.core = quadOf x.core) then c.quadArea else mdel c.quadArea (quadOf x.core)
      dieArea := if left fun y => decide (dieOf y.core = dieOf x.core) then c.dieArea else mdel c.dieArea (dieOf x.core) }

/-! ### Chained launches (R145, R228, R229) -/

/-- Slots that blocks of a launch left by EXIT.CHAIN, on `n` distinct cores of one quad: the oldest first. (DEDUCED, log 59.) -/
def State.chainCores (s : State) (l : Launch) (n : Nat) : Option (List Nat) :=
  (List.range numQuads).findSome? fun q =>
    let bs := l.chainSlots.filter fun b => decide (quadOf (s.blk b).core = q)
    let one := bs.foldl (fun (acc : List Nat) b => if acc.any fun a => decide ((s.blk a).core = (s.blk b).core) then acc else acc ++ [b]) []
    if one.length < n then none else some (one.take n)

/-- The kept blocks of cluster `j` take over left slots with their resources; each wave inherits the chain range of the wave
of the same index. (DEDUCED, log 59.) -/
def State.takeSlots (s : State) (id j : Nat) (slots : List Nat) (recs : Map (BitVec 256)) : State :=
  let l := s.launch id
  let cluster := s.nextId
  let s : State := { s with nextId := cluster + 1 }
  let s := s.updLaunch id fun x => { x with chainSlots := x.chainSlots.filter fun b => !slots.contains b }
  ((List.range slots.length).zip slots).foldl (fun s p =>
    let old := s.blk p.2
    let s := s.startBlock id cluster old.core old.pos (l.clus * j + p.1) recs (old.handed l)
    s.freeBlock p.2) s

/-! ### The next cluster of a launch (R138, R140) -/

/-- Clusters of a launch. -/
def Launch.clusters (l : Launch) : Nat := l.blocks / max 1 l.clus

/-- Blocks that the next cluster keeps (R140). -/
def Launch.kept (l : Launch) : Nat :=
  if pktCount l.packet = 0 then l.clus else min l.clus (l.count - l.clus * l.next)

/-- The launch takes over slots: it has found no fitting core, and a block of it has been placed (R145). -/
def Launch.onSlots (l : Launch) : Bool := l.chaining && decide (0 < l.chn)

/-- The place of the next cluster of a launch. -/
def State.spot (s : State) (l : Launch) : Option (List Nat) :=
  if l.onSlots then s.chainCores l l.kept else s.chooseCores l l.kept

/-- A launch that obtains cores: it is ready, it is the first of its group, and its context takes blocks (R148). -/
def State.wantsCores (s : State) (id : Nat) : Bool :=
  let l := s.launch id
  let x := s.ctx l.ctx
  decide (l.st = .ready) && l.group.all (fun m => decide (id < m)) && (decide (x.st = .idle) || decide (x.st = .run)) && !x.resetting

/-- Placement of a launch is over: slots left by EXIT.CHAIN are freed (R145, R229). -/
def State.endPlacement (s : State) (id : Nat) : State :=
  let l := s.launch id
  let s := s.updLaunch id fun x => { x with st := .placed, chainSlots := [] }
  let s := l.chainSlots.foldl State.freeBlock s
  (s.leavePlacement id).settleIdle l.ctx

/-- A launch ends with code 3: a preloaded record cannot be loaded (R144, R429). When the host clears `ERR`, its packet is taken
again, after the packet before it (R131, R136). (DEDUCED, log 59.) -/
def State.endLaunch (s : State) (id : Nat) : State :=
  let l := s.launch id
  let s := s.updLaunch id fun x => { x with st := .ended, chainSlots := [] }
  let s := l.chainSlots.foldl State.freeBlock s
  ((s.updQueue l.queue fun q => { q.fail l.idx 3 with prev := l.after }).leavePlacement id).settleIdle l.ctx

/-- The count is read before a cluster is considered; a value lower than an earlier one sets `CDEC` (R140). (DEDUCED, log 58.) -/
def State.readCount (s : State) (id : Nat) : State :=
  let l := s.launch id
  let v := if pktCount l.packet = 0 then l.count else (s.frontNat l.ctx (pktCount l.packet) 4).getD l.count
  let s := if v < l.count then s.updQueue l.queue fun q => { q with cdec := true } else s
  s.updLaunch id fun x => { x with considered := true, count := max v l.count }

/-- The queue was served (R138). -/
def State.serve (s : State) (l : Launch) : State := { s with fe := { s.fe with served := mput s.fe.served l.prio l.queue } }

/-- The next cluster of a launch has been placed. -/
def State.advanceLaunch (s : State) (id : Nat) (culled : Bool) : State :=
  let l := s.launch id
  let s := s.updLaunch id fun x => { x with next := x.next + 1, considered := false, since := none }
  if culled || Nat.ble l.clusters (l.next + 1) then s.endPlacement id else s

/-- A cluster that finds no room: it waits, and the blocks of a chained launch take over slots from now on (R138, R145). -/
def State.noRoom (s : State) (id : Nat) : State :=
  s.updLaunch id fun x =>
    { x with since := some (x.since.getD s.ns), chaining := x.chaining || (decide (0 < x.chn) && decide (0 < x.next)) }

/-- Place the next cluster of a launch, or cull it. -/
def State.placeNext (s : State) (id : Nat) : State :=
  let s := if (s.launch id).considered then s else s.readCount id
  let l := s.launch id
  let k := l.kept
  if k = 0 then (s.serve l).endPlacement id
  else
    match s.spot l with
    | none => s.noRoom id
    | some at_ =>
      match s.loadRecords l with
      | none => s.endLaunch id
      | some recs =>
        let s := if l.onSlots then s.takeSlots id l.next at_ recs else s.startCluster id l.next at_ recs
        (s.serve l).advanceLaunch id (decide (k < l.clus))

/-! ### Staged groups (R142) -/

/-- Place every cluster of a launch; none when one finds no room. -/
def State.placeGrid (id : Nat) (recs : Map (BitVec 256)) : Nat → State → Option State
  | 0, s => some s
  | n + 1, s =>
    let l := s.launch id
    match s.chooseCores l l.clus with
    | none => none
    | some ks => State.placeGrid id recs n ((s.startCluster id l.next ks recs).updLaunch id fun x => { x with next := x.next + 1 })

/-- Place all the blocks of the members of a group at once; none when one finds no room. -/
def State.placeAll (s : State) : List Nat → Option State
  | [] => some s
  | id :: t =>
    match s.loadRecords (s.launch id) with
    | none => none
    | some recs => (State.placeGrid id recs (s.launch id).clusters s).bind fun s => s.placeAll t

/-- Place a staged group. (DEDUCED, log 59.) -/
def State.placeGroup (s : State) (id : Nat) : State :=
  let ids := id :: (s.launch id).group
  match ids.find? fun m => (s.loadRecords (s.launch m)).isNone with
  | some m => (ids.foldl (fun s n => s.updLaunch n fun x => { x with st := .ended }) s).endLaunch m
  | none =>
    match s.placeAll ids with
    | none => s.updLaunch id fun x => { x with since := some (x.since.getD s.ns), considered := true }
    | some s' => ids.foldl (fun s m => (s.serve (s.launch m)).endPlacement m) s'

/-! ### Taking a packet (R132, R135, R142) -/

/-- The package as placement sees it when it is empty: no block, no reservation of the context, no core too hot. -/
def State.emptied (s : State) (c : Nat) : State :=
  { s with blocks := [], mc := { s.mc with hot := [] } }.updCtx c fun x => { x with quadArea := [], dieArea := [] }

/-- The whole grids of the members of a group fit their core sets at once (R141, R142). (DEDUCED, log 57.) -/
def State.gridsFit (s : State) (ls : List Launch) : Bool :=
  let ids := rangeFrom s.nextId ls.length
  let empty : State := { s.emptied ((ls.map (·.ctx)).headD 0) with
    launches := (ids.zip ls).foldl (fun m p => mput m p.1 p.2) s.launches, nextId := s.nextId + ls.length }
  (ids.foldl (fun (o : Option State) id => o.bind fun t => State.placeGrid id [] (t.launch id).clusters t) (some empty)).isSome

/-- A staged group is well formed (R142). (DEDUCED, log 57.) -/
def State.groupOk (s : State) (ls : List Launch) : Bool :=
  let sets := ls.map fun l => pktCset l.packet
  ls.all (fun l => !l.nop && decide (pktCset l.packet ≠ 0) && decide (pktCount l.packet = 0)) && decide (sets.Nodup) &&
    (List.range Config.numCores).all (fun k => Nat.ble (ls.filter fun l => s.inSet l.ctx (pktCset l.packet) k).length 1) &&
    s.gridsFit ls

/-- PACKET_TAKE: the front end takes the packet at `RIDX`, with the others of its staged group (R132, R135, R142). (DEDUCED, log 57.) -/
def execPacketTake (queue : Nat) (s : State) : Host.Outcome State Fault Refusal :=
  .next (let q := s.queue queue
    if !s.takeable q then s
    else
      let g := match s.packetAt q q.wqrd with
        | none => 0
        | some p => if pktForm p && decide (pktType p = 1) then pktGrp p else 0
      if q.size ≤ g then s.updQueue queue fun x => { (x.fail x.wqrd 5) with wqrd := x.wqrd + 1 }
      else if q.held ≤ g then s
      else
        let idx := q.wqrd
        let s := s.updQueue queue fun x => { x with wqrd := x.wqrd + BitVec.ofNat 32 (g + 1) }
        match s.checkPackets queue q idx q.prev s.nextId (g + 1) with
        | .error e => s.updQueue queue fun x => x.fail e.1 e.2
        | .ok ls =>
          if 0 < g ∧ s.groupOk ls = false then s.updQueue queue fun x => x.fail idx 5
          else
            match ls.find? fun l => !s.everPlaced l with
            | some l => s.updQueue queue fun x => x.fail l.idx 6
            | none => (s.addLaunches queue ls).poll)

/-! ### Whose turn it is (R138) -/

/-- The front end can use the launch's turn: its next cluster has not been considered, is culled, or can be placed; a staged
group is placed whole. -/
def State.canUse (s : State) (id : Nat) : Bool :=
  let l := s.launch id
  !l.considered || (if l.group.isEmpty then decide (l.kept = 0) || (s.spot l).isSome else (s.placeAll (id :: l.group)).isSome)

/-- One launch is offered cores before another: higher priority first, then in ascending queue number from the queue served
last at that priority (R138). -/
def State.offeredBefore (s : State) (a b : Nat) : Bool :=
  let x := s.launch a
  let y := s.launch b
  let turn (l : Launch) : Nat :=
    match mfind s.fe.served l.prio with
    | none => l.queue
    | some q => if q < l.queue then l.queue else l.queue + Config.numQueues
  decide (y.prio < x.prio) || (decide (x.prio = y.prio) && decide (turn x < turn y))

/-- It is the launch's turn: no launch that is offered cores before it can use its own (R138). -/
def State.hasTurn (s : State) (id : Nat) : Bool :=
  s.wantsCores id && !(s.launches.any fun q => s.wantsCores q.1 && s.offeredBefore q.1 id && s.canUse q.1)

/-- CLUSTER_PLACE: the front end culls or places the next cluster of the launch whose turn it is (R138, R140, R141). -/
def execClusterPlace (launch : Nat) (s : State) : Host.Outcome State Fault Refusal :=
  .next (if !s.hasTurn launch then s
    else if (s.launch launch).group.isEmpty then s.placeNext launch else s.placeGroup launch)

/-! ### BLOCK_RELEASE (R36, R95) -/

/-- A SPILLED name of the block is being read back (R218, R230). -/
def Block.reloading (b : Block) : Bool := b.waves.any fun w => w.2.vregs.any fun r => r.2.reload.isSome

/-- A request of a block's threads has not completed (R36). -/
def State.outstanding (s : State) (b : Nat) : Bool :=
  let of_ (w : WaveId) : Bool := decide (w.blk = b)
  (s.blk b).reloading || s.producers.any (fun p => of_ p.2.wid) || s.copies.any (fun p => of_ p.2.wid) ||
    s.commits.any (fun p => of_ p.2.wid) || s.remotes.any (fun p => decide (p.2.blk = b)) || s.arrivals.any (fun p => of_ p.2.wid) || s.msts.any (fun p => of_ p.2.wid) ||
    s.msReqs.any (fun p => of_ p.2.wid) || s.fperms.any (fun p => of_ p.2.wid) ||
    (s.core (s.blk b).core).mx.queue.any fun r => of_ r.wid

/-- BLOCK_RELEASE: every wave has exited and every request has completed; the block commits its records to `.pkg` and releases
its resources, or leaves its slot to a block of its launch (R36, R95, R145). Wave 0 stands for the writer of what its commit brings home
(R122). (DESIGN CHOICE, log 93.) -/
def execBlockRelease (blk : Nat) (s : State) : Host.Outcome State Fault Refusal :=
  .next (match mfind s.blocks blk with
    | none => s
    | some b =>
      let l := s.launch b.launch
      if !b.exited || !b.resident || decide ((s.ctx b.ctx).st ≠ .run) || s.outstanding blk || l.chainSlots.contains blk then s
      else
        let s := s.moveSecs { blk := blk, wv := 0 } 4 4 anySec
        if b.chained ≠ [] ∧ l.st = .ready then (s.dropEngine blk).updLaunch b.launch fun x => { x with chainSlots := x.chainSlots ++ [blk] }
        else (s.freeBlock blk).settleIdle b.ctx)

end Sys2Proof.Machine
end

