-- ==== Sys2Proof/Machine/Preempt.lean ====
section
/-! DEFINITION. Pre-emption, the image of a context, its restore and its reset (spec/04_dispatcher.md R139, R148 to R155, R447; spec/03_memory_model.md R106, R107; spec/05_sequencer.md R199; spec/06_registers.md R231). -/

namespace Sys2Proof.Machine

open Sys2Proof

/-! ### The halt (R150, R199) -/

/-- Numbers of a context's blocks. -/
def State.blocksOf (s : State) (c : Nat) : List Nat := (s.blocks.filter fun b => decide (b.2.ctx = c)).map (·.1)

/-- Change every thread of a block. -/
def Block.mapThreads (b : Block) (f : Thread → Thread) : Block :=
  { b with waves := b.waves.map fun w => (w.1, { w.2 with threads := w.2.threads.map fun t => (t.1, f t.2) }) }

/-- Change the blocks of a context. -/
def State.mapBlocks (s : State) (c : Nat) (f : Block → Block) : State :=
  { s with blocks := s.blocks.map fun b => (b.1, if b.2.ctx = c then f b.2 else b.2) }

/-- A wait with its time left in place of the moment at which it ends, as the image holds it. (DEDUCED, log 60.) -/
def Wait.saved (x : Wait) (now : Nat) : Wait :=
  match x with
  | .sleep u => .sleep (u - now)
  | .bwait o ph pd dl pc => .bwait o ph pd (dl.map fun u => u - now) pc
  | y => y

/-- A wait after restore, with the moment at which it ends; a thread stalled on a ring tries its reservation again (R370). (DEDUCED, log 60.) -/
def Wait.resumed (x : Wait) (now : Nat) : Wait :=
  match x with
  | .sleep u => .sleep (now + u)
  | .bwait o ph pd dl pc => .bwait o ph pd (dl.map fun u => now + u) pc
  | .onPush _ => .ready
  | .onPop _ => .ready
  | y => y

/-- The slots that run groups of a context. -/
def State.slotsOf (s : State) (c : Nat) : List (Nat × Nat) :=
  s.cores.flatMap fun k => (k.2.slots.filter fun q => match q.2.run with
    | some r => r.group.members.any fun t => decide ((s.blk t.blk).ctx = c)
    | none => false).map fun q => (k.1, q.1)

/-- Every core stops issuing for a context at an instruction boundary (R150). -/
def State.halt (s : State) (c : Nat) (byYield : Bool) : State :=
  if (s.ctx c).st ≠ .run ∨ (s.ctx c).resetting = true then s
  else
    let s := (s.slotsOf c).foldl (fun s q => s.stopSlot q.1 q.2) s
    if (s.ctx c).st ≠ .run then s
    else
      let bs := s.blocksOf c
      let s : State := { s with
        cores := s.cores.map fun k => (k.1, k.2.dropBlocks fun b => bs.contains b)
        ringWaits := s.ringWaits.filter fun x => !bs.contains x.wid.blk }
      let now := s.cycle
      let s := s.mapBlocks c fun b => b.mapThreads fun t => { t with wait := t.wait.saved now, yielded := false }
      s.updCtx c fun x => { x with st := .halt, yielded := byYield }

/-- CTXCTL_PREEMPT (R148, R154). -/
def execCtxctlPreempt (ctx : Nat) (s : State) : Host.Outcome State Fault Refusal := .next <| s.host (s.halt ctx false)

/-! ### Sealing the image (R106, R150, R151, R326, R352) -/

/-- What still drains before the image of a context can be sealed: commits and aborts whose data is not at its level, matrix
requests, and activation banks being loaded. -/
def State.draining (s : State) (c : Nat) : Bool :=
  let bs := s.blocksOf c
  s.commits.any (fun p => bs.contains p.2.wid.blk && (!p.2.held || s.acked p.2.wid.blk p.2.awaits)) || s.msts.any (fun p => bs.contains p.2.wid.blk) ||
    s.cores.any (fun k => k.2.mx.queue.any fun r => bs.contains r.wid.blk) ||
    bs.any fun b => (s.blk b).banks.any fun k => k.2.loading.isSome

/-- The matrix engines that a context's blocks hold go into the image (R352). (DEDUCED, log 61.) -/
def State.saveEngines (s : State) (c : Nat) : State :=
  (s.blocksOf c).foldl (fun s b =>
    let core := (s.blk b).core
    let m := (s.core core).mx
    if m.holder = some b then
      { s with mxSaved := mput s.mxSaved b m }.updCore core fun k => { k with mx := Matrix.free }
    else s) s

/-- IMAGE_SEAL: the image is complete, and the context's blocks leave their cores (R148, R150, R151). (DEDUCED, log 61.) -/
def execImageSeal (ctx : Nat) (s : State) : Host.Outcome State Fault Refusal :=
  .next (if (s.ctx ctx).st ≠ .halt ∨ s.draining ctx = true ∨ (s.ctx ctx).resetting = true then s
    else
      let s := s.saveEngines ctx
      let s : State := { s with
        fe := if s.fe.saving = some ctx then { s.fe with saving := none } else s.fe }
      (s.mapBlocks ctx fun b => { b with resident := false }).updCtx ctx fun x => { x with st := .saved })

/-! ### Restore (R152, R153, R231) -/

/-- The dies that a context used at the halt. -/
def State.usedDies (s : State) (c : Nat) : List Nat := sortN ((s.blocksOf c).map fun b => dieOf (s.blk b).core)

/-- The die map: the new die of an old one, none when the map names none; without a map base it is the identity (R152). (DEDUCED,
log 60.) The map base is a virtual address of the context, as the bases of its signals and core sets are. (DESIGN CHOICE, log 84.) -/
def State.dieMap (s : State) (c : Nat) : Option (Nat → Option Nat) :=
  let base := (s.ctx c).ctxmap.toNat
  let used := s.usedDies c
  if base = 0 then some fun d => if used.contains d then some d else none
  else (s.frontRead c base 64).map fun bs => fun d => let b := (nth 0 bs d).toNat
    if b = 0xFF then none else some b

/-- The core of a position on another die. -/
def coreOn (core die : Nat) : Nat := die * 32 + core % 32

/-- The restore can be made (R152). (DEDUCED, log 60.) -/
def State.mapOk (s : State) (c : Nat) (m : Nat → Option Nat) : Bool :=
  let used := s.usedDies c
  let to_ := used.map m
  ((List.range 64).all fun d => used.contains d || (m d).isNone) &&
    to_.all (fun d => match d with
      | some x => Nat.blt x 64
      | none => false) && decide to_.Nodup &&
    (s.blocksOf c).all fun b =>
      match m (dieOf (s.blk b).core) with
      | none => false
      | some d =>
        let k := coreOn (s.blk b).core d
        (s.blocksOn k).isEmpty && !s.coreOut k && (s.core k).mx.holder.isNone

/-- Keys of quads or dies on their new dies. -/
def moveKeys (m : Map Nat) (f : Nat → Nat) : Map Nat := m.foldl (fun a p => mput a (f p.1) p.2) []

/-- The blocks of a context stand on their new cores with their records, which enter the levels' storage and shadow areas in their
order of entry, with the shadow entries of their writes, and with their matrix engines (R107, R123, R153, R352). -/
def State.relocate (s : State) (c : Nat) (m : Nat → Option Nat) : State :=
  let die (d : Nat) : Nat := (m d).getD d
  let s := s.mapBlocks c fun b => { b with core := coreOn b.core (die (dieOf b.core)), resident := true }
  let bs := s.blocksOf c
  let cores := bs.map fun b => (s.blk b).core
  let s := cores.foldl (fun s k => s.updCore k fun x => { x with cleans := [] }) s
  let s := s.updCtx c fun x =>
    { x with st := .restore, quadArea := moveKeys x.quadArea fun q => die (q / 8) * 8 + q % 8, dieArea := moveKeys x.dieArea die }
  let old := s.recs.filter fun r => decide (r.ctx = c)
  let s : State := { s with
    recs := s.recs.filter fun r => decide (r.ctx ≠ c)
    shadows := s.shadows.map fun e => (e.1, if bs.contains e.2.blk then { e.2 with core := (s.blk e.2.blk).core } else e.2) }
  let s := old.reverse.foldl (fun s r => s.placeRec r.level r.owner r.sec) s
  bs.foldl (fun s b =>
    match mfind s.mxSaved b with
    | none => s
    | some x => { s with mxSaved := mdel s.mxSaved b }.updCore (s.blk b).core fun k => { k with mx := x }) s

/-- A saved context is restored by its die map, or refused (R152). (DEDUCED, log 60.) -/
def State.restoreCtx (s : State) (ctx : Nat) : State :=
  if (s.ctx ctx).st ≠ .saved ∨ (s.ctx ctx).resetting = true then s
  else
    match s.dieMap ctx with
    | none => s.updCtx ctx fun x => { x with rerr := true }
    | some m =>
      if s.mapOk ctx m then (s.relocate ctx m).updCtx ctx fun x => { x with rerr := false }
      else s.updCtx ctx fun x => { x with rerr := true }

/-- CTXCTL_RESTORE: by the host, or by the dispatcher for a context that it pre-empted by priority (R139, R152). -/
def execCtxctlRestore (ctx : Nat) (s : State) : Host.Outcome State Fault Refusal := .next <| s.host (s.restoreCtx ctx)

/-- Rows beyond those of the new core's pool are restored as SPILLED, the oldest first (R231). -/
def State.fitRows (core : Nat) : Nat → State → State
  | 0, s => s
  | n + 1, s =>
    let room := match s.blocksOn core with
      | [] => 0
      | b :: _ => 256 * (s.launchOf b).sreg
    if s.rowsUsed core ≤ room then s
    else
      match firstVictim (s.spillable core) with
      | none => s
      | some v => State.fitRows core n (s.spill v)

/-- A thread's sleep is rebuilt: one whose wait is satisfied already is ready (R153). (DEDUCED, log 61.) -/
def State.rebuild (s : State) (t : ThreadId) : State :=
  match (s.thread t).wait with
  | .onReg c => if (s.wave t.wid).isEmpty c then s else s.updThread t fun x => x.wake s.cycle
  | .bwait o ph _ _ _ =>
    if phasePassed (s.bar o).phase ph then s.endBwait t true
    else s.updCore (s.blk t.blk).core fun k => k.enterBar t (s.blk t.blk).ctx o (s.bar o).phase
  | _ => s

/-- RESTORE_DONE: every block resumes (R153, R182, R309). (DEDUCED, log 61.) -/
def execRestoreDone (ctx : Nat) (s : State) : Host.Outcome State Fault Refusal :=
  .next (if (s.ctx ctx).st ≠ .restore ∨ (s.ctx ctx).resetting = true then s
    else
      let now := s.cycle
      let s := s.mapBlocks ctx fun b =>
        let b := b.mapThreads fun t => { t with wait := t.wait.resumed now, since := now, slot := 4, ready := now }
        { b with waves := b.waves.map fun w =>
            (w.1, { w.2 with wstat := w.2.wstat ||| 4, restoredOpen := !w.2.starts.isEmpty }) }
      let s := s.updCtx ctx fun x => { x with st := .run }
      let ts : List ThreadId := (s.blocksOf ctx).flatMap fun b =>
        (s.blk b).waves.flatMap fun w => w.2.liveLanes.map fun l => ({ blk := b, wv := w.1, lane := l } : ThreadId)
      let s := ts.foldl State.rebuild s
      let cores := sortN ((s.blocksOf ctx).map fun b => (s.blk b).core)
      cores.foldl (fun s k => State.fitRows k (s.rowsUsed k) s) s)

/-! ### Reset (R149) -/

/-- MRED instructions of a context whose requests have not all been performed (R358). -/
def State.reductions (s : State) (c : Nat) : List (WaveId × Nat) :=
  s.msReqs.foldl (fun acc p =>
    let k := (p.2.wid, p.2.group)
    if p.2.dest.isNone && decide ((s.blk p.2.wid.blk).ctx = c) && !acc.contains k then k :: acc else acc) []

/-- Entries of a context's in-flight table that are outstanding, each request once: producers and reloads, remote writes, MREDs,
copies that have not landed, permutes, matrix stores, and entries of other packages that are parked here (R151, R154, R230, R383).
(DEDUCED, log 61.) -/
def State.inFlight (s : State) (c : Nat) : Nat :=
  let bs := s.blocksOf c
  let of_ (w : WaveId) : Bool := bs.contains w.blk
  (s.producers.filter fun p => decide (p.2.ctx = c)).length + (s.reductions c).length +
    (bs.map fun b => ((s.blk b).waves.map fun w => (w.2.vregs.filter fun r => r.2.reload.isSome).length).foldl (· + ·) 0).foldl (· + ·) 0 +
    (s.copies.filter fun p => of_ p.2.wid && !p.2.complete).length +
    (s.remotes.filter fun p => decide (p.2.ctx = c) && p.2.dest.isNone && p.2.perm.isNone).length +
    (s.fperms.filter fun p => of_ p.2.wid).length + (s.msts.filter fun p => of_ p.2.wid).length +
    (s.parked.filter fun p => decide (p.2.ctx = c) && (match p.2.req with
      | .remote e => (s.parkedSource e).isSome
      | .piece _ _ => false)).length

/-- Requests of a context are outstanding, so that its reset waits (R149). -/
def State.unreturned (s : State) (c : Nat) : Bool :=
  decide (s.inFlight c ≠ 0) || s.msReqs.any (fun p => decide ((s.blk p.2.wid.blk).ctx = c)) || s.remotes.any (fun p => decide (p.2.ctx = c)) ||
    (s.blocksOf c).any fun b => (s.blk b).banks.any fun k => k.2.loading.isSome

/-- What only the context's threads wait for is discarded with them: commits, arrivals, reservations of rings, and tokens that wait
for their batch. -/
def State.dropWaits (s : State) (c : Nat) : State :=
  let bs := s.blocksOf c
  let of_ (w : WaveId) : Bool := bs.contains w.blk
  { s with
    copies := (s.copies.filter fun p => !(of_ p.2.wid && p.2.complete)).map fun p =>
      (p.1, if of_ p.2.wid then { p.2 with batch := none } else p.2)
    batches := s.batches.filter fun p => !of_ p.2.wid
    commits := s.commits.filter fun p => !of_ p.2.wid
    arrivals := s.arrivals.filter fun p => !of_ p.2.wid
    ringWaits := s.ringWaits.filter fun p => !of_ p.wid }

/-- What a discarded block keeps until its reset ends: the reloads and the bank loads that have not returned. -/
def Block.gone (b : Block) : Block :=
  { b with
    resident := false, exited := true, scratch := [], drops := []
    waves := (b.waves.filter fun w => w.2.vregs.any fun r => r.2.reload.isSome).map fun w =>
      (w.1, { w.2 with threads := [], vregs := w.2.vregs.filter fun r => r.2.reload.isSome })
    banks := b.banks.filter fun k => k.2.loading.isSome }

/-- The context's blocks, records and image are discarded; its reservations, and what has not returned, stand until the reset ends. -/
def State.discard (s : State) (c : Nat) : State :=
  let bs := s.blocksOf c
  let s : State := { s with
    cores := s.cores.map fun k =>
      (k.1, { k.2.dropBlocks (fun b => bs.contains b) with
              mx := { k.2.mx with
                holder := match k.2.mx.holder with
                  | some b => if bs.contains b then none else some b
                  | none => none
                releasing := match k.2.mx.holder with
                  | some b => if bs.contains b then false else k.2.mx.releasing
                  | none => false
                queue := k.2.mx.queue.filter fun r => !bs.contains r.wid.blk } })
    recs := s.recs.filter fun r => decide (r.ctx ≠ c)
    mxSaved := s.mxSaved.filter fun p => !bs.contains p.1
    launches := s.launches.map fun l => (l.1,
      if l.2.ctx = c ∧ l.2.st ≠ .done then { l.2 with st := .ended, chainSlots := [] } else l.2)
    queues := s.queues.map fun q => (q.1,
      if s.bound q.1 c then { q.2 with wqctl := q.2.wqctl &&& ~~~1#64, placing := none } else q.2)
    barObjs := s.barObjs.filter fun o => !bs.any fun b => decide (o.sp = .scr b)
    ringObjs := s.ringObjs.filter fun r => !bs.any fun b => decide (r.1.sp = .scr b) }
  s.mapBlocks c Block.gone

/-- The reset ends: the reservations are freed, and the context is IDLE. (DEDUCED, log 60.) -/
def State.finishReset (s : State) (c : Nat) : State :=
  let s : State := { s with blocks := s.blocks.filter fun b => decide (b.2.ctx ≠ c)
                            permSends := s.permSends.filter fun p => !p.2.isEmpty
                            fe := if s.fe.saving = some c then { s.fe with saving := none } else s.fe }
  s.updCtx c fun x => { x with st := .idle, resetting := false, pestat := 0, faults := [], quadArea := [], dieArea := [] }

/-- `RESET` of a context: while a request of it is outstanding, the reset waits (R149). (DEDUCED, log 60.) -/
def State.resetCtx (s : State) (c : Nat) : State :=
  let x := s.ctx c
  if x.st = .idle ∨ x.resetting = true then s
  else
    let s := ((s.dropUnsent c).dropWaits c).discard c
    if s.unreturned c then s.updCtx c fun x => { x with resetting := true } else s.finishReset c

/-- CTXCTL_RESET. -/
def execCtxctlReset (ctx : Nat) (s : State) : Host.Outcome State Fault Refusal := .next <| s.host (s.resetCtx ctx)

/-- RESET_DONE: the last outstanding request has returned, and its result has been discarded (R149). -/
def execResetDone (ctx : Nat) (s : State) : Host.Outcome State Fault Refusal :=
  .next (if (s.ctx ctx).resetting && !s.unreturned ctx then s.finishReset ctx else s)

/-! ### Priority pre-emption (R139) -/

/-- The highest priority of the launches that a context runs. -/
def State.topPrio (s : State) (c : Nat) : Nat :=
  ((s.launches.filter fun l => decide (l.2.ctx = c) && s.blocks.any fun b => decide (b.2.launch = l.1)).map
    fun l => l.2.prio).foldl max 0

/-- The context that priority pre-empts for a launch: the lowest highest-running priority, then the lowest number. -/
def State.victimFor (s : State) (l : Launch) : Option Nat :=
  let cs := (sortN (s.ctxs.map (·.1))).filter fun c =>
    (s.ctx c).preemptok && decide ((s.ctx c).st = .run ∧ c ≠ l.ctx ∧ s.topPrio c < l.prio)
  cs.foldl (fun (best : Option Nat) c => match best with
    | none => some c
    | some b => if s.topPrio c < s.topPrio b then some c else some b) none

/-- PRIORITY_PREEMPT: a ready launch has found no room for 100 microseconds (R139). -/
def execPriorityPreempt (launch : Nat) (s : State) : Host.Outcome State Fault Refusal :=
  .next (let l := s.launch launch
    let late := match l.since with
      | some t => Nat.ble (t + 100000) s.ns
      | none => false
    if !late || !s.wantsCores launch || s.fe.saving.isSome then s
    else
      match s.victimFor l with
      | none => s
      | some c => { s.halt c false with fe := { s.fe with saving := some c } })

/-! ### Registers of a context (R155, R447) -/

/-- Another context's pool, the queue region, metadata or an excluded die's home range meets a range, or it reaches 1536 GiB
(R447). (DEDUCED, log 54.) -/
def State.poolBad (s : State) (c base n : Nat) : Bool :=
  decide (0 < n) &&
    (Nat.ble Config.memTop (base + n) || inMetadata base n || s.inExcluded base n ||
      (s.pe.pevqAct && overlap base n s.pe.regionBase s.pe.regionSize) ||
      s.ctxs.any fun x => decide (x.1 ≠ c) && overlap base n x.2.poolBase x.2.poolSize)

/-- A write of `CTXPOOL`, or of `CTXPOOLSZ`, is taken while the context is IDLE and the pool can lie there (R447). (DEDUCED, log 54.) -/
def State.writePool (s : State) (ctx : Nat) (size : Bool) (value : BitVec 64) : State :=
  let x := s.ctx ctx
  let y : Ctx := if size then { x with ctxpoolsz := value &&& 0x1FFFFFF } else { x with ctxpool := value &&& 0x1FFFFFF0000 }
  if Config.numContexts ≤ ctx ∨ x.st ≠ .idle ∨ s.poolBad ctx y.poolBase y.poolSize = true then s else s.updCtx ctx fun _ => y

/-- CTXPOOL_WRITE (R447). -/
def execCtxpoolWrite (ctx : Nat) (size : Bool) (value : BitVec 64) (s : State) : Host.Outcome State Fault Refusal :=
  .next <| s.host (s.writePool ctx size value)

/-- A write of `CTXLOG` is taken while the context is IDLE (R155). -/
def State.writeLog (s : State) (ctx : Nat) (value : BitVec 64) : State :=
  if Config.numContexts ≤ ctx ∨ (s.ctx ctx).st ≠ .idle then s
  else s.updCtx ctx fun x => { x with ctxlog := value &&& 0x00FFFFFFFFFFF000 }

/-- CTXLOG_WRITE (R155). -/
def execCtxlogWrite (ctx : Nat) (value : BitVec 64) (s : State) : Host.Outcome State Fault Refusal :=
  .next <| s.host (s.writeLog ctx value)

/-- A write of `CTXLOGN`: `LOST` takes the value written; `LOG2N` does while the context is IDLE (R155). -/
def State.writeLogn (s : State) (ctx : Nat) (value : BitVec 64) : State :=
  let n := bits value 4 0
  let ok := decide (n = 0 ∨ (6 ≤ n ∧ n ≤ 20))
  if Config.numContexts ≤ ctx then s
  else s.updCtx ctx fun x =>
    let low := if x.st ≠ .idle then bits x.ctxlogn 4 0 else if ok then n else 0
    { x with ctxlogn := BitVec.ofNat 64 (bits value 63 32 * 2 ^ 32 + low) }

/-- CTXLOGN_WRITE (R155). -/
def execCtxlognWrite (ctx : Nat) (value : BitVec 64) (s : State) : Host.Outcome State Fault Refusal :=
  .next <| s.host (s.writeLogn ctx value)

end Sys2Proof.Machine
end

