-- ==== Sys2Proof/Machine/Launch.lean ====
section
/-! DEFINITION. LAUNCH and YIELD.GRID (spec/04_dispatcher.md R157, R158). -/

namespace Sys2Proof.Machine

open Sys2Proof

/-- The image of a packet that LAUNCH reads: its 64 bytes after the checks of pages, alignment and races, in that order (R157). (DEDUCED, log 62.) -/
def State.packetImage (s : State) (x : Iss) (ga : Nat) : Except Trap (List Byte × State) :=
  let l := nth 0 x.lanes 0
  match s.pageTrap (x.wid.thread l) [{ ga := ga, len := 64, align := 1, acc := .load, bad := false }] with
  | some tr => .error { tr with src := 0 }
  | none =>
    if ga % 64 ≠ 0 then .error { engineTrap .prot 0 1 (s.effGa (x.wid.thread l) ga) with src := 0 }
    else
      match s.access x.wid .load 0 32 l (.at_ ga) with
      | .ok (some p, s) =>
        match s.access x.wid .load 0 32 l (.at_ (ga + 32)) with
        | .error tr => .error { tr with lane := none }
        | .ok (_, s) =>
          let s := (s.noteRead x.wid p.loc).noteRead x.wid (p.loc.plus 32)
          let r := s.plainRead x.wid 0 false (p.loc.span 64)
          .ok (toBytes 64 r.1, r.2)
      | .ok (none, s) => .ok ([], s)
      | .error tr => .error { tr with lane := none }

/-- The front end enqueues a packet image, and gives the status; a slot that cannot be written keeps its bytes. (DEDUCED, log 62.) -/
def State.enqueue (s : State) (ctx k : Nat) (img : List Byte) : Nat × State :=
  match s.boundQueue ctx k with
  | none => (2, s)
  | some qn =>
    let q := s.queue qn
    if !q.en || !q.deven then (2, s)
    else if q.err then (3, s)
    else if q.held = q.size then (1, s)
    else
      let va := (bits q.wqbase 55 12 * 4096 + 64 * (q.wqwr.toNat % q.size)) % 2 ^ 56
      let s := match s.translate ctx va va .ewrite with
        | .error _ => s
        | .ok p =>
          let put (s : State) (o : Nat) : State :=
            s.enterHome none (sectorOf (p.loc.plus o) (pageCmode p.entry) ((img.drop o).take 32))
          put (put s 0) 32
      (0, s.updQueue qn fun x => { x with wqwr := x.wqwr + 1 })

/-- LAUNCH: the commit at `.pkg`, the read of the image, and the enqueue, once for a wave (R157). (DEDUCED, log 62.) -/
def execLaunch (x : FA) (s : State) : Host.Outcome State Fault Refusal :=
  let u : Use := { rds := [Rd.ss 1 x.a .n32, Rd.pair 2 x.b false], dst := some (Dst.sd x.d .b32), k := x.ext.getD 0 }
  s.issueOps (.launch x) u fun w vals s =>
    let l := nth 0 w.lanes 0
    match (s.orderLoads w.wid).commit w.wid 4 with
    | none => .trap (wbovf w 0) s
    | some s =>
      match s.packetImage w (vals 2 l) with
      | .error tr => .trap tr s
      | .ok (img, s) =>
        let r := s.enqueue (s.blk w.wid.blk).ctx (vals 1 l) img
        r.2.finish w u w.lanes [(l, r.1)] 0

/-- The state in which a context holds no core and no reservation. (DEDUCED, log 63.) -/
def State.without (s : State) (c : Nat) : State :=
  { s with
    blocks := s.blocks.filter fun b => decide (b.2.ctx ≠ c)
    launches := s.launches.map fun l => (l.1, { l.2 with chainSlots := l.2.chainSlots.filter fun b => decide ((s.blk b).ctx ≠ c) }) }

/-- A ready launch of another context, of at least a priority, finds no cores for its next cluster, and would find them without
the blocks of the issuing context (R158). (DEDUCED, log 63.) -/
def State.heldBack (s : State) (c prio : Nat) : Bool :=
  s.launches.any fun q =>
    let l := (if q.2.considered then s else s.readCount q.1).launch q.1
    let room (t : State) : Bool :=
      if l.group.isEmpty then decide (l.kept = 0) || (t.spot l).isSome else (t.placeAll (q.1 :: l.group)).isSome
    decide (l.ctx ≠ c ∧ prio ≤ l.prio) && s.wantsCores q.1 && !room s && room (s.without c)

/-- YIELD.GRID: the issuing context is pre-empted for another's launch, at the boundary after this instruction (R158). (DEDUCED, log 63.) -/
def execYieldGrid (x : FA) (s : State) : Host.Outcome State Fault Refusal :=
  .next (s.issueWith (.yieldGrid x) [] fun w s =>
    let ctx := (s.blk w.wid.blk).ctx
    let gone := decide ((s.ctx ctx).st = .halt) || s.heldBack ctx (s.launchOf w.wid.blk).prio
    let s := s.setPreds w.wid x.d.toNat (w.lanes.map fun l => (l, gone))
    .done (if gone then s.halt ctx true else s))

end Sys2Proof.Machine
end

