-- ==== Sys2Proof/Machine/Events.lean ====
section
/-! DEFINITION. Steps of the sequencer, of the engines' answers, of the commit hierarchy and of the barrier file: the choice of a group, fetch, waking, results, completions, notices and the stuck cluster (spec/05_sequencer.md R161 to R167; spec/01_machine.md R28 to R36; spec/03_memory_model.md R94, R100; spec/06_registers.md R218; spec/09_copy_barriers.md R300 to R310; spec/10_vector_lanes.md R325). -/

namespace Sys2Proof.Machine

open Sys2Proof

/-! ### GATHER_ENTER (R161, R162, R172) -/

/-- Slots of a core (R163). -/
def numSlots : Nat := 4

/-- The thread lies in an entry of the gathering table or in a run. -/
def Core.gathered (c : Core) (t : ThreadId) : Bool :=
  c.table.any (fun e => e.members.contains t) ||
    c.slots.any fun k => match k.2.run with
      | some r => r.group.members.contains t
      | none => false

/-- Entries in use: an entry is freed when its run ends. -/
def Core.entries (c : Core) : Nat := c.table.length + (c.slots.filter fun k => k.2.run.isSome).length

/-- What enters the table: a ready thread, or the threads of a wave that has converged, with the cycle at which they became
ready and the slot that they left. -/
structure Entrant where
  since : Nat
  slot : Nat
  members : List ThreadId
  conv : Bool
deriving DecidableEq, Repr

/-- The order in which they enter: by cycle, slot, wave and lane, and then by block; what became ready on no slot comes after what
left slots 0 to 3. (DESIGN CHOICE, log 91.) -/
def Entrant.key (e : Entrant) : List Nat :=
  match e.members with
  | t :: _ => [e.since, e.slot, t.wv, t.lane, t.blk]
  | [] => [e.since, e.slot]

def insertEntrant (e : Entrant) : List Entrant → List Entrant
  | [] => [e]
  | x :: t => if betterRanks e.key x.key then e :: x :: t else x :: insertEntrant e t

/-- The sets of threads of a wave that have all arrived at one converging instruction: its handler threads, or all its live
threads when none is in the handler (R172). (DEDUCED, log 18.) -/
def Wave.converged (w : Wave) : List (List Nat) :=
  let live := w.threads.filter fun p => p.2.live
  let hs := live.filter fun p => p.2.handler
  let same (ts : List (Nat × Thread)) : Bool :=
    match ts with
    | [] => false
    | p :: _ => ts.all fun q => decide (q.2.wait = .converging ∧ q.2.pc = p.2.pc)
  (if same hs then [hs.map (·.1)] else []) ++ (if hs.isEmpty && same live then [live.map (·.1)] else [])

/-- The waves on a core that issue. -/
def State.issuingWaves (s : State) (c : Nat) : List WaveId :=
  ((s.blocksOn c).filter s.issues).flatMap fun b => (s.blk b).waves.map fun p => { blk := b, wv := p.1 }

/-- What waits to enter the gathering table of a core. (DEDUCED, log 16.) -/
def State.entrants (s : State) (c : Nat) : List Entrant :=
  let core := s.core c
  (s.issuingWaves c).flatMap fun w =>
    let x := s.wave w
    let single := (x.liveLanes.map w.thread).filter fun t => s.isReady t && !core.gathered t
    (single.map fun t => { since := (s.thread t).ready, slot := (s.thread t).slot, members := [t], conv := false }) ++
      x.converged.map fun ls =>
        let ts := ls.map w.thread
        let left := x.threads.filter fun p => !p.2.live && (p.2.handler || !ts.any fun t => (s.thread t).handler)
        let at_ := ((ts.map fun t => (s.thread t).ready) ++ left.map fun p => p.2.ready).foldl max 0
        let slot := match ts.find? fun t => decide ((s.thread t).ready = at_) with
          | some t => (s.thread t).slot
          | none => 4
        { since := at_, slot := slot, members := ts, conv := true }

/-- A thread can join an entry: its launch and PC, a free lane, and the rule of the handler (R161). -/
def State.joins (s : State) (t : ThreadId) (e : Entry) : Bool :=
  let x := s.thread t
  !e.conv && decide (e.launch = (s.blk t.blk).launch ∧ e.pc = x.pc) && !e.members.any (fun m => m.lane == t.lane) &&
    e.members.all fun m => decide ((s.thread m).handler = x.handler) && (!x.handler || decide (m.wid = t.wid))

/-- A thread joins the oldest entry that takes it. -/
def State.joinFirst (s : State) (t : ThreadId) : List Entry → Option (List Entry)
  | [] => none
  | e :: rest =>
    if s.joins t e then some ({ e with members := e.members ++ [t] } :: rest)
    else (State.joinFirst s t rest).map fun r => e :: r

/-- Open an entry when the table has room. -/
def State.openEntry (s : State) (c : Nat) (x : Entrant) : State :=
  match x.members with
  | [] => s
  | t :: _ =>
    if Config.tableSize ≤ (s.core c).entries then s
    else
      let e : Entry :=
        { launch := (s.blk t.blk).launch, pc := (s.thread t).pc, conv := x.conv, members := x.members, aged := false }
      let s := s.updCore c fun k => { k with table := k.table ++ [e] }
      if x.conv then x.members.foldl (fun s t => s.updThread t fun y => { y with wait := .ready, since := x.since }) s else s

/-- An entrant joins an entry or opens one; otherwise it stays outside. -/
def State.enter (s : State) (c : Nat) (x : Entrant) : State :=
  match x.members, x.conv with
  | [t], false =>
    match s.joinFirst t (s.core c).table with
    | some table => s.updCore c fun k => { k with table := table }
    | none => s.openEntry c x
  | _, _ => s.openEntry c x

/-- Ready threads join or open entries of the gathering table. (DEDUCED, log 16.) -/
def State.gatherTable (s : State) (c : Nat) : State :=
  ((s.entrants c).foldl (fun l e => insertEntrant e l) []).foldl (fun s e => s.enter c e) s

/-! ### SLOT_SELECT and GROUP_AGED (R166, R167) -/

/-- Since when the member that has waited longest is ready. (DEDUCED, log 16.) -/
def State.waitingSince (s : State) (e : Entry) : Nat :=
  (e.members.map fun t => (s.thread t).since).foldl min s.cycle

/-- A member has been ready for 4096 cycles without issuing. (DEDUCED, log 16.) -/
def State.isAged (s : State) (e : Entry) : Bool := Nat.ble (s.waitingSince e + Config.ageCycles) s.cycle

/-- Mark the aged entries of a core. -/
def State.markAged (s : State) (c : Nat) : State :=
  s.updCore c fun k => { k with table := k.table.map fun e => if s.isAged e then { e with aged := true } else e }

/-- GROUP_AGED: a group of the gathering table becomes aged (R167). (DEDUCED, log 16.) -/
def execGroupAged (core entry : Nat) (s : State) : Host.Outcome State Fault Refusal :=
  .next (match (s.core core).table[entry]? with
    | none => s
    | some e =>
      if s.isAged e then s.updCore core fun k => { k with table := k.table.set entry { e with aged := true } } else s)

/-- The order of choice of a group for a slot that served a launch last (R166): aged groups by their longest wait, then by
launch, yield mark and PC. (DEDUCED, log 16.) -/
def State.choiceKey (s : State) (last : Nat) (e : Entry) : List Nat :=
  if e.aged then [0, s.waitingSince e]
  else
    [1, if last < e.launch then 0 else 1, e.launch, if e.members.any fun t => (s.thread t).yielded then 1 else 0, e.pc.toNat]

/-- The best entry, the oldest of equals. (DEDUCED, log 16.) -/
def State.bestEntry (s : State) (last : Nat) (es : List Entry) : Option Entry :=
  es.foldl (fun (best : Option Entry) e =>
    match best with
    | none => some e
    | some b => if betterRanks (s.choiceKey last e) (s.choiceKey last b) then some e else best) none

/-- A free slot takes a group of the table. -/
def State.takeGroup (s : State) (c k : Nat) : State :=
  match s.bestEntry (s.slot c k).last ((s.core c).table.filter fun e => e.members.any s.isReady) with
  | none => s
  | some e =>
    let s := s.updCore c fun x => { x with table := x.table.filter (· != e) }
    s.updSlot c k fun _ => { run := some { group := e, count := 0, staged := [] }, pend := none, last := e.launch }

/-- A slot that is free takes a group. -/
def State.fillSlot (s : State) (c k : Nat) : State := if (s.slot c k).run.isSome then s else s.takeGroup c k

/-- SLOT_SELECT: ready threads enter the gathering table, and a free slot chooses a group, after the free slots with lower numbers
(R162, R166). (DEDUCED, log 16.) -/
def execSlotSelect (core slot : Nat) (s : State) : Host.Outcome State Fault Refusal :=
  .next (if Config.numCores ≤ core ∨ numSlots ≤ slot then s
    else
      let s := (((s.admitBars (s.core core).bqueue).gatherTable core).markAged core)
      (List.range (slot + 1)).foldl (fun s k => s.fillSlot core k) s)

/-! ### FETCH_FILL (R45) -/

/-- A slot that asked for a fetch block has it. -/
def Slot.filled (x : Slot) (ctx blk : Nat) : Slot :=
  match x.miss with
  | some m => if m.1 = ctx ∧ m.2.1 = blk then { x with miss := none } else x
  | none => x

/-- FETCH_FILL: the fetch block that a slot's group needs arrives from package level. (DEDUCED, log 17.) -/
def execFetchFill (core slot : Nat) (s : State) : Host.Outcome State Fault Refusal :=
  .next (match (s.slot core slot).run with
    | none => s
    | some r =>
      match r.group.members with
      | [] => s
      | t :: _ =>
        let pc := r.group.pc
        let ctx := (s.blk t.blk).ctx
        let va := vaOf pc / 32 * 32
        match s.badTarget pc, s.translate ctx va pc.toNat .fetch with
        | none, .ok p =>
          if (s.cachedBlock core ctx va).isSome then s
          else s.updCore core fun c =>
            { c with icache := (ctx, va / 32, s.homeBytes p.loc 32) :: c.icache
                     slots := c.slots.map fun q => (q.1, q.2.filled ctx (va / 32)) }
        | _, _ => s)

/-! ### SLEEP_WAKE (R191) -/

/-- SLEEP_WAKE: a sleep has lasted its cycles. (DEDUCED, log 19.) -/
def execSleepWake (blk wv lane : Nat) (s : State) : Host.Outcome State Fault Refusal :=
  let t : ThreadId := { blk := blk, wv := wv, lane := lane }
  .next (match (s.thread t).wait with
    | .sleep u => if s.issues blk && (s.thread t).live && Nat.ble u s.cycle then s.updThread t fun x => x.wake s.cycle else s
    | _ => s)

/-! ### PRODUCER_RESULT and RELOAD_DONE (R28, R32 to R36, R151, R210, R218) -/

/-- The known values of a producer's lanes, none while one has not come. -/
def knownLanes : Map LaneSrc → Option (List (Nat × Nat))
  | [] => some []
  | (l, x) :: t =>
    match x.value with
    | none => none
    | some v => (knownLanes t).map fun r => (l, v) :: r

/-- A producer's values enter the slots that a push has reserved (R364), and the flags are visible (R181). -/
def State.fillElems (s : State) (p : Producer) (vals : List (Nat × Nat)) : State :=
  let s := s.orFstat p.wid (BitVec.ofNat 32 p.flags)
  { s with ringElems := s.ringElems.map fun e =>
      match p.elems.find? fun q => q.2 == e.1 with
      | none => e
      | some q =>
        match vals.find? fun v => v.1 == q.1 with
        | none => e
        | some v => (e.1, { e.2 with value := some (BitVec.ofNat 32 (p.ty.extend v.2)) }) }

/-- A producer's values enter its registers, but for the lanes of threads that have exited, and for a scalar whose issuing threads have
all exited; the registers are FULL, and the flags are visible (R36, R181, R210). (DESIGN CHOICE, log 90.) -/
def State.fillRegs (s : State) (p : Producer) (vals : List (Nat × Nat)) : State :=
  let live := vals.filter fun v => if 768 ≤ p.dest then s.anyLive p.wid p.issuers else (s.thread (p.wid.thread v.1)).live
  let s := (s.writeRegs p.wid p.ty p.n p.dest live).orFstat p.wid (BitVec.ofNat 32 p.flags)
  (rangeFrom p.dest p.n).foldl (fun s c => (s.updWave p.wid fun x => x.markFull c).wakeReg p.wid c) s

/-- The slots of a core whose request is answered now go on (R366). -/
def State.tryRetires (s : State) (c : Nat) : State := (List.range numSlots).foldl (fun s k => s.tryRetire c k) s

/-- PRODUCER_RESULT: the result of a long-latency producer arrives; an uncorrectable error ends its context (R34). (DEDUCED, log 28.) -/
def execProducerResult (id : Nat) (err : Bool) (s : State) : Host.Outcome State Fault Refusal :=
  .next (match mfind s.producers id with
    | none => s
    | some p =>
      let gone (s : State) : State := { s with producers := mdel s.producers id }
      if (mfind s.blocks p.wid.blk).isNone || s.discards p.ctx then gone s
      else if err then (gone s).ctxFault p.ctx
      else
        let s := p.lanes.foldl (fun s q => s.settleFor p.wid q.1 id q.2.unread) s
        let r := s.settleLanes p.wid p.hint (fun _ => true) p.lanes
        match knownLanes r.1 with
        | none => s
        | some vals =>
          let c := (s.blk p.wid.blk).core
          ((if p.elems.isEmpty then (gone r.2).fillRegs p vals else (gone r.2).fillElems p vals).trimStaged c).tryRetires c)

/-- RELOAD_DONE: the image of a SPILLED name has been read (R218, R230). -/
def execReloadDone (blk wv name : Nat) (s : State) : Host.Outcome State Fault Refusal :=
  let w : WaveId := { blk := blk, wv := wv }
  .next (match (s.wave w).vreg name with
    | none => s
    | some r =>
      if r.reload.isNone then s
      else
        let s := s.updWave w fun x => { x with vregs := mupd VReg.zero x.vregs name fun r => { r with stamp := s.cycle } }
        ((s.updWave w fun x => x.markFull name).wakeReg w name).trimStaged (s.blk blk).core)

/-! ### COMMIT_COMPLETE and ABORT_COMPLETE (R94, R106) -/

/-- A commit or an abort is complete: its threads go on, and a commit that has awaited acknowledgements ends the interval (R93).
(DEDUCED, log 73.) -/
def State.completeOp (s : State) (id : Nat) (abort : Bool) : State :=
  match mfind s.commits id with
  | none => s
  | some c =>
    if c.abort ≠ abort then s
    else if s.acked c.wid.blk c.awaits then
      let s := if c.awaits.isEmpty then s else s.endInterval c.wid
      { s with commits := mdel s.commits id }.wakeWave c.wid fun x => decide (x = Wait.onCommit id)
    else { s with commits := mput s.commits id { c with held := true } }

/-- COMMIT_COMPLETE: the data is held at its level, and the commit is complete when every acknowledgement has arrived. -/
def execCommitComplete (id : Nat) (s : State) : Host.Outcome State Fault Refusal := .next (s.completeOp id false)
/-- ABORT_COMPLETE (R287). -/
def execAbortComplete (id : Nat) (s : State) : Host.Outcome State Fault Refusal := .next (s.completeOp id true)

/-! ### FILTER_WINDOW_CLOSE (R100) -/

/-- FILTER_WINDOW_CLOSE: a window of a unit's change filter is closed after its cycles or its changes, and a new one opens. -/
def execFilterWindowClose (level unit : Nat) (s : State) : Host.Outcome State Fault Refusal :=
  let ws := s.windows level unit
  .next (match ws with
    | w :: _ =>
      if 1 ≤ level ∧ level ≤ 4 ∧ (w.opened + Config.windowCycles ≤ s.cycle ∨ Config.windowChanges ≤ w.changes.length) then
        { s with filters := mput s.filters (filterKey level unit) (openWindow s.cycle ws) }
      else s
    | [] => s)

/-! ### Barriers (R300, R303, R304, R308) -/

/-- BARRIER_CREDIT: bytes reach their object; a refusal stays with the request whose status reports it (R294, R300). -/
def execBarrierCredit (id : Nat) (s : State) : Host.Outcome State Fault Refusal :=
  .next (match mfind s.credits id with
    | none => s
    | some c =>
      if c.refused then s
      else if s.frozen c.obj.sp then { s with credits := mdel s.credits id }
      else
        match s.barUpdate c.obj (.credit c.n) with
        | .ok s => { s with credits := mdel s.credits id }
        | .error _ =>
          if (mfind s.copies c.op).isSome || (mfind s.msts c.op).isSome || (mfind s.fperms c.op).isSome then
            { s with credits := mput s.credits id { c with refused := true } }
          else { s with credits := mdel s.credits id })

/-- BARRIER_ARRIVAL: an arrival reaches its object; a refusal is a trap at BARV (R303). (DEDUCED, log 39.) -/
def execBarrierArrival (id : Nat) (s : State) : Host.Outcome State Fault Refusal :=
  .next (match mfind s.arrivals id with
    | none => s
    | some a =>
      if !s.acked a.wid.blk a.awaits then s
      else
        let s : State := { s with arrivals := mdel s.arrivals id }
        let s := s.endInterval a.wid
        match s.arriveAt a.wid a.obj with
        | .ok s => s.wakeWave a.wid fun x => decide (x = .onArrival id)
        | .error n =>
          let site : TrapSite :=
            { wid := a.wid, members := a.lanes, pc := a.pc, len := a.len, eng := 5, low := nth 0 a.lanes 0, done := 0, prev := 0 }
          s.takeTrap site (barTrap .bound n 3 a.ga))

/-- Two notices go from one home to one die, so that they arrive in the order they were sent (R20). (DEDUCED, log 19.) -/
def Notice.follows (n m : Notice) : Bool :=
  decide (dieOf n.core = dieOf m.core) &&
    (match n.obj.sp, m.obj.sp with
     | .scr a, .scr b => a == b
     | .scr _, _ => false
     | _, .scr _ => false
     | _, _ => decide (n.obj.homeDie = m.obj.homeDie))

/-- WAKE_NOTICE: a notice of a phase reaches a core, after those of its home before it (R20, R308). (DEDUCED, log 19.) -/
def execWakeNotice (id : Nat) (s : State) : Host.Outcome State Fault Refusal :=
  .next (match mfind s.notices id with
    | none => s
    | some n => if s.notices.any fun p => decide (p.1 < id) && p.2.follows n then s
      else { s with notices := mdel s.notices id }.takeNotice n)

/-- BWAIT_TIMEOUT: a thread's time in BWAIT is over, and its phase has not passed (R304). (DEDUCED, log 19.) -/
def execBwaitTimeout (blk wv lane : Nat) (s : State) : Host.Outcome State Fault Refusal :=
  let t : ThreadId := { blk := blk, wv := wv, lane := lane }
  .next (match (s.thread t).wait with
    | .bwait o ph _ (some dl) _ =>
      if s.issues blk && Nat.ble dl s.cycle && !phasePassed (s.bar o).phase ph then s.endBwaits (s.blk blk).core [t] false else s
    | _ => s)

/-! ### CLUSTER_STUCK (R310, R369) -/

/-- The token of an unsealed batch of a wave whose copies have all landed. (DEDUCED, log 64.) -/
def State.waitsUnsealed (s : State) (w : WaveId) (code : Nat) : Bool :=
  (s.wave w).isEmpty code &&
    s.copies.any fun c => decide (c.2.wid = w ∧ c.2.token + 768 = code) &&
      (match c.2.batch with
       | none => false
       | some b =>
         match mfind s.batches b with
         | none => false
         | some x => !x.sealed && x.members.all fun k => match mfind s.copies k with
            | none => true
            | some y => y.complete)

/-- A thread waits as condition 1 states, with the address of its instruction: on a barrier object or a ring in a scratchpad of
the cluster `bs`, or on such a token. (DEDUCED, log 64.) -/
def State.stuckAt (s : State) (bs : List Nat) (t : ThreadId) : Option DWord :=
  let x := s.thread t
  let within (sp : Space) : Bool := match sp with
    | .scr b => bs.contains b
    | _ => false
  let ring (q : Nat) : Bool := match s.binding t.blk q with
    | none => false
    | some r => within r.sp && !s.ringWaits.any fun y => decide (y.wid = t.wid) && y.lanes.contains t.lane && y.notice
  match x.wait with
  | .bwait o ph _ none pc => if within o.sp && !phasePassed (s.bar o).phase ph then some pc else none
  | .onPush q => if ring q then some x.pc else none
  | .onPop q => if ring q then some x.pc else none
  | .onReg c => if s.waitsUnsealed t.wid c then some x.pc else none
  | _ => none

/-- The live threads of some blocks. -/
def State.threadsOf (s : State) (bs : List Nat) : List ThreadId :=
  bs.flatMap fun b => (s.blk b).waves.flatMap fun w => w.2.liveLanes.map fun l => { blk := b, wv := w.1, lane := l }

/-- A request of a block's threads is outstanding (conditions 2 and 3 of R310). (DEDUCED, log 64.) -/
def State.pending (s : State) (b : Nat) : Bool :=
  let of_ (w : WaveId) : Bool := decide (w.blk = b)
  s.producers.any (fun p => of_ p.2.wid) || s.copies.any (fun p => of_ p.2.wid && !p.2.complete) ||
    s.commits.any (fun p => of_ p.2.wid) || s.remotes.any (fun p => decide (p.2.blk = b)) || s.arrivals.any (fun p => of_ p.2.wid) ||
    s.msts.any (fun p => of_ p.2.wid) || s.msReqs.any (fun p => of_ p.2.wid) || s.fperms.any (fun p => of_ p.2.wid) ||
    s.cores.any (fun k => k.2.mx.queue.any fun r => of_ r.wid) || (s.blk b).banks.any (fun k => k.2.loading.isSome) ||
    (s.blk b).reloading ||
    s.credits.any (fun c => decide (c.2.obj.sp = .scr b) && !c.2.refused) || s.ringElems.any fun e => decide (e.2.ring.sp = .scr b)

/-- The cluster is stuck (R310). (DEDUCED, log 64.) -/
def State.stuck (s : State) (bs : List Nat) : Bool :=
  let ts := s.threadsOf bs
  !ts.isEmpty && bs.all s.issues && ts.all (fun t => (s.stuckAt bs t).isSome) && !bs.any s.pending

/-- The engine of the instruction at an address, as its word stands at package level. (DEDUCED, log 64.) -/
def State.engineAt (s : State) (ctx : Nat) (pc : DWord) : Nat :=
  match s.translate ctx (vaOf pc) pc.toNat .fetch with
  | .ok p => engineOf (majOf (BitVec.ofNat 32 (s.homeNat p.loc 4)))
  | .error _ => 1

/-- DEADLOCK for one wave: at the lowest PC at which its threads wait, by the threads that wait there. -/
def State.deadlockWave (s : State) (bs : List Nat) (w : WaveId) : State :=
  let at_ := (s.wave w).liveLanes.filterMap fun l => (s.stuckAt bs (w.thread l)).map fun pc => (l, pc)
  match at_ with
  | [] => s
  | p :: rest =>
    let pc := rest.foldl (fun (m : DWord) q => if q.2.toNat < m.toNat then q.2 else m) p.2
    let lanes := (at_.filter fun q => decide (q.2 = pc)).map (·.1)
    let ctx := (s.blk w.blk).ctx
    let eng := s.engineAt ctx pc
    let s := lanes.foldl (fun s l =>
      let t := w.thread l
      (s.updCore (s.blk w.blk).core fun c => c.leaveBar t).updThread t fun x => { x with wait := .ready, pc := pc }) s
    let s := s.forgetWaits w lanes
    if (s.ctx ctx).st ≠ .run then s
    else s.takeTrap { wid := w, members := lanes, pc := pc, len := 0, eng := eng, low := nth 0 lanes 0, done := 0, prev := 0 }
      (Trap.whole .deadlock 0 0)

/-- CLUSTER_STUCK: every wave of a stuck cluster receives DEADLOCK. (DEDUCED, log 64.) -/
def execClusterStuck (cluster : Nat) (s : State) : Host.Outcome State Fault Refusal :=
  let bs := (s.blocks.filter fun b => b.2.resident && decide (b.2.cluster = cluster)).map (·.1)
  .next (if !s.stuck bs then s
    else
      let ws : List WaveId := bs.flatMap fun b => (s.blk b).waves.map fun w => ({ blk := b, wv := w.1 } : WaveId)
      ws.foldl (fun s' w => if (s'.ctx (s.blk w.blk).ctx).st = .run then s'.deadlockWave bs w else s') s)

/-! ### ATLD_INSTALL (R325) -/

/-- ATLD_INSTALL: a bank's image has been read, and the new version replaces the old; an uncorrectable error in the read ends the
context (R34). (DEDUCED, log 42.) -/
def execAtldInstall (blk bank : Nat) (err : Bool) (s : State) : Host.Outcome State Fault Refusal :=
  .next (if (mget Bank.zero (s.blk blk).banks bank).loading.isNone then s
    else if err then s.ctxFault (s.blk blk).ctx
    else s.installBank blk bank)

end Sys2Proof.Machine
end

