-- ==== Sys2Proof/Machine/Paging.lean ====
section
/-! DEFINITION. The translation registers' operations and the fault service (spec/08_memory_engine.md R269 to R273; spec/13_substrate_fabric.md R378, R383). -/

namespace Sys2Proof.Machine

open Sys2Proof

/-! ### Map (R270, R378) -/

/-- Bits of a page entry that are reserved. -/
def pageReserved : Nat := (2 ^ 16 - 1) * 2 ^ 41 + (2 ^ 10 - 1) * 2 ^ 6 + 2

/-- Result 2 of a page entry, but for an aperture's descriptor. -/
def entryBad (e : BitVec 64) : Bool :=
  decide (e.toNat &&& pageReserved ≠ 0) || Nat.ble 6 (pageCmode e) || decide (pageRace e = 3) || !e.getLsbD 0 ||
    (pageAper e && decide (bits e 40 28 ≠ 0))

/-- The page number in `PTVA`. -/
def Ctx.ptPage (c : Ctx) : Nat := bits c.ptva 55 16

/-- Pages of 64 KiB that an entry covers. -/
def pageSpan (e : BitVec 64) : Nat := if e.getLsbD 5 then 32 else 1

/-- Some part of a range of pages is mapped. -/
def Ctx.anyMapped (c : Ctx) (v n : Nat) : Bool := (List.range n).any fun i => (c.pageOf ((v + i) * 65536)).isSome

/-- Descriptors of the aperture table (R379). -/
def Ctx.aptN (c : Ctx) : Nat := min 4096 (bits c.aptctl 12 0)

/-- Reserved bits of an aperture descriptor of `n` members. -/
def apertureReserved (n : Nat) : Nat :=
  (2 ^ 896 - 1) * 2 ^ 1152 + (2 ^ 123 - 1) * 2 ^ 5 +
    ((List.range 16).map fun j =>
      (if j < n then 0xFF0000000000FFFF else 2 ^ 64 - 1) * 2 ^ (64 * j + 128)).foldl (· + ·) 0

/-- A page that can be a member of an aperture of an entry. (DEDUCED, log 65.) -/
def State.memberOk (s : State) (e m : BitVec 64) : Bool :=
  m.getLsbD 3 && !pageAper m && !s.hwOnly (pagePA m) (pageSize m) && decide (m.getLsbD 5 = e.getLsbD 5)

/-- The members of an aperture as its descriptor names them; none when the map is refused. (DEDUCED, log 65.) -/
def State.aperture (s : State) (ctx : Nat) (e : BitVec 64) : Option (List (Nat × BitVec 64)) :=
  let c := s.ctx ctx
  let i := bits e 27 16
  match s.frontNat ctx (bits c.aptbase 55 8 * 256 + 256 * i) 256 with
  | none => none
  | some d =>
    let n := field d 4 0
    if n = 0 ∨ 16 < n ∨ d &&& apertureReserved n ≠ 0 ∨ c.aptN ≤ i then none
    else
      let ms := (List.range n).map fun j => c.pageOf (field d (64 * j + 183) (64 * j + 144) * 65536)
      let ok := ms.all fun m => match m with
        | some p => s.memberOk e p.2.entry
        | none => false
      let pages : List (Nat × BitVec 64) := ms.filterMap fun m => m.map fun p => (p.1, p.2.entry)
      let keys : List Nat := pages.map fun p => p.1
      if ok && decide keys.Nodup then some pages else none

/-- A map operation: its result, and the page that it installs. (DEDUCED, log 65.) -/
def State.mapPage (s : State) (ctx : Nat) : Nat × Option Page :=
  let c := s.ctx ctx
  let e := c.ptent
  let plain (p : Page) : Nat × Option Page :=
    if !pageAper e && (Nat.ble Config.memTop (pagePA e) || s.inExcluded (pagePA e) (pageSize e)) then (1, none)
    else if e.getLsbD 5 && decide (c.ptPage % 32 ≠ 0 ∨ bits e 20 16 ≠ 0) then (5, none)
    else if c.anyMapped c.ptPage (pageSpan e) then (3, none)
    else (0, some p)
  if entryBad e then (2, none)
  else if pageAper e then
    match s.aperture ctx e with
    | none => (2, none)
    | some ms => plain { entry := e, members := ms.map (·.2), names := ms.map (·.1) }
  else plain { entry := e, members := [], names := [] }

/-- An operation of a context's translation registers ends. -/
def State.endPt (s : State) (ctx result : Nat) : State :=
  s.updCtx ctx fun c => { c with ptbusy := false, ptresult := BitVec.ofNat 8 result, unmapping := none }

/-- PTCMD_MAP: the map that `PTCMD.GO` has started. -/
def execPtcmdMap (ctx : Nat) (s : State) : Host.Outcome State Fault Refusal :=
  let c := s.ctx ctx
  .next (if !c.ptbusy || decide (c.ptop ≠ 1) then s
    else
      let r := s.mapPage ctx
      let s := match r.2 with
        | some p => s.updCtx ctx fun c => { c with pages := mput c.pages c.ptPage p }
        | none => s
      s.endPt ctx r.1)

/-! ### Unmap (R270, R271, R378) -/

/-- Every TLB and instruction cache of the package drops a page (R271). -/
def State.dropPage (s : State) (ctx v : Nat) (p : Page) : State :=
  let s := s.updCtx ctx fun c => { c with pages := mdel c.pages v }
  let old (b : Nat × Nat × List Byte) : Bool :=
    b.1 == ctx && Nat.ble (v * 2048) b.2.1 && Nat.blt b.2.1 ((v + pageSpan p.entry) * 2048)
  { s with cores := s.cores.map fun k => (k.1, { k.2 with icache := k.2.icache.filter fun b => !old b }) }

/-- PTCMD_UNMAP: the unmap that `PTCMD.GO` has started removes its page, or is refused. (DEDUCED, log 65.) -/
def execPtcmdUnmap (ctx : Nat) (s : State) : Host.Outcome State Fault Refusal :=
  let c := s.ctx ctx
  .next (if !c.ptbusy || decide (c.ptop ≠ 2) || c.unmapping.isSome then s
    else
      match c.pageOf (c.ptPage * 65536) with
      | none => s.endPt ctx 4
      | some (v, p) =>
        if c.pages.any fun q => q.2.names.contains v then s.endPt ctx 7
        else
          (s.dropPage ctx v p).updCtx ctx fun c => { c with unmapping := some p })

/-- A lane's read lies on a page. (DEDUCED, log 65.) -/
def LaneSrc.onPage (x : LaneSrc) (e : BitVec 64) : Bool :=
  let hit (l : Loc) : Bool := decide (l.sp = .glob) && overlap l.addr 1 (pagePA e) (pageSize e)
  match x with
  | .read at_ _ => at_.any hit
  | .reduce _ _ ms => ms.any fun m => m.any hit
  | _ => false

/-- UNMAP_DONE: every access through the removed page has been performed (R271). (DEDUCED, log 65.) -/
def execUnmapDone (ctx : Nat) (s : State) : Host.Outcome State Fault Refusal :=
  .next (match (s.ctx ctx).unmapping with
    | none => s
    | some p =>
      if s.producers.any fun q => decide (q.2.ctx = ctx) && q.2.lanes.any fun l => l.2.onPage p.entry then s
      else s.endPt ctx 0)

/-! ### Fault service (R273, R175, R383) -/

/-- FAULT_RECORD_RELEASE: the oldest record held back is written once the ring has room. -/
def execFaultRecordRelease (ctx tag : Nat) (s : State) : Host.Outcome State Fault Refusal :=
  let c := s.ctx ctx
  .next (match c.faults.find? fun f => !f.written with
    | none => s
    | some f =>
      if f.tag ≠ tag ∨ c.pfRoom = false then s
      else (s.writeFaultRecord ctx f.record).updCtx ctx fun x =>
        { x with faults := x.faults.map fun g => if g.tag = tag then { g with written := true } else g })

/-- The threads of a waiter that still wait on a tag. -/
def State.stillWait (s : State) (w : WaveId) (lanes : List Nat) (tag : Nat) : List Nat :=
  lanes.filter fun l => (s.thread (w.thread l)).live && decide ((s.thread (w.thread l)).wait = .fault tag)

/-- The parked request leaves its fault queue; `f` takes the piece of an FPERM, `g` the entry of another package. -/
def State.unpark (s : State) (id : Nat) (f : State → Nat → Fperm → Nat → State) (g : State → Nat → InEntry → State) : State :=
  match mfind s.parked id with
  | none => s
  | some p =>
    let s : State := { s with parked := mdel s.parked id }
    match p.req with
    | .piece x i => match mfind s.fperms x with
      | some y => f s x y i
      | none => s
    | .remote e => match mfind s.pe.inbox e with
      | some y => g s e y
      | none => s

/-- A waiter translates again: its threads issue their instruction for the lanes that have not completed (R177). -/
def State.retryWaiter (s : State) (tag : Nat) : FaultWaiter → State
  | .threads w lanes _ _ _ => s.updThreads w (s.stillWait w lanes tag) fun t => { t.wake s.cycle with resume := true }
  | .parked id => s.unpark id (fun s x y i => s.pieceArrive x y i) fun s e y => s.performIn e y false

/-- PAGE is delivered to a waiter's threads with the fault as it was recorded; a parked request fails (R175, R383). (DEDUCED, log 65.) -/
def State.failWaiter (s : State) (tag : Nat) : FaultWaiter → State
  | .threads w lanes info addr len =>
    match s.stillWait w lanes tag with
    | [] => s
    | l :: rest =>
      let tr : Trap :=
        { cause := .page, sub := 0, opnd := 0, acc := bits info 3 0, addr := addr.toNat, lane := some (bits info 13 8), src := 0 }
      s.deliver { wid := w, members := l :: rest, pc := (s.thread (w.thread l)).pc, len := len, eng := bits info 7 4, low := l
                  done := (s.wave w).donemask, prev := 0 } tr
  | .parked id => s.unpark id (fun s x y i => s.pieceDone x y i 4) fun s e y => s.failIn e y 2

/-- An answer to a record that has been written and not answered; any other tag is ignored. (DEDUCED, log 65.) -/
def State.answerFault (s : State) (ctx tag : Nat) (f : State → FaultWaiter → State) : State :=
  match (s.ctx ctx).faults.find? fun x => x.tag == tag && x.written with
  | none => s
  | some x =>
    let s := s.updCtx ctx fun c => { c with faults := c.faults.filter fun y => y.tag != tag }
    x.waiters.foldl f s

/-- What `PFREPLY` holds after a write, which no read returns (R8, R448). (DEDUCED, log 69.) -/
def State.setPfreply (s : State) (ctx : Nat) (v : BitVec 64) : State := s.updCtx ctx fun c => { c with pfreply := v }

/-- A reply of retry, and of unserviceable. -/
def State.replyRetry (s : State) (ctx tag : Nat) : State := s.answerFault ctx tag fun s w => s.retryWaiter tag w
def State.replyFail (s : State) (ctx tag : Nat) : State := s.answerFault ctx tag fun s w => s.failWaiter tag w

/-- A write of `PFREPLY`: the reply that its two halves then make (R269, R273, R448). (DEDUCED, log 69.) -/
def State.writePfreply (s : State) (ctx : Nat) (v : BitVec 64) : State :=
  let s := s.setPfreply ctx v
  if v.getLsbD 0 then s.replyFail ctx (bits v 63 32) else s.replyRetry ctx (bits v 63 32)

/-- PFREPLY_RETRY. -/
def execPfreplyRetry (ctx tag : Nat) (s : State) : Host.Outcome State Fault Refusal :=
  .next <| s.host ((s.setPfreply ctx (BitVec.ofNat 64 (tag * 2 ^ 32))).replyRetry ctx tag)

/-- PFREPLY_UNSERVICEABLE. -/
def execPfreplyUnserviceable (ctx tag : Nat) (s : State) : Host.Outcome State Fault Refusal :=
  .next <| s.host ((s.setPfreply ctx (BitVec.ofNat 64 (tag * 2 ^ 32 + 1))).replyFail ctx tag)

end Sys2Proof.Machine
end

