-- ==== Sys2Proof/Machine/Health.lean ====
section
/-! DEFINITION. The management controller: the start, the image mailbox, the monitors, throttling, removal of cores and dies, and power (spec/17_bringup_health.md R432 to R446; spec/04_dispatcher.md R143). -/

namespace Sys2Proof.Machine

open Sys2Proof

/-- Change the management controller. -/
def State.updMc (s : State) (f : Health → Health) : State := { s with mc := f s.mc }

/-- The event interrupt: vector 0 of the physical function (R437, R444). -/
def State.eventIrq (s : State) : State := s.send (.msix 0 0)

/-! ### The start (R432 to R436) -/

/-- What survives a package reset: the flash, and the machine's own bookkeeping. (DEDUCED, log 66.) -/
def State.cold (s : State) : State :=
  { State.reset with
    mc := { Health.reset with recs := s.mc.recs, slots := s.mc.slots, minSvn := s.mc.minSvn }
    agenda := s.agenda, cur := s.cur, cycle := s.cycle, ns := s.ns, nextId := s.nextId, free := s.free, out := s.out }

/-- The record of a step; one that a start has never begun reads zero. -/
def Health.stepRec (h : Health) (n : Nat) : StepRec := mget { code := 0, mode := 0, fails := 0 } h.recs n

/-- A step that the After 3 failures column skips. (DEDUCED, log 66.) -/
def skippable (n : Nat) : Bool := decide (5 ≤ n ∧ n ≤ 8)

/-- Slot of the image that step 3 loads, by its mode. -/
def slotOf (alt : Bool) : Nat := if alt then 1 else 0

/-- The outcome of step 3 for the image in a slot (R435). (DEDUCED, log 66.) -/
def Health.authCode (h : Health) (slot : Nat) : Nat :=
  let img := mget [] h.slots slot
  if !Config.imageVerifies img then 3 else if (Config.imageSvn img).toNat < h.minSvn then 4 else 0

/-- The image in a slot runs (R435, R436). -/
def Health.runImage (h : Health) (slot : Nat) : Health :=
  let img := mget [] h.slots slot
  let svn := (Config.imageSvn img).toNat
  { h with mcfw := BitVec.ofNat 32 (svn * 2 ^ 16 + (Config.imageRelease img).toNat * 16 + slot), digest := Config.imageDigest img
           minSvn := max h.minSvn svn }

/-- The ring oscillators of the dies are measured at start (R442). -/
def Health.measureDies (h : Health) (ns : Nat) : Health := { h with rosc := (List.range 64).map fun d => (d, Config.rosc d ns) }

/-- Every profile of every port is stale (R432, step 7). -/
def State.allStale (s : State) : State :=
  (List.range numPorts).foldl (fun s p => s.updPort p fun x => { x with stale := (List.range 64).map fun d => (d, 0xFFFF) }) s

/-- What a start finds at its steps: the outcomes by step, the stacks and dies that fail, whether the link reaches full width
and rate, and the position and time of the timing fibre. -/
structure StartIn where
  codes : List Nat
  hbm : List Nat
  dies : List Nat
  linkFull : Bool
  pos : BitVec 6
  time : BitVec 64
deriving DecidableEq, Repr

/-- The effect of a step that succeeds. (DEDUCED, log 66.) -/
def State.stepDone (s : State) (x : StartIn) (n : Nat) (alt : Bool) : State :=
  match n with
  | 3 => s.updMc fun h => h.runImage (slotOf alt)
  | 7 => if alt then s.allStale else s
  | 8 => s.lock x.pos x.time 0
  | 9 => s.updMc fun h => { h with linkdn := alt || !x.linkFull }
  | _ => s

/-- Dies leave service (R434). -/
def Health.exclude (h : Health) (dies : List Nat) : Health := { h with out := sortN (h.out ++ dies.filter fun d => Nat.blt d 64) }

/-- The effect of a step that is skipped, or treated so (R433, R434). (DEDUCED, log 66.) -/
def State.stepSkipped (s : State) (x : StartIn) (n : Nat) : State :=
  match n with
  | 5 => s.updMc fun h => { h.exclude (x.hbm.flatMap fun k => [2 * k, 2 * k + 1]) with hbmout := true }
  | 6 => s.updMc fun h => { h.exclude x.dies with dieout := true }
  | 7 => s.updMc fun h => { h with podout := true }
  | 8 => s.updMc fun h => { h with podout := true }
  | _ => s

/-- Write a step's record. -/
def State.setRec (s : State) (n : Nat) (r : StepRec) : State := s.updMc fun h => { h with recs := mput h.recs n r }

/-- One step of the start; the second part says that the start ends with it. (DEDUCED, log 66.) -/
def State.startStep (s : State) (x : StartIn) (n : Nat) : State × Bool :=
  let s := s.updMc fun h => { h with step := n }
  let r := s.mc.stepRec n
  if skippable n && (decide (r.fails = 3) || (decide (n = 8) && s.mc.podout)) then
    ((s.setRec n { r with mode := 2 }).stepSkipped x n, false)
  else if r.fails = 3 then (s.updMc fun h => { h with state := 3 }, true)
  else
    let alt := decide (1 ≤ r.fails)
    let given := nth 0 x.codes (n - 1)
    let code := if n = 3 ∧ given ≠ 1 ∧ given ≠ 2 ∧ given ≠ 5 then s.mc.authCode (slotOf alt) else given
    let mode := if alt then 1 else 0
    let fails := min 3 (r.fails + 1)
    if code = 5 then
      ((s.setRec n { code := 5, mode := 3, fails := fails }).updMc fun h => { h with held := true, vin := 0 }, true)
    else if code = 0 then ((s.setRec n { code := 0, mode := mode, fails := 0 }).stepDone x n alt, false)
    else
      let s := s.setRec n { code := code % 256, mode := mode, fails := fails }
      if skippable n then (s.stepSkipped x n, false) else (s.updMc fun h => { h with state := 3 }, true)

/-- The steps from one on, in order. (DEDUCED, log 66.) -/
def State.startSteps (x : StartIn) : Nat → Nat → State → State × Bool
  | 0, _, s => (s, false)
  | k + 1, n, s =>
    let r := s.startStep x n
    if r.2 then r else State.startSteps x k (n + 1) r.1

/-- A full start. (DEDUCED, log 66.) -/
def State.start (s : State) (x : StartIn) : State :=
  let r := State.startSteps x 9 1 (s.cold.updMc fun h => h.measureDies s.ns)
  let s := if r.2 then r.1
    else r.1.updMc fun h => { h with state := if h.linkdn || h.podout || h.dieout || h.hbmout then 2 else 1 }
  s.mc.out.foldl (fun s _ => s.eventIrq) s.eventIrq

/-- PACKAGE_RESET: a package reset runs a full start (R432, R446). A package that lacks power stays in reset (R445). (DEDUCED, log 66.) -/
def execPackageReset (codes badStacks badDies : List Nat) (linkFull : Bool) (pos : BitVec 6) (time : BitVec 64) (s : State) :
    Host.Outcome State Fault Refusal :=
  .next (if s.mc.held then s
    else s.start { codes := codes, hbm := badStacks, dies := badDies, linkFull := linkFull, pos := pos, time := time })

/-- STARTCLR_WRITE: failure counts are cleared in flash (R441). -/
def execStartclrWrite (value : BitVec 32) (s : State) : Host.Outcome State Fault Refusal :=
  .next ((rangeFrom 1 9).foldl (fun s n => if value.getLsbD n then s.setRec n { s.mc.stepRec n with fails := 0 } else s) s)

/-! ### The image mailbox (R437 to R439) -/

/-- Bytes of an image slot. -/
def slotBytes : Nat := 2 ^ 25

/-- Device ID of the physical function, and of a virtual function (R2). -/
def deviceId (vf : Bool) : BitVec 16 := if vf then 0x4B65 else 0x4B64
/-- Revision ID of revision B1 (R2). -/
def revisionId : BitVec 8 := 0x21
/-- The identifiers that a function shows in configuration space: vendor, device, revision (R2). (DESIGN CHOICE, log 74.) -/
def configIds (vf : Bool) : BitVec 16 × BitVec 16 × BitVec 8 := (Config.vendorId, deviceId vf, revisionId)
/-- `MCID` and `STARTSTAT` (R436, R440). (DESIGN CHOICE, log 74.) -/
def mcid : BitVec 64 := BitVec.ofNat 64 (Config.serial.toNat * 2 ^ 32 + (deviceId false).toNat * 2 ^ 16 + revisionId.toNat * 2 ^ 8)
def Health.startstat (h : Health) : BitVec 32 :=
  BitVec.ofNat 32 (bit01 h.linkdn * 2 ^ 11 + bit01 h.podout * 2 ^ 10 + bit01 h.dieout * 2 ^ 9 + bit01 h.hbmout * 2 ^ 8 +
    h.step % 16 * 16 + h.state % 4)

def Health.mbSlot (h : Health) : Nat := if h.mbarg.getLsbD 63 then 1 else 0
/-- (DEDUCED, log 67.) -/
def Health.mbOfs (h : Health) : Nat := bits h.mbarg 31 0

/-- The slot holds the running image, and the package is not in RECOVERY. -/
def Health.slotRuns (h : Health) (slot : Nat) : Bool := decide (h.state ≠ 3) && decide (bits h.mcfw 0 0 = slot)

/-- The operation in progress is `op`, and its result has not been found. (DEDUCED, log 67.) -/
def Health.runs (h : Health) (op : Nat) : Bool := h.busy && h.found.isNone && decide (h.mbop.toNat = op)

/-- Bytes of `MBBUF`. -/
def Health.mbBytes (h : Health) (n : Nat) : List Byte := (List.range n).map fun i => mget 0 h.mbbuf i

/-- The controller writes `MBBUF` from its start, and `LEN`. -/
def Health.mbReply (h : Health) (bytes : List Byte) : Health :=
  { h with mbbuf := ((List.range bytes.length).zip bytes).foldl (fun m p => mput m p.1 p.2) h.mbbuf
           mblen := BitVec.ofNat 17 bytes.length, found := some 0 }

/-- ERASE. (DEDUCED, log 67.) -/
def Health.erase (h : Health) (flashError : Bool) : Health :=
  if h.slotRuns h.mbSlot then { h with found := some 4 }
  else if flashError then { h with found := some 3 }
  else { h with slots := mput h.slots h.mbSlot [], found := some 0 }

/-- A byte of an image slot. -/
def Health.slotByte (h : Health) (slot a : Nat) : Byte := mget 0xFF (mget [] h.slots slot) a

/-- WRITE: its checks of range, of the running image and of erased bytes, in the order of their codes but for the flash. (DEDUCED, log 67.) -/
def Health.write (h : Health) (flashError : Bool) : Health :=
  let n := h.mblen.toNat
  let at_ := h.mbOfs
  if n % 4 ≠ 0 ∨ n < 4 ∨ 65536 < n ∨ slotBytes < at_ + n ∨ at_ % 65536 ≠ 0 then { h with found := some 2 }
  else if h.slotRuns h.mbSlot then { h with found := some 4 }
  else if (List.range n).any fun i => h.slotByte h.mbSlot (at_ + i) != 0xFF then { h with found := some 5 }
  else if flashError then { h with found := some 3 }
  else
    let bytes := ((List.range n).zip (h.mbBytes n)).filter fun p => decide (p.2 ≠ 0xFF)
    let img := bytes.foldl (fun m p => mput m (at_ + p.1) p.2) (mget [] h.slots h.mbSlot)
    { h with slots := mput h.slots h.mbSlot img, found := some 0 }

/-- Bytes 0 to 119 of a measurement report (R439). -/
def Health.report (h : Health) : List Byte :=
  toBytes 4 1 ++ toBytes 4 0 ++ (h.digest ++ List.replicate 48 0).take 48 ++ toBytes 8 mcid.toNat ++ toBytes 4 h.mcfw.toNat ++
    toBytes 4 h.startstat.toNat ++ h.mbBytes 48

/-- Bytes of a report's signatures. -/
def signatureBytes : Nat := 16728 - 120

/-- What KEYS returns: the device identity public keys and their certificates, each length before its certificate (R438). -/
def keysData : List Byte :=
  (toBytes 384 Config.rsaModulus.toNat).reverse ++ (toBytes 4 Config.rsaExponent.toNat).reverse ++ toBytes 48 Config.slhKey.toNat ++
    [false, true].flatMap fun k => toBytes 4 (Config.certificate k).length ++ Config.certificate k

/-- MEASURE. -/
def Health.measure (h : Health) : Health :=
  let r := h.report
  h.mbReply (r ++ (Config.reportSignatures r ++ List.replicate signatureBytes 0).take signatureBytes)

/-- MB_ERASE (R438). (DEDUCED, log 67.) -/
def execMbErase (flashError : Bool) (s : State) : Host.Outcome State Fault Refusal :=
  .next (if s.mc.runs 1 then s.updMc fun h => h.erase flashError else s)
/-- MB_WRITE (R438). (DEDUCED, log 67.) -/
def execMbWrite (flashError : Bool) (s : State) : Host.Outcome State Fault Refusal :=
  .next (if s.mc.runs 2 then s.updMc fun h => h.write flashError else s)
/-- MB_KEYS (R438). -/
def execMbKeys (s : State) : Host.Outcome State Fault Refusal :=
  .next (if s.mc.runs 3 then s.updMc fun h => h.mbReply keysData else s)
/-- MB_MEASURE (R438, R439). -/
def execMbMeasure (s : State) : Host.Outcome State Fault Refusal :=
  .next (if s.mc.runs 4 then s.updMc Health.measure else s)

/-- MB_OP_DONE: the operation ends with its result; one that is not defined has result 1 (R437, R438). (DEDUCED, log 67.) -/
def execMbOpDone (s : State) : Host.Outcome State Fault Refusal :=
  let h := s.mc
  let undefined_ := decide (h.mbop = 0) || Nat.blt 4 h.mbop.toNat
  .next (if !h.busy then s
    else
      match (if undefined_ then some 1 else h.found) with
      | none => s
      | some r => (s.updMc fun h => { h with busy := false, found := none, result := r }).eventIrq)

/-! ### Temperature, throttling and droop (R143, R442, R443) -/

/-- A temperature in degrees (signed). -/
def degrees (t : BitVec 8) : Int := t.toInt

/-- `PLACECFG` (R143). -/
def Health.hotAt (h : Health) : Nat := bits h.placecfg 15 8
def Health.hyst (h : Health) : Nat := bits h.placecfg 7 4

/-- A measured temperature excludes a core from placement or readmits it. (DEDUCED, log 68.) -/
def Health.setTemp (h : Health) (core : Nat) (t : BitVec 8) : Health :=
  let hot := if (h.hotAt : Int) ≤ degrees t then insertN core h.hot
    else if degrees t ≤ (h.hotAt : Int) - h.hyst then h.hot.filter (· != core) else h.hot
  { h with temps := mput h.temps core t, hot := hot }

/-- The contexts of which some block resides where `p` says. -/
def State.contextsAt (s : State) (p : Nat → Bool) : List Nat :=
  sortN ((s.blocks.filter fun b => b.2.resident && p b.2.core).map fun b => b.2.ctx)

/-- A context ends with a remote failure that this package reports. (DEDUCED, log 68.) -/
def State.lostEntries (s : State) (c : Nat) : State :=
  let live := decide ((s.ctx c).st ≠ .idle ∧ (s.ctx c).st ≠ .fault)
  let s := if live then s.updCtx c fun x => { x with pestat := BitVec.ofNat 64 (4 * 2 ^ 24 + s.ownPkg % 64 * 2 ^ 8) } else s
  s.ctxFault c

/-- The queue region is lost: its entries are, and the contexts that had one there end with `PESTAT.CODE` 4 (R395). (DEDUCED, log 68.) -/
def State.loseRegion (s : State) : State :=
  let held := (s.pe.virt ++ s.pe.transit).flatMap (·.2) ++ s.pe.streams.flatMap fun x => x.2.detours
  let ctxs := sortN ((held.map fun e => e.ctx).filter fun c => Nat.blt c Config.numContexts)
  let cut (c : Option Cur) : Option Cur :=
    match c with
    | some x => match x.key with
      | .resp _ => some x
      | _ => none
    | none => none
  let s : State := { s with pe := { s.pe with
    pevqAct := false, virt := [], transit := []
    streams := s.pe.streams.map fun x => (x.1, { x.2 with cur := cut x.2.cur, detours := [] }) } }
  ctxs.foldl State.lostEntries s

/-- A page, or for an aperture some member of it, lies in a die's home range. -/
def Page.inHome (p : Page) (die : Nat) : Bool :=
  let hit (e : BitVec 64) : Bool := overlap (pagePA e) (pageSize e) (die * Config.homeSize) Config.homeSize
  if pageAper p.entry then p.members.any hit else hit p.entry

/-- An excluded die's home range is unmapped: no context keeps a page in it, nor an aperture with a member in it (R434). (DEDUCED,
log 65.) -/
def State.unmapHome (s : State) (die : Nat) : State :=
  (s.ctxs.flatMap fun c => (c.2.pages.filter fun p => p.2.inHome die).map fun p => (c.1, p)).foldl
    (fun s x => s.dropPage x.1 x.2.1 x.2.2) s

/-- A die leaves service while the package runs (R443): a queue region in its home range is lost, every context with a block on
the die ends, and the home range is unmapped (R395, R434). (DEDUCED, log 68.) -/
def State.dieOut (s : State) (die : Nat) : State :=
  if s.mc.out.contains die then s
  else
    let s := if s.pe.pevqAct && overlap s.pe.regionBase s.pe.regionSize (die * Config.homeSize) Config.homeSize then s.loseRegion else s
    let s := (s.contextsAt fun k => decide (dieOf k = die)).foldl State.ctxFault s
    ((s.updMc fun h => h.exclude [die]).eventIrq).unmapHome die

/-- TEMP_SAMPLE: a core's temperature is measured (R143, R442, R443). (DEDUCED, log 68.) -/
def execTempSample (core : Nat) (temp : BitVec 8) (s : State) : Host.Outcome State Fault Refusal :=
  .next (if Config.numCores ≤ core then s
    else
      let s := s.updMc fun h => h.setTemp core temp
      if 125 ≤ degrees temp then s.dieOut (dieOf core) else s)

/-- `CLKSTEP` of a die after 100 microseconds at the temperatures measured and the power drawn. -/
def Health.nextStep (h : Health) (die : Nat) : Nat :=
  let k := mget 0 h.clkstep die
  let temps := (h.temps.filter fun t => decide (dieOf t.1 = die)).map fun t => degrees t.2
  let power := Nat.blt 12500 (4 * h.pkgw.toNat)
  if power || temps.any fun t => decide (105 ≤ t) then min 8 (k + 1)
  else if temps.all fun t => decide (t < 100) then k - 1
  else k

/-- THROTTLE_STEP: every 100 microseconds, with the power that the package draws (R443, R445). (DEDUCED, log 68.) -/
def execThrottleStep (die : Nat) (pkgw : BitVec 16) (s : State) : Host.Outcome State Fault Refusal :=
  .next (if 64 ≤ die ∨ s.ns < mget 0 s.mc.clkNs die + 100000 then s
    else
      let s := s.updMc fun h => { h with pkgw := pkgw }
      s.updMc fun h => { h with clkstep := mput h.clkstep die (h.nextStep die), clkNs := mput h.clkNs die s.ns })

/-- DROOP_EVENT (R141, R442). -/
def execDroopEvent (die : Nat) (s : State) : Host.Outcome State Fault Refusal :=
  .next (if 64 ≤ die then s
    else s.updMc fun h =>
      { h with droops := mput h.droops die (min 65535 (mget 0 h.droops die + 1)), droopNs := mput h.droopNs die s.ns })

/-- CORE_FAULT: a core is removed as faulty (R444). -/
def execCoreFault (core : Nat) (s : State) : Host.Outcome State Fault Refusal :=
  .next (if Config.numCores ≤ core ∨ s.mc.faulty.contains core = true then s
    else
      let s := (s.contextsAt fun k => decide (k = core)).foldl State.ctxFault s
      (s.updMc fun h => { h with faulty := insertN core h.faulty }).eventIrq)

/-! ### Power (R445) and Function Level Reset (R446) -/

/-- UNDERVOLTAGE: a sample of the busbar voltage; below 46 V for a millisecond, every context ends and the package is held in
reset. (DEDUCED, log 68.) -/
def execUndervoltage (vin : Byte) (s : State) : Host.Outcome State Fault Refusal :=
  .next (if 4 * 46 ≤ vin.toNat then s.updMc fun h => { h with vin := vin }
    else
      let s := (s.ctxs.map (·.1)).foldl State.ctxFault s
      { s with cal := Calendar.reset }.updMc fun h => { h with vin := vin, held := true })

/-- POWER_RESTORE: at least 48 V for 10 milliseconds releases the reset. (DEDUCED, log 66.) -/
def execPowerRestore (vin : Byte) (s : State) : Host.Outcome State Fault Refusal :=
  .next (if !s.mc.held || Nat.blt vin.toNat (4 * 48) then s
    else s.cold.updMc fun h => { h with vin := vin })

/-- A package held in reset takes no move but the one that releases it (R445). -/
def State.heldFrom (s : State) (a : Act) : Bool :=
  s.mc.held && match a with
    | .event (.powerRestore _) => false
    | _ => true

/-- VF_FLR: a virtual function's reset ends each of its contexts. -/
def execVfFlr (vf : Nat) (s : State) : Host.Outcome State Fault Refusal :=
  .next (if vf = 0 ∨ 16 < vf then s
    else ((s.ctxs.filter fun c => decide (c.2.func.toNat = vf)).map (·.1)).foldl State.resetCtx s)

end Sys2Proof.Machine
end

