-- ==== Sys2Proof/Machine/Registers.lean ====
section
/-! DEFINITION. The registers of BAR0: their places, what they read, and what a write of the host does (spec/00_scope.md R8, R9, R448, and the field maps of the other chapters). -/

namespace Sys2Proof.Machine

open Sys2Proof

/-! ### Names and places -/

/-- A register, with the global number of its queue or context where it has one. Tables of bytes count in units of 4. -/
inductive Reg where
  | placecfg | sfcfg | fnres (fn : Nat)
  | wqbase (q : Nat) | wqctl (fn q : Nat) | wqwr (q : Nat) | wqrd (q : Nat) | wqstat (q : Nat)
  | qfunc (unit : Nat) | cfunc (unit : Nat)
  | ctxpt (c : Nat) | ctxpool (c : Nat) | ctxpoolsz (c : Nat) | ctxsig (c : Nat) | ctxsign (c : Nat) | ctxcset (c : Nat)
  | ctxlog (c : Nat) | ctxlogn (c : Nat) | ctxmap (c : Nat) | ctxctl (c : Nat) | ctxstat (c : Nat) | pectx (c : Nat)
  | pestat (c : Nat) | ctxlogwr (c : Nat) | ctxlogrd (c : Nat)
  | ptva (c : Nat) | ptent (c : Nat) | ptcmd (c : Nat) | ptstat (c : Nat) | pfbase (c : Nat) | pfctl (c : Nat) | pfwr (c : Nat)
  | pfrd (c : Nat) | pfreply (c : Nat) | aptbase (c : Nat) | aptctl (c : Nat)
  | almcfg | almstg | almnext | almepoch | calstat | pebud | peany | pevq | petmo | opcfg | active (unit : Nat) | staged (unit : Nat)
  | portstat (p : Nat) | feccor (p : Nat) | fecunc (p : Nat) | resend (p : Nat) | eyesel (p : Nat) | eyeval (p : Nat)
  | lmap (p d : Nat) | dark (p d : Nat)
  | mcid | mcfw | startstat | startclr | stepRec (n : Nat) | mbctl | mbarg | mbstat | mbbuf (unit : Nat)
  | corestat (c : Nat) | diestat (d : Nat) | pwrstat
deriving DecidableEq, Repr

/-- The register is 64 bits wide. -/
def Reg.wide (r : Reg) : Bool :=
  match r with
  | .fnres _ | .wqbase _ | .wqctl _ _ | .wqstat _ | .ctxpt _ | .ctxpool _ | .ctxpoolsz _ | .ctxsig _ | .ctxsign _ | .ctxcset _
  | .ctxlog _ | .ctxlogn _ | .ctxmap _ | .ctxctl _ | .ctxstat _ | .pectx _ | .pestat _ | .ptva _ | .ptent _ | .pfbase _
  | .pfreply _ | .aptbase _ | .almnext | .almepoch | .pebud | .peany | .pevq | .portstat _ | .lmap _ _ | .mcid | .mbctl | .mbarg
  | .diestat _ => true
  | _ => false

/-- The management controller's registers that respond in RECOVERY (R434, R437). -/
def Reg.inRecovery (r : Reg) : Bool :=
  match r with
  | .mcid | .mcfw | .startstat | .startclr | .stepRec _ | .mbctl | .mbarg | .mbstat | .mbbuf _ => true
  | _ => false

/-- The register of a queue block (R129). -/
def queueReg (fn q : Nat) : Nat → Option Reg
  | 0x00 => some (.wqbase q)
  | 0x08 => some (.wqctl fn q)
  | 0x10 => some (.wqwr q)
  | 0x14 => some (.wqrd q)
  | 0x18 => some (.wqstat q)
  | _ => none

/-- The register of a context's block, or of a function's view of it (R154). -/
def ctxReg (c : Nat) (view : Bool) : Nat → Option Reg
  | 0x00 => if view then none else some (.ctxpt c)
  | 0x08 => if view then none else some (.ctxpool c)
  | 0x10 => if view then none else some (.ctxpoolsz c)
  | 0x18 => if view then none else some (.ctxsig c)
  | 0x20 => if view then none else some (.ctxsign c)
  | 0x28 => if view then none else some (.ctxcset c)
  | 0x30 => some (.ctxlog c)
  | 0x38 => some (.ctxlogn c)
  | 0x40 => some (.ctxmap c)
  | 0x48 => some (.ctxctl c)
  | 0x50 => some (.ctxstat c)
  | 0x58 => if view then none else some (.pectx c)
  | 0x60 => some (.pestat c)
  | 0x68 => some (.ctxlogwr c)
  | 0x6C => some (.ctxlogrd c)
  | _ => none

/-- The translation registers of a context (R269). -/
def ptReg (c : Nat) : Nat → Option Reg
  | 0x00 => some (.ptva c)
  | 0x08 => some (.ptent c)
  | 0x10 => some (.ptcmd c)
  | 0x14 => some (.ptstat c)
  | 0x18 => some (.pfbase c)
  | 0x20 => some (.pfctl c)
  | 0x28 => some (.pfwr c)
  | 0x2C => some (.pfrd c)
  | 0x30 => some (.pfreply c)
  | _ => none

/-- The calendar's and the port engine's registers, from 0x0800_0000 (R389, R391, R395, R398, R400, R405, R427). -/
def podReg : Nat → Option Reg
  | 0x00 => some .almcfg
  | 0x04 => some .almstg
  | 0x08 => some .almnext
  | 0x10 => some .almepoch
  | 0x20 => some .calstat
  | 0x28 => some .pebud
  | 0x30 => some .peany
  | 0x40 => some .pevq
  | 0x48 => some .petmo
  | 0x70 => some .opcfg
  | _ => none

/-- The registers of a port's block (R428). -/
def portReg (p o : Nat) : Option Reg :=
  if 0x400 ≤ o ∧ o < 0x600 then (if o % 8 = 0 then some (.lmap p ((o - 0x400) / 8)) else none)
  else if 0x800 ≤ o ∧ o < 0x900 then some (.dark p ((o - 0x800) / 4))
  else
    match o with
    | 0x00 => some (.portstat p)
    | 0x08 => some (.feccor p)
    | 0x0C => some (.fecunc p)
    | 0x10 => some (.resend p)
    | 0x18 => some (.eyesel p)
    | 0x1C => some (.eyeval p)
    | _ => none

/-- The management controller's registers, from 0x0900_0000 (R436 to R445). -/
def mcReg (o : Nat) : Option Reg :=
  if 0x100 ≤ o ∧ o < 0x148 then (if o % 8 = 0 then some (.stepRec ((o - 0x100) / 8 + 1)) else none)
  else if 0x10000 ≤ o ∧ o < 0x12000 then some (.corestat ((o - 0x10000) / 4))
  else if 0x20000 ≤ o ∧ o < 0x20400 then (if o % 16 = 0 then some (.diestat ((o - 0x20000) / 16)) else none)
  else if 0x40000 ≤ o ∧ o < 0x50000 then some (.mbbuf ((o - 0x40000) / 4))
  else
    match o with
    | 0x0 => some .mcid
    | 0x8 => some .mcfw
    | 0x10 => some .startstat
    | 0x18 => some .startclr
    | 0x200 => some .mbctl
    | 0x208 => some .mbarg
    | 0x210 => some .mbstat
    | 0x30000 => some .pwrstat
    | _ => none

/-- The register that begins at an offset of the physical function's BAR0, other than those that every function has. -/
def pfReg (o : Nat) : Option Reg :=
  if o = 0x40 then some .placecfg
  else if o = 0x50 then some .sfcfg
  else if 0x800000 ≤ o ∧ o < 0x820000 then some (.qfunc ((o - 0x800000) / 4))
  else if 0x820000 ≤ o ∧ o < 0x821000 then some (.cfunc ((o - 0x820000) / 4))
  else if 0x4000000 ≤ o ∧ o < 0x4080000 then ctxReg ((o - 0x4000000) / 128) false ((o - 0x4000000) % 128)
  else if 0x6000000 ≤ o ∧ o < 0x6040000 then ptReg ((o - 0x6000000) / 64) ((o - 0x6000000) % 64)
  else if 0x7000000 ≤ o ∧ o < 0x7040000 then
    (match (o - 0x7000000) % 64 with
     | 0 => some (.aptbase ((o - 0x7000000) / 64))
     | 8 => some (.aptctl ((o - 0x7000000) / 64))
     | _ => none)
  else if 0x8010000 ≤ o ∧ o < 0x8010400 then some (.active ((o - 0x8010000) / 4))
  else if 0x8010400 ≤ o ∧ o < 0x8010800 then some (.staged ((o - 0x8010400) / 4))
  else if 0x8020000 ≤ o ∧ o < 0x8030000 then portReg ((o - 0x8020000) / 0x1000) ((o - 0x8020000) % 0x1000)
  else if 0x8000000 ≤ o ∧ o < 0x8000100 then podReg (o - 0x8000000)
  else if 0x9000000 ≤ o ∧ o < 0x9050000 then mcReg (o - 0x9000000)
  else none

/-- The register that begins at an offset of a function's BAR0. -/
def State.regAt (s : State) (fn o : Nat) : Option Reg :=
  if o = 0x60 then some (.fnres fn)
  else if 0x100000 ≤ o ∧ o < 0x500000 then
    (s.queueOf fn ((o - 0x100000) / 32)).bind fun q => queueReg fn q ((o - 0x100000) % 32)
  else if 0x600000 ≤ o ∧ o < 0x680000 then
    (s.contextOf fn ((o - 0x600000) / 128)).bind fun c => ctxReg c true ((o - 0x600000) % 128)
  else if fn = 0 then pfReg o
  else none

/-- The register that holds the aligned 4 bytes at an offset, and whether they are its upper half. -/
def State.unitAt (s : State) (fn o : Nat) : Option (Reg × Bool) :=
  match s.regAt fn o with
  | some r => some (r, false)
  | none =>
    if o < 4 then none
    else
      match s.regAt fn (o - 4) with
      | some r => if r.wide then some (r, true) else none
      | none => none

/-! ### What a register reads (R8) -/

def CtxState.code : CtxState → Nat
  | .idle => 0 | .run => 1 | .halt => 2 | .saved => 3 | .restore => 4 | .fault => 5

/-- A global context number in the local numbers of a function (R126). (DEDUCED, log 56.) -/
def State.localCtx (s : State) (fn c : Nat) : Nat :=
  let mine (d : Bool) : Nat := (s.ctxs.filter fun x => decide (x.1 < c) && (decide (x.2.func.toNat = fn) == d)).length
  if fn = 0 then c - mine false else mine true

/-- `WQCTL.CTX` of a queue as a function reads it: the number of its context, or what was written when that named none (R8). -/
def State.ctxField (s : State) (fn : Nat) (q : Queue) : Nat := if q.unbound then q.ctx else s.localCtx fn q.ctx

/-- What a function owns of a table of `total` queues or contexts. -/
def ownCount (fn total : Nat) (owners : List Nat) : Nat :=
  if fn = 0 then total - (owners.filter (· != 0)).length else (owners.filter (· == fn)).length

/-- Four bytes from a unit of a table. -/
def unitBytes (f : Nat → Byte) (unit : Nat) : BitVec 64 := BitVec.ofNat 64 (ofBytes ((rangeFrom (4 * unit) 4).map f))

/-- A queue's `WQSTAT`. -/
def Queue.wqstat (q : Queue) : Nat :=
  q.erridx.toNat * 2 ^ 32 + q.errcode.toNat * 2 ^ 8 + bit01 q.cdec * 4 + bit01 q.placing.isSome * 2 + bit01 q.err

/-- `CTXSTAT` of a context. -/
def State.ctxstat (s : State) (c : Nat) : Nat :=
  let x := s.ctx c
  s.inFlight c % 2 ^ 32 * 2 ^ 32 + bit01 x.rerr * 2 ^ 8 + bit01 x.yielded * 2 ^ 7 + bit01 x.resetting * 8 + x.st.code

/-- The record of a step in its register (R441). -/
def StepRec.word (r : StepRec) : Nat := r.code % 256 * 2 ^ 24 + r.mode % 256 * 2 ^ 8 + r.fails % 4

/-- What a register reads. (DEDUCED, log 69.) -/
def State.readReg (s : State) (r : Reg) : BitVec 64 :=
  let n (x : Nat) : BitVec 64 := BitVec.ofNat 64 x
  match r with
  | .placecfg => n s.mc.placecfg.toNat
  | .sfcfg => n s.sfcfg.toNat
  | .fnres fn =>
    n (ownCount fn Config.numQueues (s.queues.map fun q => q.2.func.toNat) * 2 ^ 32 +
      ownCount fn Config.numContexts (s.ctxs.map fun c => c.2.func.toNat))
  | .wqbase q => (s.queue q).wqbase
  | .wqctl fn q =>
    let x := s.queue q
    n (setField (setField x.wqctl.toNat 35 24 (s.ctxField fn x)) 0 0 (bit01 x.en))
  | .wqwr q => n (s.queue q).wqwr.toNat
  | .wqrd q => n (s.queue q).wqrd.toNat
  | .wqstat q => n (s.queue q).wqstat
  | .qfunc u => unitBytes (fun i => BitVec.ofNat 8 (s.queue i).func.toNat) u
  | .cfunc u => unitBytes (fun i => BitVec.ofNat 8 (s.ctx i).func.toNat) u
  | .ctxpt c => (s.ctx c).ctxpt
  | .ctxpool c => (s.ctx c).ctxpool
  | .ctxpoolsz c => (s.ctx c).ctxpoolsz
  | .ctxsig c => (s.ctx c).ctxsig
  | .ctxsign c => (s.ctx c).ctxsign
  | .ctxcset c => (s.ctx c).ctxcset
  | .ctxlog c => (s.ctx c).ctxlog
  | .ctxlogn c => (s.ctx c).ctxlogn
  | .ctxmap c => (s.ctx c).ctxmap
  | .ctxctl c => n (bit01 (s.ctx c).preemptok)
  | .ctxstat c => n (s.ctxstat c)
  | .pectx c => (s.ctx c).pectx
  | .pestat c => (s.ctx c).pestat
  | .ctxlogwr c => n (s.ctx c).ctxlogwr.toNat
  | .ctxlogrd c => n (s.ctx c).ctxlogrd.toNat
  | .ptva c => (s.ctx c).ptva
  | .ptent c => (s.ctx c).ptent
  | .ptcmd c => n (s.ctx c).ptop.toNat
  | .ptstat c => n (bit01 (s.ctx c).ptbusy * 2 ^ 31 + (s.ctx c).ptresult.toNat)
  | .pfbase c => (s.ctx c).pfbase
  | .pfctl c => n (setField (s.ctx c).pfctl.toNat 0 0 (bit01 (s.ctx c).pfEn))
  | .pfwr c => n (s.ctx c).pfwr.toNat
  | .pfrd c => n (s.ctx c).pfrd.toNat
  | .pfreply _ => 0
  | .aptbase c => (s.ctx c).aptbase
  | .aptctl c => n (s.ctx c).aptN
  | .almcfg => n s.cal.cfg.toNat
  | .almstg => n s.cal.stg.toNat
  | .almnext => n (bit01 s.cal.go * 2 ^ 63 + bit01 s.cal.err * 2 ^ 62 + s.cal.next.toNat)
  | .almepoch => s.cal.epoch
  | .calstat => n (bit01 s.cal.locked * 2 ^ 31 + s.cal.ofs.toNat * 2 ^ 16 + s.cal.lost.toNat * 2 ^ 8 + s.pkgid.getD 0)
  | .pebud => s.pe.pebud
  | .peany => s.pe.peany
  | .pevq =>
    n (s.pe.pevqBase.toNat * 4096 + bit01 s.pe.pevqRef * 64 + bit01 s.pe.pevqAct * 32 + s.pe.pevqLog.toNat)
  | .petmo => n s.pe.petmo.toNat
  | .opcfg => n s.pe.opcfg.toNat
  | .active u => unitBytes (mget 0 s.cal.active) u
  | .staged u => unitBytes (mget 0 s.cal.staged) u
  | .portstat p => n ((s.port p).txfault.toNat * 2 ^ 48 + (s.port p).rxlos.toNat * 2 ^ 32 + bit01 (s.port p).evt)
  | .feccor p => n (s.port p).feccor.toNat
  | .fecunc p => n (s.port p).fecunc.toNat
  | .resend p => n (s.port p).resend.toNat
  | .eyesel p => n (s.port p).eyesel.toNat
  | .eyeval p => n (bit01 (s.port p).eyevalid * 256 + (s.port p).eyemargin.toNat)
  | .lmap p d => n ((mget 0 (s.port p).stale d).toNat * 2 ^ 32 + ((s.port p).tx d).toNat * 2 ^ 16 + ((s.port p).rx d).toNat)
  | .dark p d => n (mget 0 (s.port p).darkTotal d * 256 + mget 0 (s.port p).darkRun d)
  | .mcid => Machine.mcid
  | .mcfw => n s.mc.mcfw.toNat
  | .startstat => n s.mc.startstat.toNat
  | .startclr => 0
  | .stepRec i => n (s.mc.stepRec i).word
  | .mbctl => n (bit01 s.mc.busy * 2 ^ 63 + s.mc.mbop.toNat * 2 ^ 32 + s.mc.mblen.toNat)
  | .mbarg => s.mc.mbarg
  | .mbstat => n (bit01 s.mc.busy * 2 ^ 31 + s.mc.result % 256)
  | .mbbuf u => unitBytes (mget 0 s.mc.mbbuf) u
  | .corestat c =>
    n ((mget 0 s.mc.temps c).toNat * 256 + bit01 (s.mc.faulty.contains c) * 4 + bit01 (s.mc.hot.contains c) * 2)
  | .diestat d =>
    n ((mget 0 s.mc.rosc d).toNat * 2 ^ 48 + mget 0 s.mc.droops d * 2 ^ 32 + mget 0 s.mc.clkstep d * 16 + bit01 (s.mc.out.contains d) * 8)
  | .pwrstat => n (s.mc.pkgw.toNat * 2 ^ 16 + s.mc.vin.toNat * 256)

/-- The register responds to the host (R434, R445). -/
def State.responds (s : State) (r : Reg) : Bool := !s.mc.held && (!s.deaf || r.inRecovery)

/-- An aligned 4-byte unit of a function's BAR0 as a read gives it (R448). -/
def State.readUnit (s : State) (fn o : Nat) : Nat :=
  match s.unitAt fn o with
  | none => 0
  | some (r, hi) => if s.responds r then (if hi then bits (s.readReg r) 63 32 else bits (s.readReg r) 31 0) else 0

/-- A read of 1, 2, 4 or 8 naturally aligned bytes of a function's BAR0 (R448). (DEDUCED, log 69.) -/
def State.hostRead (s : State) (fn o size : Nat) : Nat :=
  let u := s.readUnit fn (o / 4 * 4)
  if size = 8 then u + 2 ^ 32 * s.readUnit fn (o / 4 * 4 + 4) else u / 2 ^ (8 * (o % 4)) % 2 ^ (8 * size)

/-! ### What a write does -/

/-- The value of an RW register after a write of the bits that `m` names. -/
def merge (old m v : BitVec 64) : BitVec 64 := (old &&& ~~~m) ||| (v &&& m)

/-- A 32-bit register's word after a write in which only the fields of `fields` take their values. -/
def mergeWord (old fields : BitVec 32) (v : BitVec 64) : BitVec 32 := (old &&& ~~~fields) ||| (v.truncate 32 &&& fields)

/-- A field is written only with a value that it accepts. -/
def takeField (old : BitVec 32) (v : BitVec 64) (hi lo : Nat) (ok : Nat → Bool) : BitVec 32 :=
  if ok (bits v hi lo) then BitVec.ofNat 32 (setField old.toNat hi lo (bits v hi lo)) else old

/-- `PLACECFG` (R143), `SFCFG` (R384), `PETMO` (R405) and `OPCFG` (R427) after a write. (DEDUCED, log 69.) -/
def newPlacecfg (old : BitVec 32) (v : BitVec 64) : BitVec 32 :=
  takeField (takeField old v 15 8 fun x => decide (60 ≤ x ∧ x ≤ 110)) v 7 4 fun x => decide (x ≠ 0)
/-- (DEDUCED, log 69.) -/
def newSfcfg (old : BitVec 32) (v : BitVec 64) : BitVec 32 := takeField old v 15 0 fun x => decide (4 ≤ x ∧ x ≤ 1000)
/-- (DEDUCED, log 69.) -/
def newPetmo (old : BitVec 32) (v : BitVec 64) : BitVec 32 := takeField old v 7 0 fun x => decide (x ≠ 0)
/-- (DEDUCED, log 69.) -/
def newOpcfg (old : BitVec 32) (v : BitVec 64) : BitVec 32 :=
  takeField (mergeWord old 0xFF000002 v) v 23 16 fun x => decide (x ≠ 0)

/-- Each byte of a unit of a table is written. -/
def State.writeUnit (s : State) (unit : Nat) (v : BitVec 64) (f : State → Nat → Byte → State) : State :=
  (List.range 4).foldl (fun s i => f s (4 * unit + i) (BitVec.ofNat 8 (bits v (8 * i + 7) (8 * i)))) s

/-- `CTXCTL`: the flag, and the requests that it makes (R148, R149, R152, R154). (DEDUCED, log 60.) -/
def State.writeCtxctl (s : State) (c : Nat) (v m : BitVec 64) : State :=
  let on (i : Nat) : Bool := m.getLsbD i && v.getLsbD i
  let s := if m.getLsbD 0 then s.updCtx c fun x => { x with preemptok := v.getLsbD 0 } else s
  let s := if on 3 then s.resetCtx c else s
  let s := if on 2 then s.restoreCtx c else s
  if on 1 then s.halt c false else s

/-- `PTCMD` (R269). -/
def State.writePtcmd (s : State) (c : Nat) (v : BitVec 64) : State :=
  if (s.ctx c).ptbusy then s
  else
    let op := bits v 1 0
    let s := s.updCtx c fun x => { x with ptop := BitVec.ofNat 2 op }
    if !v.getLsbD 31 then s
    else if op = 1 ∨ op = 2 then s.updCtx c fun x => { x with ptbusy := true }
    else s.updCtx c fun x => { x with ptresult := 6 }

/-- A register of a context that a write sets while no operation of its translation registers is in progress. -/
def State.updIdlePt (s : State) (c : Nat) (f : Ctx → Ctx) : State := if (s.ctx c).ptbusy then s else s.updCtx c f

/-- `MBCTL` (R437). -/
def Health.writeMbctl (h : Health) (v m : BitVec 64) : Health :=
  if h.busy then h
  else
    let v := merge (BitVec.ofNat 64 (h.mbop.toNat * 2 ^ 32 + h.mblen.toNat)) m v
    { h with mbop := BitVec.ofNat 8 (bits v 39 32), mblen := BitVec.ofNat 17 (bits v 16 0)
             busy := v.getLsbD 63, found := none }

/-- A write of the bits that `m` names of a register: all of them, or a half of a 64-bit register (R8, R448). (DEDUCED, log 69.) -/
def State.writeReg (s : State) (r : Reg) (v m : BitVec 64) : State :=
  let all (old : BitVec 64) : BitVec 64 := merge old m v
  let low (c : Nat) (f : Ctx → Ctx) : State := s.updCtx c f
  match r with
  | .placecfg => s.updMc fun h => { h with placecfg := newPlacecfg h.placecfg v }
  | .sfcfg => { s with sfcfg := newSfcfg s.sfcfg v }
  | .wqbase q =>
    if (s.queue q).en then s else s.updQueue q fun x => { x with wqbase := all x.wqbase &&& 0x00FFFFFFFFFFF000 }
  | .wqctl fn q => s.writeWqctl fn q (all (BitVec.ofNat 64 (setField (s.queue q).wqctl.toNat 35 24 (s.ctxField fn (s.queue q)))))
  | .wqwr q => s.writeWidx q (v.truncate 32)
  | .wqstat q =>
    let s := if (v &&& m).getLsbD 2 then s.updQueue q fun x => { x with cdec := false } else s
    if (v &&& m).getLsbD 0 then s.updQueue q Queue.clearErr else s
  | .qfunc u => s.writeUnit u v State.writeQfunc
  | .cfunc u => s.writeUnit u v State.writeCfunc
  | .ctxpt c => low c fun x => { x with ctxpt := all x.ctxpt }
  | .ctxpool c => s.writePool c false (all (s.ctx c).ctxpool)
  | .ctxpoolsz c => s.writePool c true (all (s.ctx c).ctxpoolsz)
  | .ctxsig c => low c fun x => { x with ctxsig := all x.ctxsig }
  | .ctxsign c => low c fun x => { x with ctxsign := all x.ctxsign }
  | .ctxcset c => low c fun x => { x with ctxcset := all x.ctxcset }
  | .ctxlog c => s.writeLog c (all (s.ctx c).ctxlog)
  | .ctxlogn c => s.writeLogn c (all (s.ctx c).ctxlogn)
  | .ctxmap c => low c fun x => { x with ctxmap := all x.ctxmap }
  | .ctxctl c => s.writeCtxctl c v m
  | .ctxstat c => if (v &&& m).getLsbD 8 then low c fun x => { x with rerr := false } else s
  | .pectx c => low c fun x => { x with pectx := all x.pectx &&& 0x1FFFF }
  | .ctxlogrd c => low c fun x => { x with ctxlogrd := v.truncate 32 }
  | .ptva c => s.updIdlePt c fun x => { x with ptva := all x.ptva &&& 0x00FFFFFFFFFF0000 }
  | .ptent c => s.updIdlePt c fun x => { x with ptent := all x.ptent }
  | .ptcmd c => s.writePtcmd c v
  | .pfbase c => low c fun x => { x with pfbase := all x.pfbase }
  | .pfctl c => low c fun x => { x with pfctl := v.truncate 32 &&& 0xFFFF0F01 }
  | .pfrd c => low c fun x => { x with pfrd := v.truncate 32 }
  | .pfreply c => s.writePfreply c (all (s.ctx c).pfreply &&& 0xFFFFFFFF00000001)
  | .aptbase c => low c fun x => { x with aptbase := all x.aptbase &&& 0x00FFFFFFFFFFFF00 }
  | .aptctl c => low c fun x => { x with aptctl := v &&& 0x1FFF }
  | .almstg => { s with cal := { s.cal with stg := v.truncate 32 &&& 0xFF7F7F01 } }
  | .almnext => s.writeAlmnext (merge (BitVec.ofNat 64 s.cal.next.toNat) m v)
  | .almepoch => if s.cal.running then s else { s with cal := { s.cal with epoch := all s.cal.epoch } }
  | .pebud => { s with pe := { s.pe with pebud := all s.pe.pebud } }
  | .peany => { s with pe := { s.pe with peany := all s.pe.peany &&& 0xFFFFFFFFFF } }
  | .pevq => s.writePevq (all (BitVec.ofNat 64 (s.pe.pevqBase.toNat * 4096 + s.pe.pevqLog.toNat)))
  | .petmo => { s with pe := { s.pe with petmo := newPetmo s.pe.petmo v } }
  | .opcfg => { s with pe := { s.pe with opcfg := newOpcfg s.pe.opcfg v } }
  | .staged u => s.writeUnit u v fun s i b => { s with cal := { s.cal with staged := mput s.cal.staged i b } }
  | .portstat p => if (v &&& m).getLsbD 0 then s.updPort p fun x => { x with evt := false } else s
  | .eyesel p => s.updPort p fun x => { x with eyesel := v.truncate 32 &&& 0x3F0F, eyevalid := false }
  | .startclr => (rangeFrom 1 9).foldl (fun s n => if v.getLsbD n then s.setRec n { s.mc.stepRec n with fails := 0 } else s) s
  | .mbctl => s.updMc fun h => h.writeMbctl v m
  | .mbarg => if s.mc.busy then s else s.updMc fun h => { h with mbarg := all h.mbarg &&& 0x80000000FFFFFFFF }
  | .mbbuf u => if s.mc.busy then s
    else s.writeUnit u v fun s i b => s.updMc fun h => { h with mbbuf := mput h.mbbuf i b }
  | .fnres _ | .wqrd _ | .ctxlogwr _ | .pestat _ | .ptstat _ | .pfwr _ | .almcfg | .calstat | .active _ | .feccor _ | .fecunc _
  | .resend _ | .eyeval _ | .lmap _ _ | .dark _ _ | .mcid | .mcfw | .startstat | .stepRec _ | .mbstat | .corestat _ | .diestat _
  | .pwrstat => s

/-- The lower and the upper half of a 64-bit register. -/
def lowHalf : BitVec 64 := 0xFFFFFFFF
def highHalf : BitVec 64 := 0xFFFFFFFF00000000

/-- A write of an aligned 4-byte unit (R448). (DEDUCED, log 69.) -/
def State.writeHalf (s : State) (fn o : Nat) (v : Word) : State :=
  match s.unitAt fn o with
  | none => s
  | some (r, hi) =>
    if !s.responds r then s
    else if hi then s.writeReg r (BitVec.ofNat 64 (v.toNat * 2 ^ 32)) highHalf
    else s.writeReg r (BitVec.ofNat 64 v.toNat) lowHalf

/-- An 8-byte write: of a whole 64-bit register, or of each of two units, the lower first (R448). (DEDUCED, log 69.) -/
def State.writeWhole (s : State) (fn o : Nat) (v : BitVec 64) : State :=
  let halves := (s.writeHalf fn o (v.truncate 32)).writeHalf fn (o + 4) (BitVec.ofNat 32 (bits v 63 32))
  match s.regAt fn o with
  | some r => if r.wide then (if s.responds r then s.writeReg r v (BitVec.allOnes 64) else s) else halves
  | none => halves

/-- REGISTER_WRITE: a write of 4 or 8 naturally aligned bytes of a function's BAR0; any other write is ignored (R448). (DEDUCED, log 69.) -/
def execRegisterWrite (fn offset size : Nat) (value : BitVec 64) (s : State) : Host.Outcome State Fault Refusal :=
  .next (if 16 < fn ∨ 2 ^ 29 ≤ offset then s
    else if size = 4 ∧ offset % 4 = 0 then s.writeHalf fn offset (value.truncate 32)
    else if size = 8 ∧ offset % 8 = 0 then s.writeWhole fn offset value
    else s)

end Sys2Proof.Machine
end

