-- ==== Sys2Proof/Machine/Dispatch.lean ====
section
/-! DEFINITION. The dispatch of each row of the opcode table to its meaning. -/

namespace Sys2Proof.Machine

open Sys2Proof

def exec (i : Instr) (s : State) : Host.Outcome State Fault Refusal :=
  match i with
  | .bra x => Sys2Proof.Machine.execBra x s
  | .call x => Sys2Proof.Machine.execCall x s
  | .trap x => Sys2Proof.Machine.execTrap x s
  | .brx x => Sys2Proof.Machine.execBrx x s
  | .ret x => Sys2Proof.Machine.execRet x s
  | .exit x => Sys2Proof.Machine.execExit x s
  | .exitChain x => Sys2Proof.Machine.execExitChain x s
  | .eret x => Sys2Proof.Machine.execEret x s
  | .brkpt x => Sys2Proof.Machine.execBrkpt x s
  | .nop x => Sys2Proof.Machine.execNop x s
  | .yield x => Sys2Proof.Machine.execYield x s
  | .sleep x => Sys2Proof.Machine.execSleep x s
  | .cvg x => Sys2Proof.Machine.execCvg x s
  | .stage x => Sys2Proof.Machine.execStage x s
  | .rls x => Sys2Proof.Machine.execRls x s
  | .rdsr x => Sys2Proof.Machine.execRdsr x s
  | .wrsr x => Sys2Proof.Machine.execWrsr x s
  | .pand x => Sys2Proof.Machine.execPand x s
  | .por x => Sys2Proof.Machine.execPor x s
  | .pxor x => Sys2Proof.Machine.execPxor x s
  | .pnot x => Sys2Proof.Machine.execPnot x s
  | .pmov x => Sys2Proof.Machine.execPmov x s
  | .pmovToScalar x => Sys2Proof.Machine.execPmovToScalar x s
  | .pmovFromScalar x => Sys2Proof.Machine.execPmovFromScalar x s
  | .sadd x => Sys2Proof.Machine.execSadd x s
  | .ssub x => Sys2Proof.Machine.execSsub x s
  | .smul x => Sys2Proof.Machine.execSmul x s
  | .smulh x => Sys2Proof.Machine.execSmulh x s
  | .sand x => Sys2Proof.Machine.execSand x s
  | .sor x => Sys2Proof.Machine.execSor x s
  | .sxor x => Sys2Proof.Machine.execSxor x s
  | .sshl x => Sys2Proof.Machine.execSshl x s
  | .sshr x => Sys2Proof.Machine.execSshr x s
  | .smin x => Sys2Proof.Machine.execSmin x s
  | .smax x => Sys2Proof.Machine.execSmax x s
  | .smov x => Sys2Proof.Machine.execSmov x s
  | .sffs x => Sys2Proof.Machine.execSffs x s
  | .spopc x => Sys2Proof.Machine.execSpopc x s
  | .scmp x => Sys2Proof.Machine.execScmp x s
  | .smovx x => Sys2Proof.Machine.execSmovx x s
  | .smovxSt x => Sys2Proof.Machine.execSmovxSt x s
  | .sli x => Sys2Proof.Machine.execSli x s
  | .ssel x => Sys2Proof.Machine.execSsel x s
  | .sbfx x => Sys2Proof.Machine.execSbfx x s
  | .vadd x => Sys2Proof.Machine.execVadd x s
  | .vsub x => Sys2Proof.Machine.execVsub x s
  | .vmul x => Sys2Proof.Machine.execVmul x s
  | .vmulh x => Sys2Proof.Machine.execVmulh x s
  | .vmin x => Sys2Proof.Machine.execVmin x s
  | .vmax x => Sys2Proof.Machine.execVmax x s
  | .vabs x => Sys2Proof.Machine.execVabs x s
  | .vneg x => Sys2Proof.Machine.execVneg x s
  | .vand x => Sys2Proof.Machine.execVand x s
  | .vor x => Sys2Proof.Machine.execVor x s
  | .vxor x => Sys2Proof.Machine.execVxor x s
  | .vnot x => Sys2Proof.Machine.execVnot x s
  | .vshl x => Sys2Proof.Machine.execVshl x s
  | .vshr x => Sys2Proof.Machine.execVshr x s
  | .vpopc x => Sys2Proof.Machine.execVpopc x s
  | .vclz x => Sys2Proof.Machine.execVclz x s
  | .vcmp x => Sys2Proof.Machine.execVcmp x s
  | .vmov x => Sys2Proof.Machine.execVmov x s
  | .vmovx x => Sys2Proof.Machine.execVmovx x s
  | .vmovxSt x => Sys2Proof.Machine.execVmovxSt x s
  | .vmad x => Sys2Proof.Machine.execVmad x s
  | .vsel x => Sys2Proof.Machine.execVsel x s
  | .vbfx x => Sys2Proof.Machine.execVbfx x s
  | .vbfi x => Sys2Proof.Machine.execVbfi x s
  | .vfadd x => Sys2Proof.Machine.execVfadd x s
  | .vfsub x => Sys2Proof.Machine.execVfsub x s
  | .vfmul x => Sys2Proof.Machine.execVfmul x s
  | .vfmin x => Sys2Proof.Machine.execVfmin x s
  | .vfmax x => Sys2Proof.Machine.execVfmax x s
  | .vfabs x => Sys2Proof.Machine.execVfabs x s
  | .vfneg x => Sys2Proof.Machine.execVfneg x s
  | .vfcmp x => Sys2Proof.Machine.execVfcmp x s
  | .vfclass x => Sys2Proof.Machine.execVfclass x s
  | .vfrnd x => Sys2Proof.Machine.execVfrnd x s
  | .vffma x => Sys2Proof.Machine.execVffma x s
  | .vffms x => Sys2Proof.Machine.execVffms x s
  | .vffnma x => Sys2Proof.Machine.execVffnma x s
  | .vffnms x => Sys2Proof.Machine.execVffnms x s
  | .vcvt x => Sys2Proof.Machine.execVcvt x s
  | .vpack x => Sys2Proof.Machine.execVpack x s
  | .vpackQ4 x => Sys2Proof.Machine.execVpackQ4 x s
  | .vunpack x => Sys2Proof.Machine.execVunpack x s
  | .vscl x => Sys2Proof.Machine.execVscl x s
  | .lxor x => Sys2Proof.Machine.execLxor x s
  | .lshf x => Sys2Proof.Machine.execLshf x s
  | .lperm x => Sys2Proof.Machine.execLperm x s
  | .lbc x => Sys2Proof.Machine.execLbc x s
  | .lred x => Sys2Proof.Machine.execLred x s
  | .lscan x => Sys2Proof.Machine.execLscan x s
  | .lvote x => Sys2Proof.Machine.execLvote x s
  | .vrcp x => Sys2Proof.Machine.execVrcp x s
  | .vrsq x => Sys2Proof.Machine.execVrsq x s
  | .vsqrt x => Sys2Proof.Machine.execVsqrt x s
  | .vexp2 x => Sys2Proof.Machine.execVexp2 x s
  | .vlog2 x => Sys2Proof.Machine.execVlog2 x s
  | .vsin x => Sys2Proof.Machine.execVsin x s
  | .vcos x => Sys2Proof.Machine.execVcos x s
  | .vtanh x => Sys2Proof.Machine.execVtanh x s
  | .vact x => Sys2Proof.Machine.execVact x s
  | .atld x => Sys2Proof.Machine.execAtld x s
  | .vtopk x => Sys2Proof.Machine.execVtopk x s
  | .vrng x => Sys2Proof.Machine.execVrng x s
  | .mrsv x => Sys2Proof.Machine.execMrsv x s
  | .mrel x => Sys2Proof.Machine.execMrel x s
  | .cvset x => Sys2Proof.Machine.execCvset x s
  | .mzero x => Sys2Proof.Machine.execMzero x s
  | .mma x => Sys2Proof.Machine.execMma x s
  | .mld x => Sys2Proof.Machine.execMld x s
  | .mldV x => Sys2Proof.Machine.execMldV x s
  | .mst x => Sys2Proof.Machine.execMst x s
  | .ld x => Sys2Proof.Machine.execLd x s
  | .st x => Sys2Proof.Machine.execSt x s
  | .ldg x => Sys2Proof.Machine.execLdg x s
  | .sts x => Sys2Proof.Machine.execSts x s
  | .atom x => Sys2Proof.Machine.execAtom x s
  | .red x => Sys2Proof.Machine.execRed x s
  | .pref x => Sys2Proof.Machine.execPref x s
  | .commit x => Sys2Proof.Machine.execCommit x s
  | .commitChk x => Sys2Proof.Machine.execCommitChk x s
  | .abort x => Sys2Proof.Machine.execAbort x s
  | .fence x => Sys2Proof.Machine.execFence x s
  | .trec x => Sys2Proof.Machine.execTrec x s
  | .tset x => Sys2Proof.Machine.execTset x s
  | .tget x => Sys2Proof.Machine.execTget x s
  | .tlook x => Sys2Proof.Machine.execTlook x s
  | .tins x => Sys2Proof.Machine.execTins x s
  | .tdel x => Sys2Proof.Machine.execTdel x s
  | .cpy x => Sys2Proof.Machine.execCpy x s
  | .cpyt x => Sys2Proof.Machine.execCpyt x s
  | .cseal x => Sys2Proof.Machine.execCseal x s
  | .binit x => Sys2Proof.Machine.execBinit x s
  | .barv x => Sys2Proof.Machine.execBarv x s
  | .bexp x => Sys2Proof.Machine.execBexp x s
  | .btest x => Sys2Proof.Machine.execBtest x s
  | .bdrop x => Sys2Proof.Machine.execBdrop x s
  | .bwait x => Sys2Proof.Machine.execBwait x s
  | .matom x => Sys2Proof.Machine.execMatom x s
  | .mred x => Sys2Proof.Machine.execMred x s
  | .qbind x => Sys2Proof.Machine.execQbind x s
  | .qbindInit x => Sys2Proof.Machine.execQbindInit x s
  | .qbindOff x => Sys2Proof.Machine.execQbindOff x s
  | .qstat x => Sys2Proof.Machine.execQstat x s
  | .fmld x => Sys2Proof.Machine.execFmld x s
  | .fperm x => Sys2Proof.Machine.execFperm x s
  | .pwr x => Sys2Proof.Machine.execPwr x s
  | .prd x => Sys2Proof.Machine.execPrd x s
  | .patom x => Sys2Proof.Machine.execPatom x s
  | .psigArv x => Sys2Proof.Machine.execPsigArv x s
  | .psigAdd x => Sys2Proof.Machine.execPsigAdd x s
  | .pperm x => Sys2Proof.Machine.execPperm x s
  | .pqst x => Sys2Proof.Machine.execPqst x s
  | .launch x => Sys2Proof.Machine.execLaunch x s
  | .yieldGrid x => Sys2Proof.Machine.execYieldGrid x s
  | .slotSelect core slot => Sys2Proof.Machine.execSlotSelect core slot s
  | .groupAged core entry => Sys2Proof.Machine.execGroupAged core entry s
  | .fetchFill core slot => Sys2Proof.Machine.execFetchFill core slot s
  | .sleepWake blk wv lane => Sys2Proof.Machine.execSleepWake blk wv lane s
  | .requestAccept core slot => Sys2Proof.Machine.execRequestAccept core slot s
  | .producerResult id err => Sys2Proof.Machine.execProducerResult id err s
  | .reloadDone blk wv name => Sys2Proof.Machine.execReloadDone blk wv name s
  | .commitComplete id => Sys2Proof.Machine.execCommitComplete id s
  | .abortComplete id => Sys2Proof.Machine.execAbortComplete id s
  | .filterWindowClose level unit => Sys2Proof.Machine.execFilterWindowClose level unit s
  | .faultRecordRelease ctx tag => Sys2Proof.Machine.execFaultRecordRelease ctx tag s
  | .pfreplyRetry ctx tag => Sys2Proof.Machine.execPfreplyRetry ctx tag s
  | .pfreplyUnserviceable ctx tag => Sys2Proof.Machine.execPfreplyUnserviceable ctx tag s
  | .ptcmdMap ctx => Sys2Proof.Machine.execPtcmdMap ctx s
  | .ptcmdUnmap ctx => Sys2Proof.Machine.execPtcmdUnmap ctx s
  | .unmapDone ctx => Sys2Proof.Machine.execUnmapDone ctx s
  | .copyLand id piece err => Sys2Proof.Machine.execCopyLand id piece err s
  | .copyComplete id => Sys2Proof.Machine.execCopyComplete id s
  | .batchComplete id => Sys2Proof.Machine.execBatchComplete id s
  | .barrierCredit id => Sys2Proof.Machine.execBarrierCredit id s
  | .barrierArrival id => Sys2Proof.Machine.execBarrierArrival id s
  | .wakeNotice id => Sys2Proof.Machine.execWakeNotice id s
  | .bwaitTimeout blk wv lane => Sys2Proof.Machine.execBwaitTimeout blk wv lane s
  | .clusterStuck cluster => Sys2Proof.Machine.execClusterStuck cluster s
  | .atldInstall blk bank err => Sys2Proof.Machine.execAtldInstall blk bank err s
  | .matrixRequest core bad => Sys2Proof.Machine.execMatrixRequest core bad s
  | .mstComplete id => Sys2Proof.Machine.execMstComplete id s
  | .matrixRelease core => Sys2Proof.Machine.execMatrixRelease core s
  | .msAtomicPerform id => Sys2Proof.Machine.execMsAtomicPerform id s
  | .ringElementLand id => Sys2Proof.Machine.execRingElementLand id s
  | .ringWake id => Sys2Proof.Machine.execRingWake id s
  | .fpermPieceArrive id piece err => Sys2Proof.Machine.execFpermPieceArrive id piece err s
  | .fpermComplete id => Sys2Proof.Machine.execFpermComplete id s
  | .keepWaitingSend id => Sys2Proof.Machine.execKeepWaitingSend id s
  | .keepWaitingReceive id => Sys2Proof.Machine.execKeepWaitingReceive id s
  | .responseTimeout id => Sys2Proof.Machine.execResponseTimeout id s
  | .calendsLock pos time ofs => Sys2Proof.Machine.execCalendsLock pos time ofs s
  | .lockLoss => Sys2Proof.Machine.execLockLoss s
  | .almnextGo value => Sys2Proof.Machine.execAlmnextGo value s
  | .almanacSwitch => Sys2Proof.Machine.execAlmanacSwitch s
  | .slotStart => Sys2Proof.Machine.execSlotStart s
  | .windowOpen port => Sys2Proof.Machine.execWindowOpen port s
  | .flitSend port choice => Sys2Proof.Machine.execFlitSend port choice s
  | .windowClose port => Sys2Proof.Machine.execWindowClose port s
  | .flitReceive port raw gone => Sys2Proof.Machine.execFlitReceive port raw gone s
  | .transitArrive id => Sys2Proof.Machine.execTransitArrive id s
  | .remoteEntryPerform id err => Sys2Proof.Machine.execRemoteEntryPerform id err s
  | .remoteAck peer id => Sys2Proof.Machine.execRemoteAck peer id s
  | .transitCredit peer dest amount => Sys2Proof.Machine.execTransitCredit peer dest amount s
  | .remoteFailure id code pkg => Sys2Proof.Machine.execRemoteFailure id code pkg s
  | .remoteTimeout id => Sys2Proof.Machine.execRemoteTimeout id s
  | .ppermComplete id => Sys2Proof.Machine.execPpermComplete id s
  | .pevqWrite value => Sys2Proof.Machine.execPevqWrite value s
  | .lossOfLight port lane peer => Sys2Proof.Machine.execLossOfLight port lane peer s
  | .lmapProposal port peer lanes => Sys2Proof.Machine.execLmapProposal port peer lanes s
  | .lmapAnswer port peer lanes seq => Sys2Proof.Machine.execLmapAnswer port peer lanes seq s
  | .marginLow port lane peer margin => Sys2Proof.Machine.execMarginLow port lane peer margin s
  | .retrainDone port lane peer margin => Sys2Proof.Machine.execRetrainDone port lane peer margin s
  | .laneLockFail port lane peer => Sys2Proof.Machine.execLaneLockFail port lane peer s
  | .wqwrWrite fn queue value => Sys2Proof.Machine.execWqwrWrite fn queue value s
  | .wqctlWrite fn queue value => Sys2Proof.Machine.execWqctlWrite fn queue value s
  | .wqstatErrClear fn queue => Sys2Proof.Machine.execWqstatErrClear fn queue s
  | .qfuncWrite queue value => Sys2Proof.Machine.execQfuncWrite queue value s
  | .cfuncWrite ctx value => Sys2Proof.Machine.execCfuncWrite ctx value s
  | .packetTake queue => Sys2Proof.Machine.execPacketTake queue s
  | .dependencyPoll launch => Sys2Proof.Machine.execDependencyPoll launch s
  | .clusterPlace launch => Sys2Proof.Machine.execClusterPlace launch s
  | .priorityPreempt launch => Sys2Proof.Machine.execPriorityPreempt launch s
  | .blockRelease blk => Sys2Proof.Machine.execBlockRelease blk s
  | .launchComplete launch => Sys2Proof.Machine.execLaunchComplete launch s
  | .ctxctlPreempt ctx => Sys2Proof.Machine.execCtxctlPreempt ctx s
  | .ctxctlRestore ctx => Sys2Proof.Machine.execCtxctlRestore ctx s
  | .ctxctlReset ctx => Sys2Proof.Machine.execCtxctlReset ctx s
  | .imageSeal ctx => Sys2Proof.Machine.execImageSeal ctx s
  | .restoreDone ctx => Sys2Proof.Machine.execRestoreDone ctx s
  | .resetDone ctx => Sys2Proof.Machine.execResetDone ctx s
  | .ctxpoolWrite ctx size value => Sys2Proof.Machine.execCtxpoolWrite ctx size value s
  | .ctxlogWrite ctx value => Sys2Proof.Machine.execCtxlogWrite ctx value s
  | .ctxlognWrite ctx value => Sys2Proof.Machine.execCtxlognWrite ctx value s
  | .tempSample core temp => Sys2Proof.Machine.execTempSample core temp s
  | .throttleStep die pkgw => Sys2Proof.Machine.execThrottleStep die pkgw s
  | .droopEvent die => Sys2Proof.Machine.execDroopEvent die s
  | .coreFault core => Sys2Proof.Machine.execCoreFault core s
  | .packageReset codes badStacks badDies linkFull pos time => Sys2Proof.Machine.execPackageReset codes badStacks badDies linkFull pos time s
  | .startclrWrite value => Sys2Proof.Machine.execStartclrWrite value s
  | .mbErase flashError => Sys2Proof.Machine.execMbErase flashError s
  | .mbWrite flashError => Sys2Proof.Machine.execMbWrite flashError s
  | .mbKeys => Sys2Proof.Machine.execMbKeys s
  | .mbMeasure => Sys2Proof.Machine.execMbMeasure s
  | .mbOpDone => Sys2Proof.Machine.execMbOpDone s
  | .undervoltage vin => Sys2Proof.Machine.execUndervoltage vin s
  | .powerRestore vin => Sys2Proof.Machine.execPowerRestore vin s
  | .vfFlr vf => Sys2Proof.Machine.execVfFlr vf s
  | .registerWrite fn offset size value => Sys2Proof.Machine.execRegisterWrite fn offset size value s
  | .laserFailure port lane => Sys2Proof.Machine.execLaserFailure port lane s
  | .laneLockLate port lane peer => Sys2Proof.Machine.execLaneLockLate port lane peer s
  | .eyeSample port margin => Sys2Proof.Machine.execEyeSample port margin s

end Sys2Proof.Machine
end

