-- ==== Sys2Proof/Machine/Step.lean ====
section
/-! DEFINITION. One step of the machine: the next move of the agenda, or the acting slot's next instruction (spec/02_encoding.md R45, R70; spec/05_sequencer.md R163, R188). -/

namespace Sys2Proof.Machine

open Sys2Proof

/-- The acting slot issues: fetch, decode and execute (R45, R70); when its fetch block is not in the cache, it is asked for. (DESIGN
CHOICE, log 1.) -/
def State.issueNext (s : State) : Host.Outcome State Fault Refusal :=
  match s.fetch with
  | .idle => .next s.askFill
  | .trap tr w0 => .next (s.trapGroup tr w0)
  | .instr i => exec i s

/-- The machine's next step. Without a move of the agenda, the acting slot issues. A move that is not a step of an engine
or of the outside issues nothing, and a package held in reset takes none but the one that releases it (R445). (DESIGN CHOICE, log 1; DEDUCED, log 70.) -/
def step (s : State) : Host.Outcome State Fault Refusal :=
  match s.agenda with
  | [] => (s.turn s.cur.1 s.cur.2).issueNext
  | m :: rest =>
    let s := State.pass { s with agenda := rest } m.ns m.cycles
    if s.heldFrom m.act then .next s
    else match m.act with
    | .issue c k => (s.turn c k).issueNext
    | .event i => if i.isEvent then exec i s else .next s
    | .hostWrite a bs => .next (s.hostWrite a bs)

/-- The state whose next step issues an instruction whose table bits are `w`, as the table numbers them. (DESIGN CHOICE, log 5.) -/
def State.withFetchWord (s : State) (nbits w : Nat) : State := s.placeWord (tableBytes nbits w)

end Sys2Proof.Machine
end

