-- ==== Sys2Proof/Safety.lean ====
section
/-! DEFINITION. What counts as a safe run, and the terms in which claims say what a step leaves as it was. -/

namespace Sys2Proof.Machine

open Sys2Proof

/-- A step that goes on: no fault and no refusal. -/
def Goes (o : Host.Outcome State Fault Refusal) : Prop := ∃ t, o = .next t

/-- A run of `n` steps that goes on is safe. -/
def SafeFor (n : Nat) (s : State) : Prop := ∃ t, Sys2Proof.core.run n s = .next t

/-- Nothing changes from `s` to `t` but the wave `w`, the issue slot `k` of core `c`, and the waits of the wave's threads
for ring reservations; names whose rows have been freed leave the staging buffers of the core (R223). -/
structure OnlyWave (s t : State) (w : WaveId) (c k : Nat) : Prop where
  rest : t = { s with blocks := t.blocks, cores := t.cores, ringWaits := t.ringWaits }
  block : ∀ b, t.blk b = { s.blk b with waves := (t.blk b).waves }
  wave : ∀ v, v ≠ w → t.wave v = s.wave v
  core : ∀ d, t.core d = { s.core d with slots := (t.core d).slots }
  slot : ∀ d j, (d, j) ≠ (c, k) → t.slot d j = if d = c then (s.slot d j).trim t else s.slot d j
  waits : ∀ q, q.wid ≠ w → (q ∈ t.ringWaits ↔ q ∈ s.ringWaits)

/-- Of the wave of `x`, nothing changes but the contents of its registers, the flags of its `WSTAT` and `FSTAT`, and its threads;
`DONEMASK` and the windows in which its interval began are as the issue leaves them (R177, R98). -/
def KeepsWave (s t : State) (x : Iss) : Prop :=
  t.wave x.wid = { s.wave x.wid with
    scalars := (t.wave x.wid).scalars, vregs := (t.wave x.wid).vregs, wstat := (t.wave x.wid).wstat
    fstat := (t.wave x.wid).fstat, donemask := ((s.advance x).wave x.wid).donemask
    starts := ((s.advance x).wave x.wid).starts, threads := (t.wave x.wid).threads }

/-- Of each thread of the wave, nothing changes but its PC, what it waits for, and the marks of scheduling. -/
def KeepsThreads (s t : State) (w : WaveId) : Prop :=
  ∀ l, t.thread (w.thread l) = { s.thread (w.thread l) with
    pc := (t.thread (w.thread l)).pc, wait := (t.thread (w.thread l)).wait, yielded := (t.thread (w.thread l)).yielded
    since := (t.thread (w.thread l)).since, slot := (t.thread (w.thread l)).slot, ready := (t.thread (w.thread l)).ready
    resume := (t.thread (w.thread l)).resume }

/-- The members of a wave have gone on to the instruction behind the one of `x`, ready. -/
def WentOn (t : State) (x : Iss) : Prop :=
  ∀ l ∈ x.members, (t.thread (x.wid.thread l)).pc = pcPlus x.pc x.len ∧ (t.thread (x.wid.thread l)).wait = .ready

/-- The acting slot holds a run whose group is the members `ms` of one wave `w`, all ready, and no request of it waits. At a
converging instruction the group has converged, and the wave has no load or memory-side atomic outstanding that the
instruction would order (R114). No arrival of the wave is outstanding (R300), and it is not in the deadlock of R173. -/
structure Alone (s : State) (i : Instr) (r : Run) (w : WaveId) (ms : List Nat) : Prop where
  run : (s.slot s.cur.1 s.cur.2).run = some r
  free : (s.slot s.cur.1 s.cur.2).pend = none
  waves : s.groupWaves r.group = [(w, ms)]
  ours : ∀ m ∈ r.group.members, m.wid = w
  still : s.arriving w = false
  conv : i.converges = true → r.group.conv = true ∧ s.orderLoads w = s
  calm : (s.wave w).deadlocked = false

/-- The registers that an instruction reads and writes are ready: nothing to wait for, and nothing to trap on. -/
def Use.Ready (u : Use) (w : Wave) : Prop :=
  (∀ r ∈ u.rds, ∀ c ∈ r.codes, w.scanRead c (u.tie c) = .fine) ∧
  (∀ d, u.dst = some d → ∀ c ∈ d.codes, w.scanWrite c = .fine)

/-- No operand is a queue register. -/
def Use.NoQueue (u : Use) : Prop :=
  (∀ r ∈ u.rds, queueOf r.op = none) ∧ (∀ d, u.dst = some d → queueOf d.op = none)

/-- The rows that the unmapped vector destinations need can be obtained, from no register that the instruction names: `t` is `s` with
them. -/
def Use.Rows (u : Use) (s : State) (w : WaveId) (t : State) : Prop :=
  s.obtainNew w u.dsts = .ok t ∧ ∀ p ∈ u.names, (t.wave w).isSpilled p.2 = false

/-- What every instruction leaves that finishes with results `u` names: outside the wave nothing changes from `s1`, the
state in which its rows have been obtained; of the wave nothing but registers, flags and threads. Memory is as before, and
every register of every other wave has its value. -/
structure Finishes (s s1 t : State) (x : Iss) (c k : Nat) (u : Use) (flags : Nat) : Prop where
  only : OnlyWave s1 t x.wid c k
  mem : ∀ a, t.memByte a = s.memByte a
  others : ∀ v, v ≠ x.wid → t.wave v = { s.wave v with vregs := (t.wave v).vregs } ∧
    ∀ n l, (t.wave v).vlane n l = (s.wave v).vlane n l
  keeps : KeepsWave s t x
  fstat : (t.wave x.wid).fstat = (s.wave x.wid).fstat ||| BitVec.ofNat 32 flags
  wstat : (t.wave x.wid).wstat ||| 2#32 =
    (s.wave x.wid).wstat ||| (if u.readsUnmapped (s.wave x.wid) then 1#32 else 0#32) ||| 2#32

/-- The state in which an instruction executes: its rows obtained, URD set by a read of an UNMAPPED name. -/
def State.prepared (s s1 : State) (x : Iss) (u : Use) : State :=
  (if u.readsUnmapped (s.wave x.wid) then s1.setUrd x.wid else s1).forgetWaits x.wid x.lanes

/-- What the last uses of an instruction leave of a name: without the lanes that have used it (R207). -/
def Use.cleared (u : Use) (lanes : List Nat) (n : Nat) (r : VReg) : VReg :=
  if u.last n then { r with live := r.live &&& ~~~laneMask lanes } else r

/-- The wave's other vector names after an instruction: last uses clear live bits, and a row without live lanes is freed. -/
def KeepsNames (s1 t : State) (x : Iss) (u : Use) (wr : Nat → Prop) : Prop :=
  ∀ m, ¬ wr m → (t.wave x.wid).vreg m = (((s1.wave x.wid).vreg m).map (u.cleared x.lanes m)).filter VReg.stays

/-- The result `res` of each participating lane stands in the `n` vector registers from name `b`; the other lanes of those
registers, the other names but for last uses, and the scalars are as they were. -/
structure WroteLanes (s s1 t : State) (x : Iss) (u : Use) (ty : Ty) (b n : Nat) (res : Nat → Nat) : Prop where
  result : ∀ l ∈ x.lanes, l < 64 → ∀ j < n, (t.wave x.wid).vlane (b + j) l = nth 0 (resultWords ty n (res l)) j
  lanes : (∃ l ∈ x.lanes, l < 64) → ∀ l, l ∉ x.lanes → ∀ j < n,
    (t.wave x.wid).vlane (b + j) l = (s1.wave x.wid).vlane (b + j) l
  names : KeepsNames s1 t x u fun m => b ≤ m ∧ m < b + n
  scalars : (t.wave x.wid).scalars = (s.wave x.wid).scalars

/-- The result `res` stands in the `n` scalar registers from `b`; the other scalars are as they were, and the vector names
but for last uses. -/
structure WroteScalars (s s1 t : State) (x : Iss) (u : Use) (ty : Ty) (b n : Nat) (res : Nat) : Prop where
  scalars : ∀ m, (t.wave x.wid).scalar m =
    if b ≤ m ∧ m < b + n then nth 0 (resultWords ty n res) (m - b) else (s.wave x.wid).scalar m
  names : KeepsNames s1 t x u fun _ => False

/-- No register has changed, but for last uses. -/
structure WroteNone (s s1 t : State) (x : Iss) (u : Use) : Prop where
  scalars : (t.wave x.wid).scalars = (s.wave x.wid).scalars
  names : KeepsNames s1 t x u fun _ => False

/-- Each participating lane's predicate `p` takes the value `f`, unless `p` is 0, and nothing else of the threads changes
but their PCs, what they wait for, and the marks of scheduling. -/
structure SetsPreds (s t : State) (x : Iss) (p : Nat) (f : Nat → Bool) : Prop where
  keeps : ∀ l, t.thread (x.wid.thread l) = { s.thread (x.wid.thread l) with
    pc := (t.thread (x.wid.thread l)).pc, wait := (t.thread (x.wid.thread l)).wait
    yielded := (t.thread (x.wid.thread l)).yielded, since := (t.thread (x.wid.thread l)).since
    slot := (t.thread (x.wid.thread l)).slot, ready := (t.thread (x.wid.thread l)).ready, resume := (t.thread (x.wid.thread l)).resume
    preds := (t.thread (x.wid.thread l)).preds }
  set : ∀ l ∈ x.lanes, 0 < p → p < 16 → (t.thread (x.wid.thread l)).pred p = f l
  other : ∀ l q, (l ∉ x.lanes ∨ q ≠ p ∨ p = 0) →
    (t.thread (x.wid.thread l)).pred q = (s.thread (x.wid.thread l)).pred q

/-- An instruction without register operands: nothing changes but the wave and its slot, and of the wave nothing but
`WSTAT.INTRAP` and its threads; `DONEMASK` and the windows in which its interval began are as the issue leaves them (R177, R98). -/
structure Passes (s t : State) (x : Iss) (c k : Nat) : Prop where
  only : OnlyWave s t x.wid c k
  keeps : t.wave x.wid = { s.wave x.wid with
    wstat := (t.wave x.wid).wstat, donemask := ((s.advance x).wave x.wid).donemask
    starts := ((s.advance x).wave x.wid).starts, threads := (t.wave x.wid).threads }
  wstat : (t.wave x.wid).wstat ||| 2#32 = (s.wave x.wid).wstat ||| 2#32

/-- The trap registers and `FSTAT` are as they were, and `WSTAT` but for URD and INTRAP. -/
structure SameSpecial (a b : Wave) : Prop where
  wstat : b.wstat ||| 3#32 = a.wstat ||| 3#32
  fstat : b.fstat = a.fstat
  faultinfo : b.faultinfo = a.faultinfo
  faultaddr : b.faultaddr = a.faultaddr
  epc : b.epc = a.epc
  trapvec : b.trapvec = a.trapvec

/-- No register. -/
abbrev noReg : Nat → Prop := fun _ => False

/-- What an instruction leaves that writes the scalars of `ws` and predicate `p` of its lanes (none when 0): the other scalars
and predicates, the trap registers and flags, and every register of every other wave. -/
structure Frame (s t : State) (x : Iss) (ws : Nat → Prop) (p : Nat) : Prop where
  scalars : ∀ m, ¬ ws m → (t.wave x.wid).scalar m = (s.wave x.wid).scalar m
  special : SameSpecial (s.wave x.wid) (t.wave x.wid)
  preds : ∀ l q, (l ∉ x.lanes ∨ q ≠ p ∨ p = 0) →
    (t.thread (x.wid.thread l)).pred q = (s.thread (x.wid.thread l)).pred q
  others : ∀ v, v ≠ x.wid → (t.wave v).scalars = (s.wave v).scalars ∧ SameSpecial (s.wave v) (t.wave v) ∧
    (∀ n l, (t.wave v).vlane n l = (s.wave v).vlane n l) ∧
    ∀ l q, (t.thread (v.thread l)).pred q = (s.thread (v.thread l)).pred q

/-- An instruction without register operands that writes predicate `p` (none when 0) leaves every other register. -/
structure KeepsAll (s t : State) (x : Iss) (p : Nat) : Prop where
  frame : Frame s t x noReg p
  vregs : (t.wave x.wid).vregs = (s.wave x.wid).vregs

/-- An instruction with the operands `u` that writes the vector names of `wr`, the scalars of `ws` and predicate `p` leaves
every other register, but for last uses. -/
structure Keeps (s s1 t : State) (x : Iss) (u : Use) (wr ws : Nat → Prop) (p : Nat) : Prop where
  frame : Frame s t x ws p
  names : KeepsNames s1 t x u wr

/-- Each participating thread stands at `target`, each other member behind the instruction, and all are ready. -/
def Jumped (t : State) (x : Iss) (target : Nat → DWord) : Prop :=
  ∀ l ∈ x.members, (t.thread (x.wid.thread l)).wait = .ready ∧
    (t.thread (x.wid.thread l)).pc = if l ∈ x.lanes then target l else pcPlus x.pc x.len

/-- The wave `w` at the instruction `i`, as the acting slot issues it. -/
def State.site (s : State) (i : Instr) (r : Run) (w : WaveId) (ms : List Nat) : Iss :=
  s.issOf i s.cur.1 s.cur.2 r.group w ms

/-- One wave carries out an instruction with the operands `u`: it may issue it, some lane takes part, the registers are
ready, no operand is a queue register, and the rows that destinations need can be obtained. -/
structure Runs (s s1 : State) (i : Instr) (r : Run) (w : WaveId) (ms : List Nat) (u : Use) : Prop where
  alone : Alone s i r w ms
  legal : s.decodeTrap i u.vnames r.group.pc w ms = none
  some : (s.site i r w ms).lanes ≠ []
  ready : u.Ready (s.wave w)
  plain : u.NoQueue
  rows : u.Rows (s.advance (s.site i r w ms)) w s1

end Sys2Proof.Machine
end

