-- ==== Sys2Proof/Certificates/Slice0/Obligations.lean ====
section
/-! DEFINITION. The statements for the provers, with the tables of results in which they are stated. -/

namespace Sys2Proof.Claims

open Sys2Proof Sys2Proof.Machine

/-! ### Tables of results

A row gives an instruction's operands and, of the values of its sources by field (1 A, 2 B, 3 C) and of the predicates of the
lane, its result and its flags in the bits of `FSTAT`. -/

abbrev Row := Use × ((Nat → Nat) → (Nat → Bool) → Nat × Nat)

/-- R195, R197, R198: one scalar result for the wave. -/
def scalarRow : Instr → Option Row
  | .sadd x => some (useS2 x, fun v _ => intResult x.hd.ty (Head.sat x.hd) (x.hd.ty.val (v 1) + x.hd.ty.val (v 2)))
  | .ssub x => some (useS2 x, fun v _ => intResult x.hd.ty (Head.sat x.hd) (x.hd.ty.val (v 1) - x.hd.ty.val (v 2)))
  | .smul x => some (useS2 x, fun v _ => intResult x.hd.ty (Head.sat x.hd) (x.hd.ty.val (v 1) * x.hd.ty.val (v 2)))
  | .smulh x => some (useS2 x, fun v _ =>
      intResult x.hd.ty (Head.sat x.hd) (x.hd.ty.val (v 1) * x.hd.ty.val (v 2) / (2 : Int) ^ x.hd.ty.bits))
  | .sand x => some (useS2 x, fun v _ => (v 1 &&& v 2, 0))
  | .sor x => some (useS2 x, fun v _ => (v 1 ||| v 2, 0))
  | .sxor x => some (useS2 x, fun v _ => (v 1 ^^^ v 2, 0))
  | .sshl x => some (useS2 x, fun v _ => (if v 2 < x.hd.ty.bits then v 1 * 2 ^ v 2 % 2 ^ x.hd.ty.bits else 0, 0))
  | .sshr x => some (useS2 x, fun v _ => (shiftRight x.hd.ty (v 1) (v 2), 0))
  | .smin x => some (useS2 x, fun v _ =>
      intResult x.hd.ty (Head.sat x.hd) (min (x.hd.ty.val (v 1)) (x.hd.ty.val (v 2))))
  | .smax x => some (useS2 x, fun v _ =>
      intResult x.hd.ty (Head.sat x.hd) (max (x.hd.ty.val (v 1)) (x.hd.ty.val (v 2))))
  | .smov x => some (useS1 x, fun v _ => (v 1, 0))
  | .sffs x => some (useS1 x, fun v _ => (firstOne x.hd.ty.bits (v 1), 0))
  | .spopc x => some (useS1 x, fun v _ => (popCount x.hd.ty.bits (v 1), 0))
  | .sli x => some ({ rds := [], dst := some (Dst.sd x.d (if x.hd.md.getLsbD 0 then .b64 else .b32)), k := 0 },
      fun _ _ => (if x.hd.md.getLsbD 0 then truncI (sextN x.k.toNat 32) 64 else x.k.toNat, 0))
  | .ssel x => some (useS3 x, fun v _ => (if v 3 ≠ 0 then v 1 else v 2, 0))
  | .sbfx x => some (useS3 x, fun v _ => (bitExtract x.hd.ty (v 1) (v 2) (v 3), 0))
  | _ => none

/-- R245, R246: a result in each lane. -/
def vectorIntRow : Instr → Option Row
  | .vadd x => some (useV2 x, fun v _ => intResult x.hd.ty (Head.sat x.hd) (x.hd.ty.val (v 1) + x.hd.ty.val (v 2)))
  | .vsub x => some (useV2 x, fun v _ => intResult x.hd.ty (Head.sat x.hd) (x.hd.ty.val (v 1) - x.hd.ty.val (v 2)))
  | .vmul x => some (useV2 x, fun v _ => intResult x.hd.ty (Head.sat x.hd) (x.hd.ty.val (v 1) * x.hd.ty.val (v 2)))
  | .vmulh x => some (useV2 x, fun v _ =>
      intResult x.hd.ty (Head.sat x.hd) (x.hd.ty.val (v 1) * x.hd.ty.val (v 2) / (2 : Int) ^ x.hd.ty.bits))
  | .vmin x => some (useV2 x, fun v _ =>
      intResult x.hd.ty (Head.sat x.hd) (min (x.hd.ty.val (v 1)) (x.hd.ty.val (v 2))))
  | .vmax x => some (useV2 x, fun v _ =>
      intResult x.hd.ty (Head.sat x.hd) (max (x.hd.ty.val (v 1)) (x.hd.ty.val (v 2))))
  | .vabs x => some (useV1 x, fun v _ => intResult x.hd.ty (Head.sat x.hd) (x.hd.ty.val (v 1)).natAbs)
  | .vneg x => some (useV1 x, fun v _ => intResult x.hd.ty (Head.sat x.hd) (-(x.hd.ty.val (v 1))))
  | .vand x => some (useV2 x, fun v _ => (v 1 &&& v 2, 0))
  | .vor x => some (useV2 x, fun v _ => (v 1 ||| v 2, 0))
  | .vxor x => some (useV2 x, fun v _ => (v 1 ^^^ v 2, 0))
  | .vnot x => some (useV1 x, fun v _ => (2 ^ x.hd.ty.bits - 1 - v 1, 0))
  | .vshl x => some (useV2 x, fun v _ => (if v 2 < x.hd.ty.bits then v 1 * 2 ^ v 2 % 2 ^ x.hd.ty.bits else 0, 0))
  | .vshr x => some (useV2 x, fun v _ => (shiftRight x.hd.ty (v 1) (v 2), 0))
  | .vpopc x => some (useV1 x, fun v _ => (popCount x.hd.ty.bits (v 1), 0))
  | .vclz x => some (useV1 x, fun v _ => (x.hd.ty.bits - bitLen (v 1), 0))
  | .vmov x => some (useV1 x, fun v _ => (v 1, 0))
  | .vmad x => some (useV3 x, fun v _ =>
      intResult x.hd.ty (Head.sat x.hd) (x.hd.ty.val (v 1) * x.hd.ty.val (v 2) + x.hd.ty.val (v 3)))
  | .vsel x => some ({ useV3 x with rds := [Rd.vs 1 x.a x.hd.ty, Rd.vs 2 x.b x.hd.ty] },
      fun v p => (if p x.c.code.toNat then v 1 else v 2, 0))
  | .vbfx x => some (useV3 x, fun v _ => (bitExtract x.hd.ty (v 1) (v 2) (v 3), 0))
  | .vbfi x => some ({ useV3 x with rds := [Rd.vs 1 x.a x.hd.ty, Rd.vs 2 x.b x.hd.ty, Rd.vs 3 x.c .b32] },
      fun v _ => (bitInsert x.hd.ty.bits (v 1) (v 2) (v 3), 0))
  | .vrng x => some ({ rds := [Rd.vs 1 x.a .n32, Rd.vs 2 x.b .n32, Rd.vs 3 x.c .n32], dst := some (Dst.vd x.d .n32)
                       k := x.ext.getD 0 }, fun v _ => (vrngHash (v 1) (v 2) (v 3), 0))
  | _ => none

/-- A float operation: an exact value, delivered once, with the flags of the operation and of signalling operands (R247). -/
def deliverOnce (fm : FFmt) (mode : RMode) (xs : List FVal) (y : FVal × Nat) : Nat × Nat :=
  ((fm.deliver y.1 mode false 0).1, y.2 ||| (fm.deliver y.1 mode false 0).2 ||| snanFlag xs)

/-- R248, R249, R251, R252, R253: a float result in each lane. -/
def vectorFloatRow : Instr → Option Row
  | .vfadd x => some (useV2 x, fun v _ => deliverOnce x.hd.ty.ffmt (Head.mode x.hd)
      [x.hd.ty.ffmt.value (v 1), x.hd.ty.ffmt.value (v 2)]
      ((x.hd.ty.ffmt.value (v 1)).add (x.hd.ty.ffmt.value (v 2)) (Head.mode x.hd)))
  | .vfsub x => some (useV2 x, fun v _ => deliverOnce x.hd.ty.ffmt (Head.mode x.hd)
      [x.hd.ty.ffmt.value (v 1), x.hd.ty.ffmt.value (v 2)]
      ((x.hd.ty.ffmt.value (v 1)).add (x.hd.ty.ffmt.value (v 2)).neg (Head.mode x.hd)))
  | .vfmul x => some (useV2 x, fun v _ => deliverOnce x.hd.ty.ffmt (Head.mode x.hd)
      [x.hd.ty.ffmt.value (v 1), x.hd.ty.ffmt.value (v 2)]
      ((x.hd.ty.ffmt.value (v 1)).mul (x.hd.ty.ffmt.value (v 2))))
  | .vfmin x => some (useV2 x, fun v _ => FFmt.minMax x.hd.ty.ffmt false (v 1) (v 2))
  | .vfmax x => some (useV2 x, fun v _ => FFmt.minMax x.hd.ty.ffmt true (v 1) (v 2))
  | .vfabs x => some (useV1 x, fun v _ => (v 1 % 2 ^ (x.hd.ty.bits - 1), 0))
  | .vfneg x => some (useV1 x, fun v _ => (v 1 ^^^ 2 ^ (x.hd.ty.bits - 1), 0))
  | .vfclass x => some ({ useV1 x with dst := some (Dst.vd x.d .n32) }, fun v _ => (FFmt.classOf x.hd.ty.ffmt (v 1), 0))
  | .vfrnd x => some (useV1 x, fun v _ => FFmt.integral x.hd.ty.ffmt (Head.mode x.hd) (v 1))
  | .vffma x => some (useV3 x, fma x false false)
  | .vffms x => some (useV3 x, fma x false true)
  | .vffnma x => some (useV3 x, fma x true false)
  | .vffnms x => some (useV3 x, fma x true true)
  | _ => none
where
  fma (x : FC) (negP negC : Bool) (v : Nat → Nat) (_ : Nat → Bool) : Nat × Nat :=
    let y := (x.hd.ty.ffmt.value (v 1)).fma (x.hd.ty.ffmt.value (v 2)) (x.hd.ty.ffmt.value (v 3)) negP negC (Head.mode x.hd)
    let d := x.hd.ty.ffmt.deliver y.1 (Head.mode x.hd) false 0
    (d.1, y.2 ||| d.2)

/-- R254 to R259, R320: conversions, packing, scaling and the special functions, a result in each lane. -/
def vectorConvertRow : Instr → Option Row
  | .vcvt x => some ({ rds := Rd.vs 1 x.a (Ty.ofCode (x.xmod.extractLsb' 0 4)) ::
                         (if x.hd.md.toNat % 8 = 4 then [Rd.vs 3 x.c .b32] else [])
                       dst := some (Dst.vd x.d x.hd.ty), k := x.ext.getD 0 },
      fun v _ => convert x.hd.ty (Ty.ofCode (x.xmod.extractLsb' 0 4)) (Head.mode x.hd) (x.hd.md.getLsbD 3)
        (v 3 % 65536) (v 1))
  | .vpack x => some ({ rds := [Rd.vs 1 x.a .f32, Rd.vs 2 x.b .f32] ++
                          (if decide (x.hd.ty.bits = 8) || decide (x.hd.md.toNat % 8 = 4) then [Rd.vs 3 x.c .b32] else [])
                        dst := some (Dst.vd x.d .b32), k := x.ext.getD 0 },
      fun v _ => packPair x.hd.ty (Head.mode x.hd) (x.hd.md.getLsbD 3) (v 1) (v 2) (v 3))
  | .vpackQ4 x => some ({ rds := [Rd.range 1 x.a 8 true, Rd.vs 3 x.c .b32], dst := some (Dst.range x.d 2 true)
                          k := x.ext.getD 0 }, fun v _ => packQ4 (x.hd.md.toNat % 4) (v 1) (v 3 % 64))
  | .vunpack x => some ({ rds := [if x.hd.ty = .q4 then Rd.range 1 x.a 2 true else Rd.packed 1 x.a x.hd.ty, Rd.vs 2 x.b .n32]
                          dst := some (Dst.vd x.d .f32), k := x.ext.getD 0 }, fun v _ => unpackOne x.hd.ty (v 1) (v 2))
  | .vscl x => some ({ rds := [Rd.vs 1 x.a x.hd.ty, Rd.vs 2 x.b .s32] ++
                         (if x.hd.md.toNat % 8 = 4 then [Rd.vs 3 x.c .b32] else [])
                       dst := some (Dst.vd x.d x.hd.ty), k := x.ext.getD 0 },
      fun v _ =>
        let a := x.hd.ty.ffmt.value (v 1)
        let d := x.hd.ty.ffmt.deliver (FVal.scale a (sextN (v 2) 32)) (Head.mode x.hd) false (v 3 % 65536)
        (d.1, d.2 ||| snanFlag [a]))
  | .vrcp x => some (useV1 x, fun v _ => Fun1.eval .rcp x.hd.ty.ffmt (Head.mode x.hd) (v 1))
  | .vrsq x => some (useV1 x, fun v _ => Fun1.eval .rsq x.hd.ty.ffmt (Head.mode x.hd) (v 1))
  | .vsqrt x => some (useV1 x, fun v _ => Fun1.eval .sqrt x.hd.ty.ffmt (Head.mode x.hd) (v 1))
  | .vexp2 x => some (useV1 x, fun v _ => Fun1.eval .exp2 x.hd.ty.ffmt (Head.mode x.hd) (v 1))
  | .vlog2 x => some (useV1 x, fun v _ => Fun1.eval .log2 x.hd.ty.ffmt (Head.mode x.hd) (v 1))
  | .vsin x => some (useV1 x, fun v _ => Fun1.eval .sin x.hd.ty.ffmt (Head.mode x.hd) (v 1))
  | .vcos x => some (useV1 x, fun v _ => Fun1.eval .cos x.hd.ty.ffmt (Head.mode x.hd) (v 1))
  | .vtanh x => some (useV1 x, fun v _ => Fun1.eval .tanh x.hd.ty.ffmt (Head.mode x.hd) (v 1))
  | _ => none

/-- The rows with a result in each lane. -/
def vectorRow (i : Instr) : Option Row :=
  match vectorIntRow i with
  | some row => some row
  | none =>
    match vectorFloatRow i with
    | some row => some row
    | none => vectorConvertRow i

/-- R246, R250: a predicate in each lane. -/
def compareRow : Instr → Option (Nat × Use × ((Nat → Nat) → Bool × Nat))
  | .vcmp x => some (x.d.toNat, { useV2 x with dst := none },
      fun v => (intCmp x.hd.md.toNat (x.hd.ty.val (v 1)) (x.hd.ty.val (v 2)), 0))
  | .vfcmp x => some (x.d.toNat, { useV2 x with dst := none },
      fun v => floatCmp x.hd.md.toNat (x.hd.ty.ffmt.value (v 1)) (x.hd.ty.ffmt.value (v 2)))
  | _ => none

/-! ### What a row says of a step -/

/-- The result and the flags of a row in a lane of a wave. -/
def rowAt (s : State) (w : WaveId) (row : Row) (l : Nat) : Nat × Nat :=
  row.2 (fun o => s.value w row.1 [] o l) (s.thread (w.thread l)).pred

/-- The flags that the participating lanes raise together. -/
def rowFlags (s : State) (x : Iss) (row : Row) : Nat := (x.lanes.map fun l => (rowAt s x.wid row l).2).foldl (· ||| ·) 0

/-- One wave carries out a row with a vector destination: each participating lane has its result, the flags are raised, and
nothing else changes. -/
def LaneRow (i : Instr) (row : Row) : Prop :=
  ∀ (s s1 : State) (r : Run) (w : WaveId) (ms : List Nat), Runs s s1 i r w ms row.1 →
    ∀ (d : Dst) (b : Nat), row.1.dst = some d → d.op = .vec b → b + d.n ≤ 768 →
      ∃ t, exec i s = .next t ∧
        Finishes s s1 t (s.site i r w ms) s.cur.1 s.cur.2 row.1 (rowFlags s (s.site i r w ms) row) ∧
        WentOn t (s.site i r w ms) ∧ KeepsThreads s t w ∧
        WroteLanes s s1 t (s.site i r w ms) row.1 d.ty b d.n fun l => (rowAt s w row l).1

end Sys2Proof.Claims

open Sys2Proof Sys2Proof.Machine Sys2Proof.Claims

/-- R195, R197, R198: a scalar instruction writes its result, computed once for the wave, to its scalar destination, raises
`SAT` as the result says, and changes nothing else; it is carried out whenever its registers are ready. -/
def Obligations.ScalarResults : Prop :=
  ∀ (i : Instr) (row : Row), scalarRow i = some row →
    ∀ (s s1 : State) (r : Run) (w : WaveId) (ms : List Nat), Runs s s1 i r w ms row.1 →
      ∀ (d : Dst) (b : Nat), row.1.dst = some d → d.op = .sca b →
        ∃ t, exec i s = .next t ∧
          Finishes s s1 t (s.site i r w ms) s.cur.1 s.cur.2 row.1 (rowAt s w row (nth 0 (s.site i r w ms).lanes 0)).2 ∧
          WentOn t (s.site i r w ms) ∧ KeepsThreads s t w ∧
          WroteScalars s s1 t (s.site i r w ms) row.1 d.ty b d.n (rowAt s w row (nth 0 (s.site i r w ms).lanes 0)).1

/-- R245, R246, R329: the vector integer instructions, and VRNG. -/
def Sys2Proof.Claims.VectorIntegerResults : Prop := ∀ (i : Instr) (row : Row), vectorIntRow i = some row → LaneRow i row

/-- R248, R249, R251, R252, R253: the floating-point instructions. -/
def Sys2Proof.Claims.VectorFloatResults : Prop := ∀ (i : Instr) (row : Row), vectorFloatRow i = some row → LaneRow i row

/-- R254, R255, R256, R258, R259, R320: the conversions, the packing instructions and the special functions. -/
def Sys2Proof.Claims.VectorConvertResults : Prop := ∀ (i : Instr) (row : Row), vectorConvertRow i = some row → LaneRow i row

/-- R245, R246, R248, R249, R251 to R256, R258, R259, R320, R329: every vector instruction with a result in each lane: the integer,
floating-point, conversion, packing and special-function instructions. -/
def Obligations.VectorResults : Prop :=
  Sys2Proof.Claims.VectorIntegerResults ∧ Sys2Proof.Claims.VectorFloatResults ∧ Sys2Proof.Claims.VectorConvertResults

/-- R246, R250: VCMP and VFCMP set their predicate in each participating lane, raise the flags of the comparison, and change
no register. -/
def Sys2Proof.Claims.VectorCompareResults : Prop :=
  ∀ (i : Instr) (p : Nat) (u : Use) (f : (Nat → Nat) → Bool × Nat), compareRow i = some (p, u, f) →
    ∀ (s s1 : State) (r : Run) (w : WaveId) (ms : List Nat), Runs s s1 i r w ms u →
      ∃ t, exec i s = .next t ∧
        Finishes s s1 t (s.site i r w ms) s.cur.1 s.cur.2 u
          (((s.site i r w ms).lanes.map fun l => (f fun o => s.value w u [] o l).2).foldl (· ||| ·) 0) ∧
        WentOn t (s.site i r w ms) ∧ SetsPreds s t (s.site i r w ms) p (fun l => (f fun o => s.value w u [] o l).1) ∧
        WroteNone s s1 t (s.site i r w ms) u

/-- R196, R170: SCMP compares once for the wave and gives every participating lane the same predicate. -/
def Sys2Proof.Claims.ScalarCompareResult : Prop :=
  ∀ (x : FA) (s s1 : State) (r : Run) (w : WaveId) (ms : List Nat),
    let u : Use := { rds := [Rd.ss 1 x.a x.hd.ty, Rd.ss 2 x.b x.hd.ty], dst := none, k := x.ext.getD 0 }
    let l0 := nth 0 (s.site (.scmp x) r w ms).lanes 0
    Runs s s1 (.scmp x) r w ms u →
      ∃ t, exec (.scmp x) s = .next t ∧
        Finishes s s1 t (s.site (.scmp x) r w ms) s.cur.1 s.cur.2 u 0 ∧
        WentOn t (s.site (.scmp x) r w ms) ∧ SetsPreds s t (s.site (.scmp x) r w ms) x.d.toNat
          (fun _ => intCmp x.hd.md.toNat (x.hd.ty.val (s.value w u [] 1 l0)) (x.hd.ty.val (s.value w u [] 2 l0))) ∧
        WroteNone s s1 t (s.site (.scmp x) r w ms) u

/-- R196, R246, R250: the comparisons set their predicate and change no register. -/
def Obligations.CompareResults : Prop :=
  Sys2Proof.Claims.VectorCompareResults ∧ Sys2Proof.Claims.ScalarCompareResult

/-! ### Control, special registers and predicates -/

namespace Sys2Proof.Claims

/-- One wave may issue an instruction that names the vector registers `names`, and some lane takes part. -/
structure Issues (s : State) (i : Instr) (r : Run) (w : WaveId) (ms : List Nat) (names : List (Nat × Nat)) : Prop where
  alone : Alone s i r w ms
  legal : s.decodeTrap i names r.group.pc w ms = none
  some : (s.site i r w ms).lanes ≠ []

/-- The instruction is EXIT.CHAIN. -/
def isChain : Instr → Bool
  | .exitChain _ => true
  | _ => false

/-- The live bits of a name stay when threads of a wave exit: it lies in the chain range of its launch, and they leave by EXIT.CHAIN
(R210). -/
def staysInChain (s : State) (i : Instr) (w : WaveId) (n : Nat) : Bool :=
  isChain i && decide (0 < (s.launchOf w.blk).chn) && (s.launchOf w.blk).inChain n

/-- R194: the predicate of a lane from two of its own. -/
def predRow : Instr → Option (FA × (Bool → Bool → Bool))
  | .pand x => some (x, fun p q => p && q)
  | .por x => some (x, fun p q => p || q)
  | .pxor x => some (x, fun p q => p != q)
  | .pnot x => some (x, fun p _ => !p)
  | .pmov x => some (x, fun p _ => p)
  | _ => none

/-- R181 to R186, R221, R193: what RDSR reads as register `n` of a wave, at 64 bits or at 32. -/
def specialRow (w : Wave) (n : Nat) (wide : Bool) : Nat :=
  let low (x : Nat) : Nat := if wide then x else x % 2 ^ 32
  match n with
  | 0 => w.wstat.toNat
  | 1 => w.fstat.toNat
  | 2 => w.faultinfo.toNat
  | 3 => low w.faultaddr.toNat
  | 4 => w.faultaddr.toNat / 2 ^ 32
  | 5 => low w.donemask.toNat
  | 6 => w.donemask.toNat / 2 ^ 32
  | 7 => low w.epc.toNat
  | 8 => w.epc.toNat / 2 ^ 32
  | 9 => low w.trapvec.toNat
  | 10 => w.trapvec.toNat / 2 ^ 32
  | _ => w.spills % 1024 * 2 ^ 16 + w.rows % 1024

/-- No thread of the wave waits at a converging instruction, so the wave is in no deadlock whoever leaves (R173). -/
def NoneConverging (s : State) (w : WaveId) : Prop := ∀ p ∈ (s.wave w).threads, p.2.wait ≠ .converging

/-- The wave's trap handler can be entered: no member runs it already, the wave is not in it, and it is set (R178). -/
structure CanTrap (s : State) (w : WaveId) (ms : List Nat) : Prop where
  calm : NoneConverging s w
  outside : ∀ l ∈ ms, (s.thread (w.thread l)).handler = false
  idle : (s.wave w).intrap = false
  set : (s.wave w).trapvec ≠ 0

/-- R178, R179, R184: the wave has entered its handler. `EPC` holds `epc`, `FAULTINFO` and `FAULTADDR` the cause, `DONEMASK`
the lanes that completed; `INTRAP` is set; every member is in the handler at `TRAPVEC`. No register changes, but a row without a
live lane may have been freed (R208). -/
structure Trapped (s t : State) (w : WaveId) (ms : List Nat) (epc : DWord) (info : BitVec 32) (addr done : BitVec 64) :
    Prop where
  epc : (t.wave w).epc = epcField epc
  info : (t.wave w).faultinfo = info
  addr : (t.wave w).faultaddr = addr
  done : (t.wave w).donemask = done
  intrap : (t.wave w).wstat = (s.wave w).wstat ||| 2
  handler : ∀ l ∈ ms, (t.thread (w.thread l)).handler = true ∧ (t.thread (w.thread l)).wait = .ready ∧
    (t.thread (w.thread l)).pc = pcOf (s.wave w).trapvec.toNat
  scalars : (t.wave w).scalars = (s.wave w).scalars
  empty : (t.wave w).sEmpty = (s.wave w).sEmpty
  vregs : ∀ m, (t.wave w).vreg m = (s.wave w).vreg m ∨ (t.wave w).vreg m = ((s.wave w).vreg m).filter VReg.stays
  fstat : (t.wave w).fstat = (s.wave w).fstat
  trapvec : (t.wave w).trapvec = (s.wave w).trapvec
  preds : ∀ l q, (t.thread (w.thread l)).pred q = (s.thread (w.thread l)).pred q
  rest : ∀ v, v ≠ w → t.wave v = s.wave v
  mem : t.mem = s.mem

end Sys2Proof.Claims

/-- R191: NOP, and CVG once its group has converged, let every member go on and change nothing else. -/
def Sys2Proof.Claims.NopAndCvg : Prop :=
  ∀ (i : Instr) (s : State) (r : Run) (w : WaveId) (ms : List Nat), ((∃ x, i = .nop x) ∨ ∃ x, i = .cvg x) →
    Issues s i r w ms [] →
      ∃ t, exec i s = .next t ∧ Passes s t (s.site i r w ms) s.cur.1 s.cur.2 ∧ WentOn t (s.site i r w ms) ∧
        KeepsThreads s t w

/-- R191: YIELD marks the participating threads as yielded; the members go on. -/
def Sys2Proof.Claims.YieldMarks : Prop :=
  ∀ (x : FA) (s : State) (r : Run) (w : WaveId) (ms : List Nat), Issues s (.yield x) r w ms [] →
    ∃ t, exec (.yield x) s = .next t ∧ Passes s t (s.site (.yield x) r w ms) s.cur.1 s.cur.2 ∧
      WentOn t (s.site (.yield x) r w ms) ∧ KeepsThreads s t w ∧
      ∀ l ∈ ms, (t.thread (w.thread l)).yielded = decide (l ∈ (s.site (.yield x) r w ms).lanes)

/-- R191: SLEEP lets the participating threads wait for the given number of cycles, at most 2^24, behind the instruction. -/
def Sys2Proof.Claims.SleepWaits : Prop :=
  ∀ (x : FA) (s s1 : State) (r : Run) (w : WaveId) (ms : List Nat),
    let u : Use := { rds := [Rd.ss 1 x.a .n32], dst := none, k := x.ext.getD 0 }
    let y := s.site (.sleep x) r w ms
    let m := min (s.value w u [] 1 (nth 0 y.lanes 0)) (2 ^ 24)
    Runs s s1 (.sleep x) r w ms u →
      ∃ t, exec (.sleep x) s = .next t ∧ Finishes s s1 t y s.cur.1 s.cur.2 u 0 ∧ KeepsThreads s t w ∧ WroteNone s s1 t y u ∧
        ∀ l ∈ ms, (t.thread (w.thread l)).pc = pcPlus r.group.pc y.len ∧
          (t.thread (w.thread l)).wait = if m ≠ 0 ∧ l ∈ y.lanes then .sleep (s.cycle + m) else .ready

/-- R191: NOP, CVG, YIELD and SLEEP. -/
def Obligations.SchedulingInstructions : Prop :=
  Sys2Proof.Claims.NopAndCvg ∧ Sys2Proof.Claims.YieldMarks ∧ Sys2Proof.Claims.SleepWaits

/-- R187: BRA: each participating thread continues at the address of the instruction plus the offset, the others behind it. -/
def Sys2Proof.Claims.BraJumps : Prop :=
  ∀ (x : FK) (s : State) (r : Run) (w : WaveId) (ms : List Nat), Issues s (.bra x) r w ms [] →
    ∃ t, exec (.bra x) s = .next t ∧ Passes s t (s.site (.bra x) r w ms) s.cur.1 s.cur.2 ∧ KeepsThreads s t w ∧
      Jumped t (s.site (.bra x) r w ms) fun _ => pcPlus r.group.pc (sextN x.k.toNat 32)

/-- R187: CALL writes the address behind it to the pair of each participating lane and jumps. -/
def Sys2Proof.Claims.CallJumps : Prop :=
  ∀ (x : FK) (s s1 : State) (r : Run) (w : WaveId) (ms : List Nat) (b : Nat),
    let u : Use := { rds := [], dst := some (Dst.vd x.d .b64), k := 0 }
    let y := s.site (.call x) r w ms
    Runs s s1 (.call x) r w ms u → Operand.ofCode x.d = .vec b → b + 2 ≤ 768 →
      ∃ t, exec (.call x) s = .next t ∧ Finishes s s1 t y s.cur.1 s.cur.2 u 0 ∧ KeepsThreads s t w ∧
        Jumped t y (fun _ => pcPlus r.group.pc (sextN x.k.toNat 32)) ∧
        WroteLanes s s1 t y u .b64 b 2 fun _ => (pcPlus r.group.pc 12).toNat

/-- R188: BRX and RET: each participating thread continues at the value of its pair; a value that cannot be an instruction's
address becomes its PC as it is, and faults at the next fetch. -/
def Sys2Proof.Claims.PairJumps : Prop :=
  ∀ (x : FA) (i : Instr) (s s1 : State) (r : Run) (w : WaveId) (ms : List Nat),
    let u : Use := { rds := [Rd.pair 1 x.a true], dst := none, k := 0 }
    let y := s.site i r w ms
    (i = .brx x ∨ i = .ret x) → Runs s s1 i r w ms u →
      ∃ t, exec i s = .next t ∧ Finishes s s1 t y s.cur.1 s.cur.2 u 0 ∧ KeepsThreads s t w ∧ WroteNone s s1 t y u ∧
        Jumped t y fun l =>
          if s.badTarget (BitVec.ofNat 64 (s.value w u [] 1 l)) = none then pcOf (s.value w u [] 1 l)
          else BitVec.ofNat 64 (s.value w u [] 1 l)

/-- R187, R188: BRA, CALL, BRX and RET. -/
def Obligations.JumpsAndCalls : Prop :=
  Sys2Proof.Claims.BraJumps ∧ Sys2Proof.Claims.CallJumps ∧ Sys2Proof.Claims.PairJumps

/-- R187, R191, R178, R180, R184, R185: TRAP and BRKPT enter the wave's handler: `EPC` is the address behind the instruction,
`FAULTINFO.CAUSE` is 16 or 17 with the lowest participating lane, and `FAULTADDR` is the code of the instruction. -/
def Sys2Proof.Claims.TrapEntry : Prop :=
  ∀ (s : State) (r : Run) (w : WaveId) (ms : List Nat),
    (∀ x : FK, Issues s (.trap x) r w ms [] → CanTrap s w ms →
      ∃ t, exec (.trap x) s = .next t ∧ Trapped s t w ms (pcPlus r.group.pc 12)
        (BitVec.ofNat 32 (16 * 2 ^ 24 + nth 0 (s.site (.trap x) r w ms).lanes 0 % 64 * 2 ^ 8 + 16))
        (BitVec.ofNat 64 x.k.toNat) 0) ∧
    (∀ x : FA, Issues s (.brkpt x) r w ms [] → CanTrap s w ms →
      ∃ t, exec (.brkpt x) s = .next t ∧ Trapped s t w ms (pcPlus r.group.pc (Instr.brkpt x).len)
        (BitVec.ofNat 32 (17 * 2 ^ 24 + nth 0 (s.site (.brkpt x) r w ms).lanes 0 % 64 * 2 ^ 8 + 16))
        (BitVec.ofNat 64 x.a.code.toNat) 0)

/-- R190, R177, R179: ERET: every thread of the wave in the handler leaves it for `EPC`, its next issue excluding the lanes of
`DONEMASK`; `INTRAP` clears. -/
def Sys2Proof.Claims.EretReturns : Prop :=
  ∀ (x : FA) (s : State) (r : Run) (w : WaveId) (ms : List Nat), Issues s (.eret x) r w ms [] →
      ∃ t, exec (.eret x) s = .next t ∧ (t.wave w).intrap = false ∧
        (∀ l ∈ (s.wave w).handlerLanes, (t.thread (w.thread l)).handler = false ∧
          (t.thread (w.thread l)).pc = pcOf (s.wave w).epc.toNat ∧ (t.thread (w.thread l)).resume = true) ∧
        (t.wave w).scalars = (s.wave w).scalars ∧ (t.wave w).vregs = (s.wave w).vregs ∧ (t.wave w).epc = (s.wave w).epc ∧
        (t.wave w).donemask = ((s.advance (s.site (.eret x) r w ms)).wave w).donemask ∧
        t.mem = s.mem ∧ ∀ v, v ≠ w → t.wave v = s.wave v

/-- R178, R179, R187, R190, R191: TRAP and BRKPT enter the handler, and ERET leaves it. -/
def Obligations.TrapsAndReturn : Prop :=
  Sys2Proof.Claims.TrapEntry ∧ Sys2Proof.Claims.EretReturns

/-- R189: EXIT and EXIT.CHAIN of threads that are not the wave's last: they end, and the others of the wave go on. -/
def Sys2Proof.Claims.ThreadsExit : Prop :=
  ∀ (x : FA) (i : Instr) (s : State) (r : Run) (w : WaveId) (ms : List Nat), (i = .exit x ∨ i = .exitChain x) →
    Issues s i r w ms [] → NoneConverging s w → (∃ l ∈ (s.wave w).liveLanes, l ∉ (s.site i r w ms).lanes) →
      ∃ t, exec i s = .next t ∧
        (∀ l ∈ (s.site i r w ms).lanes, (t.thread (w.thread l)).live = false) ∧
        (∀ l, l ∉ (s.site i r w ms).lanes → (t.thread (w.thread l)).live = (s.thread (w.thread l)).live) ∧
        (∀ l ∈ ms, l ∉ (s.site i r w ms).lanes → (t.thread (w.thread l)).pc = pcPlus r.group.pc i.len) ∧
        (t.wave w).scalars = (s.wave w).scalars ∧ OnlyWave s t w s.cur.1 s.cur.2 ∧
        ∀ n, (t.wave w).vreg n = (((s.wave w).vreg n).map fun v =>
          if staysInChain s i w n then v else { v with live := v.live &&& ~~~laneMask (s.site i r w ms).lanes }).filter VReg.stays

/-- R189, R95, R145, R210, R295, R306: EXIT and EXIT.CHAIN of a wave's last live threads, when the commit at block scope finds
room: no thread is left, the run ends, the open batch is sealed, the wave takes part in no object of its block's drop list any more,
and its chain range is handed over by EXIT.CHAIN and freed by EXIT; the block has exited when no wave of it has a live thread. When
the wave takes part in no object, memory is what the commit leaves. -/
def Sys2Proof.Claims.LastExitEndsWave : Prop :=
  ∀ (x : FA) (i : Instr) (s S : State) (r : Run) (w : WaveId) (ms : List Nat), (i = .exit x ∨ i = .exitChain x) →
    Issues s i r w ms [] → (∀ l ∈ (s.wave w).liveLanes, l ∈ (s.site i r w ms).lanes) →
    ((s.advance (s.site i r w ms)).orderLoads w).commit w 1 = some S →
      ∃ t, exec i s = .next t ∧ (t.slot s.cur.1 s.cur.2).run = none ∧
        (∀ l, (t.thread (w.thread l)).live = false) ∧
        (t.wave w).batch = none ∧
        (∀ b y, (S.wave w).batch = some b → mfind S.batches b = some y → mfind t.batches b = some { y with sealed := true }) ∧
        (∀ d ∈ (t.blk w.blk).drops, d.mask.getLsbD w.wv = false) ∧
        ((∀ d ∈ (S.blk w.blk).drops, d.mask.getLsbD w.wv = false) → t.mem = S.mem ∧ t.recs = S.recs) ∧
        (isChain i = true → 0 < (s.launchOf w.blk).chn → w.wv ∈ (t.blk w.blk).chained) ∧
        (∀ n v, (t.wave w).vreg n = some v → staysInChain s i w n = false →
          (∀ l ∈ (s.site i r w ms).lanes, l < 64 → v.live.getLsbD l = false) ∧
          ((s.launchOf w.blk).inChain n = true → v.st = .empty)) ∧
        ((∀ p ∈ (t.blk w.blk).waves, p.2.liveLanes = []) → (t.blk w.blk).exited = true)

/-- R189, R95, R145, R210, R306: EXIT and EXIT.CHAIN, of threads that are not the last of their wave, and of the last. -/
def Obligations.ExitEndsThreads : Prop :=
  Sys2Proof.Claims.ThreadsExit ∧ Sys2Proof.Claims.LastExitEndsWave

/-- R194: PAND, POR, PXOR, PNOT and PMOV between predicates. -/
def Sys2Proof.Claims.PredicateLogic : Prop :=
  ∀ (i : Instr) (x : FA) (f : Bool → Bool → Bool), predRow i = some (x, f) →
    ∀ (s : State) (r : Run) (w : WaveId) (ms : List Nat), Issues s i r w ms [] →
      ∃ t, exec i s = .next t ∧ Passes s t (s.site i r w ms) s.cur.1 s.cur.2 ∧ WentOn t (s.site i r w ms) ∧
        SetsPreds s t (s.site i r w ms) x.d.toNat fun l =>
          f ((s.thread (w.thread l)).pred x.a.code.toNat) ((s.thread (w.thread l)).pred x.b.code.toNat)

/-- R194: PMOV between a predicate and a scalar pair: bit l of the pair is the predicate of lane l, 0 for a lane that does not
take part; and back. -/
def Sys2Proof.Claims.PredicateMoves : Prop :=
  (∀ (x : FA) (s s1 : State) (r : Run) (w : WaveId) (ms : List Nat) (b : Nat),
    let u : Use := { rds := [], dst := some (Dst.sd x.d .b64), k := 0 }
    let y := s.site (.pmovToScalar x) r w ms
    Runs s s1 (.pmovToScalar x) r w ms u → Operand.ofCode x.d = .sca b →
      ∃ t, exec (.pmovToScalar x) s = .next t ∧ Finishes s s1 t y s.cur.1 s.cur.2 u 0 ∧ WentOn t y ∧ KeepsThreads s t w ∧
        WroteScalars s s1 t y u .b64 b 2
          (laneMask (y.lanes.filter fun l => (s.thread (w.thread l)).pred x.a.code.toNat)).toNat) ∧
  (∀ (x : FA) (s s1 : State) (r : Run) (w : WaveId) (ms : List Nat),
    let u : Use := { rds := [Rd.ss 1 x.a .b64], dst := none, k := x.ext.getD 0 }
    let y := s.site (.pmovFromScalar x) r w ms
    Runs s s1 (.pmovFromScalar x) r w ms u →
      ∃ t, exec (.pmovFromScalar x) s = .next t ∧ Finishes s s1 t y s.cur.1 s.cur.2 u 0 ∧ WentOn t y ∧
        SetsPreds s t y x.d.toNat (fun l => (s.value w u [] 1 l).testBit l) ∧ WroteNone s s1 t y u)

/-- R194: the predicate instructions. -/
def Obligations.PredicateResults : Prop :=
  Sys2Proof.Claims.PredicateLogic ∧ Sys2Proof.Claims.PredicateMoves

/-- R193, R181 to R186: RDSR writes the special register that field A numbers to its scalar destination, as it stands at issue
(before a resumed issue clears `DONEMASK`, R177). -/
def Sys2Proof.Claims.RdsrReads : Prop :=
  ∀ (x : FA) (s s1 : State) (r : Run) (w : WaveId) (ms : List Nat) (b : Nat),
    let u : Use := { rds := [], dst := some (Dst.sd x.d x.hd.ty), k := 0 }
    let y := s.site (.rdsr x) r w ms
    Runs s s1 (.rdsr x) r w ms u → Operand.ofCode x.d = .sca b →
      ∃ t, exec (.rdsr x) s = .next t ∧ Finishes s s1 t y s.cur.1 s.cur.2 u 0 ∧ WentOn t y ∧ KeepsThreads s t w ∧
        WroteScalars s s1 t y u x.hd.ty b (Ty.regs x.hd.ty)
          (specialRow (s.wave w) x.a.code.toNat (Ty.is64 x.hd.ty))

/-- R193, R182 to R186: WRSR of each register: a one clears `URD`, bit 2 of `WSTAT` and each flag of `FSTAT`; `DONEMASK`, `EPC`
and `TRAPVEC` take the value, a half or all of it. No other special register changes but by the issue itself. -/
def Sys2Proof.Claims.WrsrWrites : Prop :=
  ∀ (x : FA) (s s1 : State) (r : Run) (w : WaveId) (ms : List Nat),
    let u : Use := { rds := [Rd.ss 2 x.b x.hd.ty], dst := none, k := x.ext.getD 0 }
    let y := s.site (.wrsr x) r w ms
    let v := s.value w u [] 2 (nth 0 y.lanes 0)
    let old := (s.advance y).wave w
    let wst := old.wstat ||| (if u.readsUnmapped (s.wave w) then 1#32 else 0#32)
    let n := x.a.code.toNat
    let part (o : BitVec 64) (hi : Bool) : BitVec 64 := writePart o v (!hi && Ty.is64 x.hd.ty) hi
    Runs s s1 (.wrsr x) r w ms u →
      ∃ t, exec (.wrsr x) s = .next t ∧ OnlyWave s1 t w s.cur.1 s.cur.2 ∧ WentOn t y ∧ KeepsThreads s t w ∧
        WroteNone s s1 t y u ∧
        (t.wave w).fstat = (if n = 1 then old.fstat &&& ~~~(BitVec.ofNat 32 v &&& 0x3F#32) else old.fstat) ∧
        (t.wave w).wstat ||| 2#32 =
          (if n = 0 then wst &&& ~~~(BitVec.ofNat 32 v &&& 5#32) else wst) ||| 2#32 ∧
        (t.wave w).donemask = (if n = 5 then part old.donemask false else if n = 6 then part old.donemask true
          else old.donemask) ∧
        (t.wave w).epc = (if n = 7 then epcField (part old.epc false) else if n = 8 then epcField (part old.epc true)
          else old.epc) ∧
        (t.wave w).trapvec = (if n = 9 then epcField (part old.trapvec false)
          else if n = 10 then epcField (part old.trapvec true) else old.trapvec) ∧
        (t.wave w).faultinfo = old.faultinfo ∧ (t.wave w).faultaddr = old.faultaddr

/-- R181 to R186, R193, R221: RDSR and WRSR of every special register. -/
def Obligations.SpecialRegisters : Prop :=
  Sys2Proof.Claims.RdsrReads ∧ Sys2Proof.Claims.WrsrWrites

/-! ### Indexed registers, lanes, activation and top-k -/

namespace Sys2Proof.Claims

/-- R314: the lane whose value lane l takes, none for its own. -/
def exchangeRow : Instr → Option (FA × List Rd × ((Nat → Nat → Nat) → Nat → Option Nat))
  | .lxor x => some (x, distRd x, fun v l => some (l ^^^ distance x.hd x.b (v 2 l)))
  | .lshf x => some (x, distRd x, fun v l =>
      shiftLane (x.hd.md.getLsbD 0) (x.hd.md.getLsbD 1) l (distance x.hd x.b (v 2 l)))
  | .lperm x => some (x, [Rd.vs 2 x.b .n32], fun v l => some (v 2 l % 64))
  | .lbc x => some (x, [Rd.ss 2 x.b .n32], fun v l => some (v 2 l % 64))
  | _ => none

/-- A slot whose staging buffer holds the wave's rows of some names no more (R223). -/
def unstaged (w : WaveId) (names : List Nat) (k : Slot) : Slot :=
  { k with run := k.run.map fun q => { q with staged := q.staged.filter fun e => !(names.contains e.name && e.waves.contains w) } }

/-- The values of all 64 lanes of source A, `id_` in those that do not take part (R316, R317). -/
def allLanes (s : State) (x : Iss) (u : Use) (id_ : Nat) : List Nat :=
  (List.range 64).map fun l => if l ∈ x.lanes then s.value x.wid u [] 1 l else id_

end Sys2Proof.Claims

/-- R314: LXOR, LSHF, LPERM and LBC: each participating lane takes the value of source A of another lane, or its own. -/
def Obligations.LaneExchanges : Prop :=
  ∀ (i : Instr) (x : FA) (rb : List Rd) (src : (Nat → Nat → Nat) → Nat → Option Nat), exchangeRow i = some (x, rb, src) →
    ∀ (s s1 : State) (r : Run) (w : WaveId) (ms : List Nat) (b : Nat),
      let u : Use := { rds := Rd.vs 1 x.a x.hd.ty :: rb, dst := some (Dst.vd x.d x.hd.ty), k := x.ext.getD 0 }
      let y := s.site i r w ms
      Runs s s1 i r w ms u → Operand.ofCode x.d = .vec b → b + Ty.regs x.hd.ty ≤ 768 →
        ∃ t, exec i s = .next t ∧ Finishes s s1 t y s.cur.1 s.cur.2 u 0 ∧ WentOn t y ∧ KeepsThreads s t w ∧
          WroteLanes s s1 t y u x.hd.ty b (Ty.regs x.hd.ty) fun l =>
            s.value w u [] 1 ((src (s.value w u []) l).getD l)

/-- R315, R316, R317: LRED gives every participating lane the combination of all participating lanes, the halves combined
six times; LSCAN gives lane l that of the lanes up to l, or below l, by steps of distance 1, 2, 4, …. -/
def Obligations.LaneReductions : Prop :=
  ∀ (x : FA) (i : Instr) (s s1 : State) (r : Run) (w : WaveId) (ms : List Nat) (b : Nat),
    let u : Use := useV1 x
    let y := s.site i r w ms
    let op := x.hd.md.toNat % 16
    let id_ := identityOf op x.hd.ty
    let red := reduceList op x.hd.ty 6 (allLanes s y u id_)
    let scan := scanList op x.hd.ty 6 1 (allLanes s y u id_)
    (i = .lred x ∨ i = .lscan x) → Runs s s1 i r w ms u → Operand.ofCode x.d = .vec b → b + Ty.regs x.hd.ty ≤ 768 →
      ∃ t, exec i s = .next t ∧
        Finishes s s1 t y s.cur.1 s.cur.2 u (if i = .lred x then red.2 else scan.2) ∧ WentOn t y ∧ KeepsThreads s t w ∧
        WroteLanes s s1 t y u x.hd.ty b (Ty.regs x.hd.ty) fun l =>
          if i = .lred x then red.1
          else if x.hd.md.getLsbD 4 then (if l = 0 then id_ else nth 0 scan.1 (l - 1)) else nth 0 scan.1 l

/-- R318: LVOTE: any, all and all-or-none of the participating lanes' predicate as a predicate, or their number as a result. -/
def Obligations.LaneVotes : Prop :=
  ∀ (x : FA) (s s1 : State) (r : Run) (w : WaveId) (ms : List Nat),
    let mode := x.hd.md.toNat % 4
    let u : Use := { rds := [], dst := if mode = 3 then some (Dst.vd x.d .n32) else none, k := 0 }
    let y := s.site (.lvote x) r w ms
    let p (l : Nat) : Bool := (s.thread (w.thread l)).pred x.a.code.toNat
    Runs s s1 (.lvote x) r w ms u →
      (mode = 3 → ∀ b, Operand.ofCode x.d = .vec b → b < 768 →
        ∃ t, exec (.lvote x) s = .next t ∧ Finishes s s1 t y s.cur.1 s.cur.2 u 0 ∧ WentOn t y ∧ KeepsThreads s t w ∧
          WroteLanes s s1 t y u .n32 b 1 fun _ => (y.lanes.filter p).length) ∧
      (mode ≠ 3 →
        ∃ t, exec (.lvote x) s = .next t ∧ Finishes s s1 t y s.cur.1 s.cur.2 u 0 ∧ WentOn t y ∧ WroteNone s s1 t y u ∧
          SetsPreds s t y x.d.toNat fun _ =>
            if mode = 0 then y.lanes.any p else if mode = 1 then y.lanes.all p
            else y.lanes.all p || !y.lanes.any p)

/-- R324: VACT evaluates the activation table of its bank in each participating lane; no load of the bank is outstanding. -/
def Obligations.ActivationResults : Prop :=
  ∀ (x : FA) (s s1 : State) (r : Run) (w : WaveId) (ms : List Nat) (b : Nat),
    let u : Use := useV1 x
    let y := s.site (.vact x) r w ms
    let bank := mget Bank.zero (s.blk w.blk).banks (if x.hd.md.getLsbD 3 then 1 else 0)
    let f (l : Nat) := bank.eval x.hd.ty (Head.mode x.hd) (s.value w u [] 1 l)
    Runs s s1 (.vact x) r w ms u → bank.loading = none → Operand.ofCode x.d = .vec b → b + Ty.regs x.hd.ty ≤ 768 →
      ∃ t, exec (.vact x) s = .next t ∧
        Finishes s s1 t y s.cur.1 s.cur.2 u ((y.lanes.map fun l => (f l).2).foldl (· ||| ·) 0) ∧ WentOn t y ∧
        KeepsThreads s t w ∧ WroteLanes s s1 t y u x.hd.ty b (Ty.regs x.hd.ty) fun l => (f l).1

/-- R327, R328: VTOPK inserts the candidate of each participating lane into the lane's lists of scores and of indices, in the
registers from D on; those of them that are UNMAPPED and that some lane writes obtain rows (state `s2`), and the others stay UNMAPPED.
Of a candidate that is no NaN the entries before it keep their values, it stands behind them, and the others move up by one, the last
falling off; a NaN inserts nothing. The registers keep the values of the lanes that write nothing, and nothing else changes. -/
def Obligations.TopkInserts : Prop :=
  ∀ (x : FC) (s s1 : State) (r : Run) (w : WaveId) (ms : List Nat),
    let k := x.hd.md.toNat % 8 + 1
    let u : Use := { rds := [Rd.vs 1 x.a x.hd.ty, Rd.vs 2 x.b .n32, Rd.list x.d (2 * k)], dst := none, k := x.ext.getD 0 }
    let y := s.site (.vtopk x) r w ms
    let list (l : Nat) := (List.range (2 * k)).map fun j => s.value w u [] 0 l / 2 ^ (32 * j) % 2 ^ 32
    let res (l : Nat) := topkLane x.hd.ty k (list l) (s.value w u [] 1 l) (s.value w u [] 2 l)
    let written := (List.range (2 * k)).filter fun j => y.lanes.any fun l => (mfind (res l).1 j).isSome
    ∀ s2, Runs s s1 (.vtopk x) r w ms u → x.d.toNat + 2 * k ≤ 768 →
      (s.prepared s1 y u).obtainNew w (written.map fun j => (0, x.d.toNat + j)) = .ok s2 →
      (∀ p ∈ u.names, (s2.wave w).isSpilled p.2 = false) →
        (∃ t, exec (.vtopk x) s = .next t ∧ WentOn t y ∧ KeepsThreads s t w ∧ (t.wave w).scalars = (s.wave w).scalars ∧
          Finishes s s2 t y s.cur.1 s.cur.2 u ((y.lanes.map fun l => (res l).2).foldl (· ||| ·) 0) ∧
          KeepsNames s2 t y u (fun m => x.d.toNat ≤ m ∧ m < x.d.toNat + 2 * k) ∧
          (∀ l ∈ y.lanes, l < 64 → ∀ j < 2 * k, ∀ v, mfind (res l).1 j = some v →
            (t.wave w).vlane (x.d.toNat + j) l = BitVec.ofNat 32 v) ∧
          (∀ j < 2 * k, j ∉ written → (s.wave w).vreg (x.d.toNat + j) = none → (t.wave w).vreg (x.d.toNat + j) = none) ∧
          ∀ j < 2 * k, ∀ v, (s2.wave w).vreg (x.d.toNat + j) = some v →
            ((∃ l ∈ y.lanes, l < 64 ∧ (mfind (res l).1 j).isSome = true) ∨ (u.cleared y.lanes (x.d.toNat + j) v).stays = true) →
            ∀ l, (l ∉ y.lanes ∨ mfind (res l).1 j = none) →
              (t.wave w).vlane (x.d.toNat + j) l = (s.wave w).vlane (x.d.toNat + j) l) ∧
        ∀ l, let p := ((List.range k).filter fun j =>
                scoreBefore x.hd.ty (nth 0 (list l) j) (nth 0 (list l) (k + j)) (s.value w u [] 1 l) (s.value w u [] 2 l)).length
          let nan := Ty.isFloat x.hd.ty && (fmtF32.value (s.value w u [] 1 l)).isNan
          ∀ j < k,
            mfind (res l).1 j = (if nan = true ∨ j < p then none
              else some (if j = p then s.value w u [] 1 l else nth 0 (list l) (j - 1))) ∧
            mfind (res l).1 (k + j) = (if nan = true ∨ j < p then none
              else some (if j = p then s.value w u [] 2 l else nth 0 (list l) (k + j - 1)))

/-- R227: SMOVX reads and SMOVX.st writes the scalar register whose number is the base plus the index; nothing else changes but for
last uses. -/
def Sys2Proof.Claims.IndexedScalars : Prop :=
  ∀ (x : FA) (s : State) (r : Run) (w : WaveId) (ms : List Nat),
    let k := x.ext.getD 0
    (let u : Use := { rds := [Rd.ss 2 x.b .n32], dst := none, k := k }
     let y := s.site (.smovx x) r w ms
     let n := x.a.code.toNat - 768 + s.value w u [] 2 (nth 0 y.lanes 0)
     let v : Use := { rds := [Rd.indexed 1 (.sca n) x.a false false, Rd.ss 2 x.b .n32], dst := some (Dst.sd x.d .b32), k := k }
     ∀ b, Issues s (.smovx x) r w ms [] → u.Ready (s.wave w) → u.NoQueue → n < 128 → v.Ready (s.wave w) → v.NoQueue →
       Operand.ofCode x.d = .sca b →
         ∃ t, exec (.smovx x) s = .next t ∧ WentOn t y ∧ KeepsThreads s t w ∧ Finishes s s t y s.cur.1 s.cur.2 v 0 ∧
           KeepsNames s t y v noReg ∧ ∀ m, (t.wave w).scalar m = if m = b then (s.wave w).scalar n else (s.wave w).scalar m) ∧
    (let u : Use := { rds := [Rd.ss 1 x.a .b32, Rd.ss 2 x.b .n32], dst := none, k := k }
     let y := s.site (.smovxSt x) r w ms
     let n := x.d.toNat - 768 + s.value w u [] 2 (nth 0 y.lanes 0)
     let v : Use := { rds := [Rd.ss 1 x.a .b32, Rd.ss 2 x.b .n32], dst := some (dstOf (.sca n) .b32 1 false), k := k }
     Issues s (.smovxSt x) r w ms [] → u.Ready (s.wave w) → u.NoQueue → n < 128 → v.Ready (s.wave w) →
       ∃ t, exec (.smovxSt x) s = .next t ∧ WentOn t y ∧ KeepsThreads s t w ∧ Finishes s s t y s.cur.1 s.cur.2 v 0 ∧
         KeepsNames s t y v noReg ∧ ∀ m, (t.wave w).scalar m =
           if m = n then BitVec.ofNat 32 (s.value w u [] 1 (nth 0 y.lanes 0)) else (s.wave w).scalar m)

/-- R226, R205, R211, R217: VMOVX: lane l takes lane l of the register whose name is the base plus the index of the lane, 0 where that is
UNMAPPED; VMOVX.st writes it. The registers written that are UNMAPPED obtain rows first (state `s2`). The other lanes of a register
written keep their values, the other registers theirs but for last uses, and nothing else changes. -/
def Sys2Proof.Claims.IndexedVectors : Prop :=
  ∀ (x : FA) (s s2 : State) (r : Run) (w : WaveId) (ms : List Nat),
    let k := x.ext.getD 0
    (let u : Use := { rds := [Rd.vs 2 x.b .n32], dst := none, k := k }
     let y := s.site (.vmovx x) r w ms
     let n (l : Nat) := x.a.code.toNat + s.value w u [] 2 l
     let v : Use := { rds := ((sortN (y.lanes.map n)).map fun m => Rd.indexed 1 (.vec m) x.a false true) ++ [Rd.vs 2 x.b .n32]
                      dst := some (Dst.vd x.d .b32), k := k }
     ∀ b, Issues s (.vmovx x) r w ms ((0, b) :: (1, x.a.code.toNat) :: u.vnames) → Operand.ofCode x.d = .vec b →
       u.Ready (s.wave w) → u.NoQueue → (∀ l ∈ y.lanes, n l < (s.launchOf w.blk).win ∧ n l < 768) → v.Ready (s.wave w) →
       v.Rows (s.prepared (s.advance y) y u) w s2 →
         ∃ t, exec (.vmovx x) s = .next t ∧ WentOn t y ∧ KeepsThreads s t w ∧ (t.wave w).scalars = (s.wave w).scalars ∧
           Finishes s s2 t y s.cur.1 s.cur.2 v 0 ∧
           KeepsNames s2 t y u (fun m => m = b ∨ (x.a.last = true ∧ ∃ l ∈ y.lanes, n l = m)) ∧
           (∀ m q, m ≠ b → (t.wave w).vreg m = some q → ∀ l, (t.wave w).vlane m l = (s.wave w).vlane m l) ∧
           (∀ l ∈ y.lanes, l < 64 → (t.wave w).vlane b l = (s.wave w).vlane (n l) l) ∧
           ((∃ l ∈ y.lanes, l < 64) → ∀ l, l ∉ y.lanes → (t.wave w).vlane b l = (s.wave w).vlane b l)) ∧
    (let u : Use := { rds := [Rd.vs 1 x.a .b32, Rd.vs 2 x.b .n32], dst := none, k := k }
     let y := s.site (.vmovxSt x) r w ms
     let n (l : Nat) := x.d.toNat + s.value w u [] 2 l
     let v : Use := { u with dst := some { op := .vec x.d.toNat, ty := .b32, n := 1, each := true, codes := sortN (y.lanes.map n) } }
     Issues s (.vmovxSt x) r w ms ((0, x.d.toNat) :: u.vnames) → u.NoQueue →
       (∀ l ∈ y.lanes, n l < (s.launchOf w.blk).win ∧ n l < 768) → v.Ready (s.wave w) →
       v.Rows (s.prepared (s.advance y) y { u with rds := [Rd.vs 2 x.b .n32] }) w s2 →
         ∃ t, exec (.vmovxSt x) s = .next t ∧ WentOn t y ∧ KeepsThreads s t w ∧ (t.wave w).scalars = (s.wave w).scalars ∧
           Finishes s s2 t y s.cur.1 s.cur.2 v 0 ∧ KeepsNames s2 t y u (fun m => ∃ l ∈ y.lanes, n l = m) ∧
           (∀ l ∈ y.lanes, l < 64 → (t.wave w).vlane (n l) l = BitVec.ofNat 32 (s.value w u [] 1 l)) ∧
           ∀ l ∈ y.lanes, l < 64 → ∀ m, ¬ (m ∈ y.lanes ∧ n m = n l) →
             (t.wave w).vlane (n l) m = (s.wave w).vlane (n l) m)

/-- R226, R227: SMOVX and VMOVX, both directions. -/
def Obligations.IndexedMoves : Prop :=
  Sys2Proof.Claims.IndexedScalars ∧ Sys2Proof.Claims.IndexedVectors

/-- R192, R222, R223: STAGE enters the wave's rows of the FULL ones of the names that it selects into the staging buffer of its run,
under the entry of the name or under a new one, in ascending order behind the others. Entries of names that are mapped no more leave
the buffer, and then, past 16 entries, the earliest are dropped. It changes no register. (That an entry keeps its age when its name is
staged again is the model's choice, log 89.) -/
def Sys2Proof.Claims.StageEnters : Prop :=
  ∀ (x : FK) (s : State) (r : Run) (w : WaveId) (ms : List Nat),
    let y := s.site (.stage x) r w ms
    Issues s (.stage x) r w ms ((stageNames x).map fun n => (1, n)) →
      let full := (stageNames x).filter fun n => ((s.wave w).vreg n).any fun v => decide (v.st = .full)
      let old := r.staged.map (·.name)
      let all := old ++ full.filter fun n => !old.contains n
      ∃ t, exec (.stage x) s = .next t ∧ Passes s t y s.cur.1 s.cur.2 ∧ WentOn t y ∧ KeepsThreads s t w ∧
        (x.hd.eor = false → r.count + 1 < Config.runMax → (∀ m ∈ r.group.members, s.isReady m = true) →
          ∃ q, (t.slot s.cur.1 s.cur.2).run = some q ∧ q.count = r.count + 1 ∧ q.group.pc = pcPlus r.group.pc 12) ∧
        ∀ q, (t.slot s.cur.1 s.cur.2).run = some q →
          ∃ L : List Staged, q.staged = (L.filter s.stageLive).drop ((L.filter s.stageLive).length - 16) ∧ L.map (·.name) = all ∧
            ∀ e ∈ L, (e.name ∈ full → w ∈ e.waves) ∧
              (∀ v ∈ e.waves, (v = w ∧ e.name ∈ full) ∨ ∃ o ∈ r.staged, o.name = e.name ∧ v ∈ o.waves) ∧
              (old.Nodup → ∀ o ∈ r.staged, o.name = e.name → ∀ v ∈ o.waves, v ∈ e.waves)

/-- R225, R223: RLS clears the live bits of the participating lanes, or of all lanes, in the registers that it names, and frees those
without a live lane; one with live lanes left keeps its contents and its state. The entries that hold the wave's rows of the names
leave the staging buffers of its core, as do those of names that are mapped no more. No register that it does not name changes. None of them may be EMPTY. -/
def Sys2Proof.Claims.RlsReleases : Prop :=
  ∀ (x : FA) (s : State) (r : Run) (w : WaveId) (ms : List Nat),
    let y := s.site (.rls x) r w ms
    let mask : BitVec 64 := if x.hd.md.getLsbD 0 then BitVec.allOnes 64 else laneMask y.lanes
    let names := rangeFrom x.a.code.toNat x.b.code.toNat
    Issues s (.rls x) r w ms (names.map fun n => (1, n)) → (∀ n ∈ names, (s.wave w).isEmpty n = false) →
      ∃ t, exec (.rls x) s = .next t ∧ WentOn t y ∧ KeepsThreads s t w ∧ (t.wave w).scalars = (s.wave w).scalars ∧
        t = { s with blocks := t.blocks, cores := t.cores } ∧
        (∀ b, t.blk b = { s.blk b with waves := (t.blk b).waves }) ∧ (∀ v, v ≠ w → t.wave v = s.wave v) ∧ KeepsWave s t y ∧
        (t.wave w).fstat = (s.wave w).fstat ∧ (t.wave w).wstat ||| 2#32 = (s.wave w).wstat ||| 2#32 ∧
        (∀ d, t.core d = { s.core d with slots := (t.core d).slots }) ∧
        (∀ d j, (d, j) ≠ s.cur →
          let k := if d = (s.blk w.blk).core then unstaged w names (s.slot d j) else s.slot d j
          t.slot d j = if d = s.cur.1 then k.trim t else k) ∧
        (∀ q, (t.slot s.cur.1 s.cur.2).run = some q → s.cur.1 = (s.blk w.blk).core → ∀ e ∈ q.staged,
          e ∈ r.staged ∧ ¬ (e.name ∈ names ∧ w ∈ e.waves)) ∧
        (∀ m, m ∉ names → (t.wave w).vreg m = (s.wave w).vreg m) ∧
        (∀ m ∈ names, ∀ q, (t.wave w).vreg m = some q → q.live &&& mask = 0 ∧ q.live ≠ 0) ∧
        (∀ m ∈ names, ∀ v, (s.wave w).vreg m = some v → v.live &&& ~~~mask ≠ 0 →
          (t.wave w).vreg m = some { v with live := v.live &&& ~~~mask }) ∧
        (∀ m ∈ names, (s.wave w).vreg m = none → (t.wave w).vreg m = none) ∧
        (∀ m ∈ names, ∀ v, ((s.wave w).vregs.map (·.1)).Nodup → (s.wave w).vreg m = some v → v.live &&& ~~~mask = 0 →
          (t.wave w).vreg m = none)

/-- R192, R222, R225: STAGE and RLS. That a name staged again keeps its age is the model's choice (log 89). -/
def Obligations.StagingAndRelease : Prop :=
  Sys2Proof.Claims.StageEnters ∧ Sys2Proof.Claims.RlsReleases

/-! ### The memory engine -/

namespace Sys2Proof.Claims

/-- Memory of every kind holds in `t` what it holds in `s`: home memory, the records of levels 1 to 3, scratchpads, and each
wave's level 0 and each thread's private memory. -/
structure SameMemory (s t : State) : Prop where
  mem : t.mem = s.mem
  recs : t.recs = s.recs
  scratch : ∀ b, (t.blk b).scratch = (s.blk b).scratch
  lvl0 : ∀ w, (t.wave w).lvl0 = (s.wave w).lvl0
  priv : ∀ u, (t.thread u).priv = (s.thread u).priv

/-- The scalar registers of the wave are unchanged, and the members stand behind the instruction, ready. -/
structure Beyond (s t : State) (x : Iss) : Prop where
  wentOn : WentOn t x
  scalars : (t.wave x.wid).scalars = (s.wave x.wid).scalars

/-- A long-latency producer of kind `kind` is outstanding for the registers from `b`, which are EMPTY: `lanes` says what each
lane's value is, or where it is read (R28, R205). -/
def Produces (t : State) (w : WaveId) (kind : ProdKind) (ty : Ty) (b : Nat) (lanes : Map LaneSrc) : Prop :=
  (∃ id p, mfind t.producers id = some p ∧ p.kind = kind ∧ p.wid = w ∧ p.dest = b ∧ p.n = Ty.regs ty ∧ p.ty = ty ∧
    p.lanes = lanes) ∧
  ∀ c, b ≤ c → c < b + Ty.regs ty → (t.wave w).isEmpty c = true

/-- The results of the lanes stand in the registers from `b`. -/
def Stands (t : State) (w : WaveId) (ty : Ty) (b : Nat) (vals : List (Nat × Nat)) : Prop :=
  ∀ p ∈ vals, p.1 < 64 → ∀ j < Ty.regs ty, (t.wave w).vlane (b + j) p.1 = nth 0 (resultWords ty (Ty.regs ty) p.2) j

/-- The lanes of a load, one after another (R277, R278). -/
def loads (s : State) (w : WaveId) (ty : Ty) (acq : Option Nat) (hint : Nat) (elem : Nat → Elem) (lanes : List Nat) :
    LaneRun (LaneSrc × Bool) := runLanes (fun l s => s.loadLane w ty acq hint l (elem l)) lanes s

/-- What a load leaves when no lane traps: a producer when some lane reads global memory, else the values at once. -/
def Loaded (t : State) (w : WaveId) (ty : Ty) (b : Nat) (run : LaneRun (LaneSrc × Bool)) : Prop :=
  if run.vals.any (fun v => v.2.2) then Produces t w .load ty b (run.vals.map fun v => (v.1, v.2.1))
  else Stands t w ty b (run.vals.map fun v => (v.1, v.2.1.value.getD 0))

/-- The lanes of a store, one after another. -/
def stores (s : State) (w : WaveId) (ty : Ty) (own : Option Nat) (val : Nat → Nat) (elem : Nat → Elem) (lanes : List Nat) :
    LaneRun Unit := runLanes (fun l s => s.storeLane w ty own (val l) l (elem l)) lanes s

/-- The lanes of a core atomic, one after another. -/
def atomics (s : State) (w : WaveId) (m : FM) (sc : Nat) (v : Nat → Nat → Nat) (elem : Nat → Elem) (lanes : List Nat) :
    LaneRun Nat :=
  runLanes (fun l s => s.atomLane w m.hd.ty m.hd.md.toNat sc m.ord (v 2 l) (v 3 l) l (elem l)) lanes s

/-- No access of the lanes finds a conflict on a page with the race attribute, so that none is written to the race log (R123, R124). -/
def Unlogged (q : State) (w : WaveId) (a : Acc) (elem : Nat → Elem) (lanes : List Nat) : Prop :=
  ∀ l ∈ lanes, ∀ ga p, elem l = .at_ ga → q.resolve (w.thread l) ga a = .ok p →
    pageRace p.entry = 0 ∨ q.conflicts w p.loc.sec = none

/-- What a lane of a load gives: 0 out of bounds; with an acquire, the bytes that a lookup from its scope finds, past clean copies;
else bytes of home memory still to be read, or those that a lookup finds (R91, R110, R266, R277). -/
def laneLoad (q : State) (w : WaveId) (ty : Ty) (acq : Option Nat) (hint l : Nat) (e : Elem) : Option LaneSrc :=
  match e with
  | .out => some (.known 0)
  | .fault _ _ => none
  | .at_ ga =>
    match q.resolve (w.thread l) ga .load with
    | .error _ => none
    | .ok p =>
      let at_ := p.loc.span (elemBytes ty)
      match acq with
      | some sc => some (.known (ofBytes (at_.map (q.lookup w (min sc 4) false))))
      | none =>
        if p.loc.isGlob then some (.read at_ (hint == 3))
        else some (.known (ofBytes (at_.map (q.lookup w 0 (!(hint == 3))))))

/-- A wave has acquired at a scope: none of its loads has still to read, and in the clean copies of its core it finds no byte that is
older than home; none of them stands at `.die` or wider (R104, R110, R111). When a load reads, and that a narrower acquire hides old
bytes, are the model's choice (log 28, 29). -/
structure Acquired (t : State) (w : WaveId) (sc : Nat) : Prop where
  ordered : ∀ id p, mfind t.producers id = some p → p.wid = w → ∀ x ∈ p.lanes, x.2.unread = []
  wide : 3 ≤ sc → (t.core (t.blk w.blk).core).cleans = []
  narrow : sc < 3 → ∀ c ∈ (t.core (t.blk w.blk).core).cleans,
    ∀ i < 128, (w, i) ∉ c.skip → mget 0 c.data i = t.memByte (128 * c.line + i)

/-- The state after the acquire of an instruction, if it acquires. -/
def acquired (q : State) (w : WaveId) (acq : Option Nat) : State :=
  match acq with
  | some sc => q.acquire w sc
  | none => q

/-- The lanes of a load in state `q`, which the record's checks leave, have given `run`: the value of each lane, and memory. -/
structure LoadRun (q t : State) (w : WaveId) (ty : Ty) (acq : Option Nat) (hint : Nat) (elem : Nat → Elem) (lanes : List Nat)
    (run : LaneRun (LaneSrc × Bool)) : Prop where
  memory : SameMemory (acquired run.s w acq) t
  acquire : ∀ sc, acq = some sc → Acquired t w sc
  out : ∀ l ∈ lanes, elem l = .out → mfind (run.vals.map fun v => (v.1, v.2.1)) l = some (.known 0)
  values : Unlogged q w .load elem lanes → SameMemory q run.s ∧
    ∀ l ∈ lanes, mfind (run.vals.map fun v => (v.1, v.2.1)) l = laneLoad q w ty acq hint l (elem l)

/-- The interval of a wave has ended in state `C`, and the next began with an empty read signature at the windows current there (R98,
R99). -/
structure IntervalEnds (s C t : State) (w : WaveId) : Prop where
  number : (t.wave w).interval = (s.wave w).interval + 1
  reads : (t.wave w).reads = []
  starts : (t.wave w).starts = C.currentWindows w.blk
  restored : (t.wave w).restoredOpen = false

/-- A commit or an abort at a level from 1 has left nothing in the wave's level 0 and no record of its block below the level. -/
def Emptied (t : State) (w : WaveId) (level : Nat) : Prop :=
  1 ≤ level → (t.wave w).lvl0 = [] ∧ ∀ q ∈ t.recs, q.owner = w.blk → min level 4 ≤ q.level

/-- A commit at a level awaits acknowledgements of remote writes (R93). -/
def AwaitsAcks (S : State) (w : WaveId) (level : Nat) : Prop := level = 5 ∧ S.unacked w.blk ≠ []

/-- A wave's interval after its commit: it has ended in `C`, but while acknowledgements are awaited it goes on, as it was in `S` (R93,
R98). -/
def IntervalAfter (s S C t : State) (w : WaveId) (level : Nat) : Prop :=
  (¬ AwaitsAcks S w level → IntervalEnds s C t w) ∧
  (AwaitsAcks S w level → (t.wave w).interval = (s.wave w).interval ∧ (t.wave w).reads = (S.wave w).reads ∧
    (t.wave w).starts = (S.wave w).starts)

/-- The wave's commit as COMMIT makes it: its loads are ordered, `C` is the committed state, and the participating threads
wait while something moved or an acknowledgement is awaited (R93, R94, R285). -/
def Commits (S C t : State) (x : Iss) (level : Nat) : Prop :=
  if (decide (level ≠ 0) && !(S.movedSecs x.wid (min level 4) anySec).isEmpty) = true ∨
      (level = 5 ∧ S.unacked x.wid.blk ≠ []) then
    ∃ id, (∀ l ∈ x.lanes, (t.thread (x.wid.thread l)).wait = .onCommit id) ∧
      mfind t.commits id = some { wid := x.wid, lanes := x.lanes, abort := false, level := level
                                  awaits := if level = 5 then S.unacked x.wid.blk else [], sent := S.ns, held := false }
  else t.commits = C.commits

end Sys2Proof.Claims

/-- R277, R278, R91, R110: LD and LDG: when the record can be used and no lane traps, a lane's value is 0 out of bounds, and else
the bytes that its lookup finds; a lane that reads global memory makes the instruction a long-latency producer, and a plain one is
read there later; else the values are there at once. Memory does not change but by what an acquire lets happen and by the race log.
(When a plain load reads, and which clean copies and old bytes an acquire keeps from the wave, are the model's choice, log 28, 29.) -/
def Obligations.LoadsComplete : Prop :=
  ∀ (x : FM) (s s1 s2 : State) (r : Run) (w : WaveId) (ms : List Nat) (b rows : Nat),
    let rec_ := s.record w.blk x.tr.toNat
    Operand.ofCode x.d = .vec b → b + Ty.regs x.hd.ty ≤ 768 →
    (let u : Use := { rds := [Rd.vs 1 x.a .n32], dst := some (Dst.vd x.d x.hd.ty), k := 0 }
     let y := s.site (.ld x) r w ms
     let acq := acqScope x.ord (scopeOf x.scope rec_)
     let elem := fun l => elementAt rec_ rows (elemBytes x.hd.ty) (laneIndex (s.value w u []) x.ofs l)
     let run := loads s2 w x.hd.ty acq (hintOf x.hint rec_) elem y.lanes
     Runs s s1 (.ld x) r w ms u → (s.prepared s1 y u).openRecord y x.tr.toNat rec_ x.hd.ty .load = .ok rows s2 →
       run.trap = none →
         ∃ t, exec (.ld x) s = .next t ∧ Loaded t w x.hd.ty b run ∧
           LoadRun s2 t w x.hd.ty acq (hintOf x.hint rec_) elem y.lanes run ∧ (recBmode rec_ ≠ 3 → SameMemory s s2) ∧ WentOn t y ∧
           Keeps s s1 t y u (fun m => b ≤ m ∧ m < b + Ty.regs x.hd.ty) noReg 0) ∧
    (let u : Use := { rds := [Rd.pair 1 x.a true], dst := some (Dst.vd x.d x.hd.ty), k := 0 }
     let y := s.site (.ldg x) r w ms
     let acq := acqScope x.ord (scopeOf x.scope rec_)
     let elem := fun l => Elem.at_ (laneAddr (s.value w u []) x.ofs l)
     let run := loads (s.prepared s1 y u) w x.hd.ty acq (hintOf x.hint rec_) elem y.lanes
     Runs s s1 (.ldg x) r w ms u → badScope x.scope rec_ = false → run.trap = none →
         ∃ t, exec (.ldg x) s = .next t ∧ Loaded t w x.hd.ty b run ∧
           LoadRun (s.prepared s1 y u) t w x.hd.ty acq (hintOf x.hint rec_) elem y.lanes run ∧
           SameMemory s (s.prepared s1 y u) ∧ WentOn t y ∧
           Keeps s s1 t y u (fun m => b ≤ m ∧ m < b + Ty.regs x.hd.ty) noReg 0)

/-- R277, R278, R109: ST and STS: when the record can be used, the release that the write is has been made, and no lane traps,
memory holds what the lanes' stores, in ascending order, give; no register changes. -/
def Obligations.StoresComplete : Prop :=
  ∀ (x : FM) (s s1 s2 s3 : State) (r : Run) (w : WaveId) (ms : List Nat) (rows : Nat),
    let rec_ := s.record w.blk x.tr.toNat
    let own := relScope x.ord (scopeOf x.scope rec_)
    (let u : Use := { rds := [Rd.vs 1 x.a .n32, Rd.vs 2 x.b x.hd.ty], dst := none, k := 0 }
     let y := s.site (.st x) r w ms
     let run := stores s3 w x.hd.ty own (s.value w u [] 2)
       (fun l => elementAt rec_ rows (elemBytes x.hd.ty) (laneIndex (s.value w u []) x.ofs l)) y.lanes
     Runs s s1 (.st x) r w ms u → (s.prepared s1 y u).openRecord y x.tr.toNat rec_ x.hd.ty .store = .ok rows s2 →
       s2.release y (s2.releaseWave y own) = .ok s3 → run.trap = none →
         ∃ t, exec (.st x) s = .next t ∧ SameMemory run.s t ∧ WentOn t y ∧ Keeps s s1 t y u noReg noReg 0) ∧
    (let u : Use := { rds := [Rd.pair 1 x.a true, Rd.vs 2 x.b x.hd.ty], dst := none, k := 0 }
     let y := s.site (.sts x) r w ms
     let run := stores s3 w x.hd.ty own (s.value w u [] 2) (fun l => .at_ (laneAddr (s.value w u []) x.ofs l)) y.lanes
     Runs s s1 (.sts x) r w ms u → badScope x.scope rec_ = false →
       (s.prepared s1 y u).release y ((s.prepared s1 y u).releaseWave y own) = .ok s3 → run.trap = none →
         ∃ t, exec (.sts x) s = .next t ∧ SameMemory run.s t ∧ WentOn t y ∧ Keeps s s1 t y u noReg noReg 0)

/-- The place of a lane's store, none out of bounds. -/
def Sys2Proof.Claims.storePlace (s : State) (u : ThreadId) (e : Elem) : Option Place :=
  match e with
  | .at_ ga => (match s.resolve u ga .store with | .ok p => some p | .error _ => none)
  | _ => none

/-- R88, R91, R277, R278: a plain ST or STS while level 0 has room for the sectors of its lanes: the wave reads every byte
outside the lanes' places as before, and a byte of a lane's place, where no later lane stores over it, as that of the lane's
value. Home memory, the records and the scratchpads are as the record's checks leave them (R267; as they were, for a record
without a count, and where no access is written to the race log). -/
def Obligations.StoresTouchOnly : Prop :=
  ∀ (x : FM) (i : Instr) (u : Use) (elem : Nat → Elem) (s s1 s2 : State) (r : Run) (w : WaveId) (ms : List Nat),
    let y := s.site i r w ms
    let rec_ := s.record w.blk x.tr.toNat
    let n := elemBytes x.hd.ty
    let place (l : Nat) : Option Place := Sys2Proof.Claims.storePlace s2 (w.thread l) (elem l)
    ((i = .st x ∧ u = { rds := [Rd.vs 1 x.a .n32, Rd.vs 2 x.b x.hd.ty], dst := none, k := 0 } ∧
        ∃ rows, (s.prepared s1 y u).openRecord y x.tr.toNat rec_ x.hd.ty .store = .ok rows s2 ∧
          elem = fun l => elementAt rec_ rows n (laneIndex (s.value w u []) x.ofs l)) ∨
      (i = .sts x ∧ u = { rds := [Rd.pair 1 x.a true, Rd.vs 2 x.b x.hd.ty], dst := none, k := 0 } ∧
        s2 = s.prepared s1 y u ∧ badScope x.scope rec_ = false ∧ elem = fun l => .at_ (laneAddr (s.value w u []) x.ofs l))) →
    Runs s s1 i r w ms u → x.ord = 0 → (∀ l ∈ y.lanes, (s.thread (w.thread l)).fence = none) →
    (stores s2 w x.hd.ty none (s.value w u [] 2) elem y.lanes).trap = none →
    (s.wave w).lvl0.length + y.lanes.length ≤ Config.lvl0Max → Sys2Proof.Claims.Unlogged s2 w .store elem y.lanes →
      (i = .sts x ∨ recBmode rec_ ≠ 3 → Sys2Proof.Claims.SameMemory s s2) ∧
      ∃ t, exec i s = .next t ∧ t.mem = s2.mem ∧ t.recs = s2.recs ∧ (∀ b, (t.blk b).scratch = (s2.blk b).scratch) ∧
        (∀ q : Loc, (∀ l ∈ y.lanes, ∀ p, place l = some p → q ∉ p.loc.span n) →
          t.lookup w 0 false q = s2.lookup w 0 false q) ∧
        ∀ l ∈ y.lanes, ∀ p, place l = some p → ∀ j < n,
          (∀ k ∈ y.lanes, l < k → ∀ p', place k = some p' → p.loc.plus j ∉ p'.loc.span n) →
            t.lookup w 0 false (p.loc.plus j) = nth 0 (toBytes n (s.value w u [] 2 l)) j

/-- R280, R116, R117: ATOM and RED: the wave commits the sectors that its lanes name, makes the release, and the lanes' operations
happen one after another, each as one step; ATOM's results are the old values, of a long-latency producer at a scope above `.wav`.
(That the operations happen at issue, and what an acquire keeps from the wave, are the model's choice, log 35, 28, 29.) -/
def Obligations.AtomicsComplete : Prop :=
  ∀ (x : FM) (s s1 s2 s3 s4 : State) (r : Run) (w : WaveId) (ms : List Nat) (b rows : Nat),
    let rec_ := s.record w.blk x.tr.toNat
    let sc := scopeOf x.scope rec_
    let elem := fun (u : Use) l => elementAt rec_ rows (elemBytes x.hd.ty) (laneIndex (s.value w u []) x.ofs l)
    (let u : Use := { rds := atomRds x, dst := some (Dst.vd x.d x.hd.ty), k := 0 }
     let y := s.site (.atom x) r w ms
     let run := atomics s3 w x sc (s.value w u []) (elem u) y.lanes
     Runs s s1 (.atom x) r w ms u → Operand.ofCode x.d = .vec b → b + Ty.regs x.hd.ty ≤ 768 →
       (s.prepared s1 y u).openRecord y x.tr.toNat rec_ x.hd.ty .atomic = .ok rows s2 →
       s2.commitSecs w sc (s2.namedSecs w y.lanes (elem u)) = some s4 →
       s4.release y (s4.releaseWave y (relScope x.ord sc)) = .ok s3 → run.trap = none →
         ∃ t, exec (.atom x) s = .next t ∧ SameMemory (acquired run.s w (acqScope x.ord sc)) t ∧
           (∀ a, acqScope x.ord sc = some a → Acquired t w a) ∧ WentOn t y ∧
           Keeps s s1 t y u (fun m => b ≤ m ∧ m < b + Ty.regs x.hd.ty) noReg 0 ∧
           if sc = 0 then Stands t w x.hd.ty b run.vals
           else Produces t w .atomic x.hd.ty b (run.vals.map fun v => (v.1, .known v.2))) ∧
    (let u : Use := { rds := atomRds x, dst := none, k := 0 }
     let y := s.site (.red x) r w ms
     let run := atomics s3 w x sc (s.value w u []) (elem u) y.lanes
     Runs s s1 (.red x) r w ms u → (s.prepared s1 y u).openRecord y x.tr.toNat rec_ x.hd.ty .atomic = .ok rows s2 →
       s2.commitSecs w sc (s2.namedSecs w y.lanes (elem u)) = some s4 →
       s4.release y (s4.releaseWave y (relScope x.ord sc)) = .ok s3 → run.trap = none →
         ∃ t, exec (.red x) s = .next t ∧ SameMemory (acquired run.s w (acqScope x.ord sc)) t ∧
           (∀ a, acqScope x.ord sc = some a → Acquired t w a) ∧ WentOn t y ∧
           Keeps s s1 t y u noReg noReg 0)

/-- R281: PREF changes no register, no status and no memory; the members go on. The lines that it brings into L1 are copies of home
memory. -/
def Sys2Proof.Claims.PrefChangesNothing : Prop :=
  ∀ (x : FM) (s s1 : State) (r : Run) (w : WaveId) (ms : List Nat),
    let u : Use := { rds := [{ Rd.vs 1 x.a .n32 with tie := false }], dst := none, k := 0 }
    let y := s.site (.pref x) r w ms
    Runs s s1 (.pref x) r w ms u →
      ∃ t, exec (.pref x) s = .next t ∧ WentOn t y ∧ KeepsThreads s t w ∧ WroteNone s s1 t y u ∧ KeepsWave s t y ∧ SameMemory s t ∧
        t = { s with blocks := t.blocks, cores := t.cores, ringWaits := t.ringWaits } ∧
        (∀ b, t.blk b = { s.blk b with waves := (t.blk b).waves }) ∧ (∀ v, v ≠ w → t.wave v = s.wave v) ∧
        (t.wave w).fstat = (s.wave w).fstat ∧ (t.wave w).wstat ||| 2#32 = (s.wave w).wstat ||| 2#32 ∧
        (∀ d, t.core d = { s.core d with slots := (t.core d).slots, cleans := (t.core d).cleans }) ∧
        (∀ d j, (d, j) ≠ s.cur → t.slot d j = if d = s.cur.1 then (s.slot d j).trim t else s.slot d j) ∧
        ∀ d, ∀ c ∈ (t.core d).cleans, c ∈ (s.core d).cleans ∨
          (c.skip = [] ∧ ∀ i < 128, mget 0 c.data i = s.memByte (128 * c.line + i))

/-- R282, R108: TREC loads a record from memory, after its thread's earlier loads of those bytes; TSET writes the selected words of a record from scalars; both clear its status.
TGET reads the selected words, and the status as word 8, into scalars, and clears the status when `MOD[0]` says so. -/
def Sys2Proof.Claims.RecordInstructions : Prop :=
  ∀ (x : FM) (s s1 : State) (r : Run) (w : WaveId) (ms : List Nat),
    (let u : Use := { rds := [Rd.pair 1 x.a false], dst := none, k := 0 }
     let y := s.site (.trec x) r w ms
     let l := nth 0 y.lanes 0
     ∀ s2 p, Runs s s1 (.trec x) r w ms u →
       (s.prepared s1 y u).access w .load 0 32 l (.at_ (laneAddr (s.value w u []) x.ofs l)) = .ok (some p, s2) →
         ∃ t, exec (.trec x) s = .next t ∧
           t.record w.blk x.tr.toNat = BitVec.ofNat 256
             (((s2.settleFor w l s2.nextId (p.loc.span 32)).noteRead w p.loc).plainRead w 0 false (p.loc.span 32)).1 ∧
           mget 0 (t.blk w.blk).recStat x.tr.toNat = 0 ∧ WentOn t y ∧ Keeps s s1 t y u noReg noReg 0) ∧
    (let sel := maskBits 8 x.ofs
     let u : Use := { rds := sel.map fun i =>
                        { opnd := 1, op := .sca (x.a.code.toNat + i - 768), last := x.a.last, tie := x.a.tie, ty := .b32
                          n := 1, each := false }
                      dst := none, k := 0 }
     let y := s.site (.tset x) r w ms
     Runs s s1 (.tset x) r w ms u →
       ∃ t, exec (.tset x) s = .next t ∧ WentOn t y ∧ KeepsThreads s t w ∧ Keeps s s1 t y u noReg noReg 0 ∧ SameMemory s t ∧
         t.record w.blk x.tr.toNat = BitVec.ofNat 256 (sel.foldl (fun q i =>
           setField q (32 * i + 31) (32 * i) ((s.wave w).scalar (x.a.code.toNat + i - 768)).toNat)
           (s.record w.blk x.tr.toNat).toNat) ∧
         mget 0 (t.blk w.blk).recStat x.tr.toNat = 0 ∧
         ∀ q, q ≠ x.tr.toNat → t.record w.blk q = s.record w.blk q) ∧
    (let sel := maskBits 9 x.ofs
     let u : Use := { rds := [], k := 0, dst := some { op := Operand.ofCode x.d, ty := .b32, n := 1, each := false
                                                       codes := sel.map (x.d.toNat + ·) } }
     let y := s.site (.tget x) r w ms
     Runs s s1 (.tget x) r w ms u → 768 ≤ x.d.toNat →
       ∃ t, exec (.tget x) s = .next t ∧ WentOn t y ∧ KeepsThreads s t w ∧ SameMemory s t ∧
         Keeps s s1 t y u noReg (fun m => ∃ i ∈ sel, m = x.d.toNat + i - 768) 0 ∧
         (∀ i ∈ sel, (t.wave w).scalar (x.d.toNat + i - 768) =
           if i < 8 then BitVec.ofNat 32 (bits (s.record w.blk x.tr.toNat) (32 * i + 31) (32 * i))
           else BitVec.ofNat 32 (mget 0 (s.blk w.blk).recStat x.tr.toNat).toNat) ∧
         (∀ q, t.record w.blk q = s.record w.blk q) ∧
         mget 0 (t.blk w.blk).recStat x.tr.toNat =
           if 8 ∈ sel ∧ x.hd.md.getLsbD 0 = true then 0 else mget 0 (s.blk w.blk).recStat x.tr.toNat)

/-- R281, R282: PREF, TREC, TSET and TGET. When TREC's reads are taken is the model's choice (log 28). -/
def Obligations.PrefetchAndRecords : Prop :=
  Sys2Proof.Claims.PrefChangesNothing ∧ Sys2Proof.Claims.RecordInstructions

/-- R283, R284: TLOOK, TINS and TDEL: the lanes act on the block's tag table one after another, and each has its answer. -/
def Sys2Proof.Claims.TagActs : Prop :=
  ∀ (x : FA) (i : Instr) (fn : Nat) (rb : List Rd) (s s1 : State) (r : Run) (w : WaveId) (ms : List Nat) (b : Nat),
    let u : Use := { rds := Rd.vs 1 x.a .b32 :: rb, dst := some (Dst.vd x.d .b32), k := x.ext.getD 0 }
    let y := s.site i r w ms
    let res := (s.prepared s1 y u).tagWave w.blk fn (s.value w u [] 1) (s.value w u [] 2) y.lanes
    ((i = .tlook x ∧ fn = 0 ∧ rb = []) ∨ (i = .tins x ∧ fn = 1 ∧ rb = [Rd.vs 2 x.b .b32]) ∨
      (i = .tdel x ∧ fn = 2 ∧ rb = [])) →
    Runs s s1 i r w ms u → Operand.ofCode x.d = .vec b → b + 1 ≤ 768 →
      ∃ t, exec i s = .next t ∧ WentOn t y ∧ KeepsThreads s t w ∧ SameMemory s t ∧ Keeps s s1 t y u (fun m => m = b) noReg 0 ∧
        (t.blk w.blk).tags = (res.2.blk w.blk).tags ∧
        ∀ p ∈ res.1, p.1 < 64 → (t.wave w).vlane b p.1 = BitVec.ofNat 32 p.2

/-- R284 in terms of the ways of a set, each valid way in one place of the order of use, most recent first: what a lane's action
answers and leaves, of ways that are distinct and hold distinct tags. A lane acts on the set of its tag, and the next lane on what it
leaves. -/
def Sys2Proof.Claims.TagWays : Prop :=
  (∀ (set t b : Nat) (ws : List TagWay), (ws.map (·.way)).Nodup → (ws.map (·.tag)).Nodup → (∀ x ∈ ws, x.way < 4) →
    (∀ x ∈ ws, x.tag = t →
      tagAction 0 set t b ws = (4 * set + x.way, x :: ws.filter fun y => decide (y.way ≠ x.way)) ∧
      tagAction 2 set t b ws = (4 * set + x.way, ws.filter fun y => decide (y.way ≠ x.way))) ∧
    ((∀ x ∈ ws, x.tag ≠ t) →
      tagAction 2 set t b ws = (0xFFFFFFFF, ws) ∧ (tagAction 0 set t b ws).2 = ws ∧
      (∀ i < 4, (∀ x ∈ ws, x.way ≠ i) → (∀ j < i, ∃ x ∈ ws, x.way = j) →
        (tagAction 0 set t b ws).1 = 0x80000000 + 4 * set + i) ∧
      (∀ x, ws.length = 4 → ws.getLast? = some x → (tagAction 0 set t b ws).1 = 0x80000000 + 4 * set + x.way)) ∧
    (∀ x ∈ ws, x.way = b % 4 → (tagAction 1 set t b ws).1 = x.tag) ∧
    ((∀ x ∈ ws, x.way ≠ b % 4) → (tagAction 1 set t b ws).1 = 0x80000000) ∧
    (tagAction 1 set t b ws).2 = { way := b % 4, tag := t } :: ws.filter fun y => decide (y.tag ≠ t ∧ y.way ≠ b % 4)) ∧
  ∀ (q : State) (blk fn : Nat) (a v : Nat → Nat) (l : Nat) (ls : List Nat),
    let t := a l % 2 ^ 31
    let r := tagAction fn (t % 64) t (v l) (mget [] (q.blk blk).tags (t % 64))
    (q.tagWave blk fn a v (l :: ls)).1 =
      (l, r.1) :: ((q.updBlk blk fun y => { y with tags := mput y.tags (t % 64) r.2 }).tagWave blk fn a v ls).1

/-- R283, R284: TLOOK, TINS and TDEL. -/
def Obligations.TagTable : Prop :=
  Sys2Proof.Claims.TagActs ∧ Sys2Proof.Claims.TagWays

/-- R285, R93, R94, R98: COMMIT: the wave's loads are ordered, its sectors and the lower records of its block move to the level, its
interval ends, unless acknowledgements of remote writes are awaited, and its participating threads wait until the commit is complete,
if there is anything to wait for. (That the data moves, and an interval that awaits nothing ends, at issue is the model's choice,
log 73.) -/
def Sys2Proof.Claims.CommitMoves : Prop :=
  ∀ (x : FA) (s C : State) (r : Run) (w : WaveId) (ms : List Nat),
    let y := s.site (.commit x) r w ms
    let S := (s.advance y).orderLoads w
    Issues s (.commit x) r w ms [] → S.commitMoves w x.hd.md.toNat = some C →
      ∃ t, exec (.commit x) s = .next t ∧ KeepsAll s t y 0 ∧ SameMemory C t ∧ Commits S C t y x.hd.md.toNat ∧
        IntervalAfter s S C t w x.hd.md.toNat ∧ Emptied t w x.hd.md.toNat

/-- R101, R285, R98: COMMIT.chk: with a change that its filters report, the predicate of each participating thread is 0, nothing
is committed and the interval goes on; else it is 1, and the wave commits as by COMMIT. (That the data moves, and an interval that awaits
nothing ends, at issue is the model's choice, log 73.) -/
def Sys2Proof.Claims.CommitChecks : Prop :=
  ∀ (x : FA) (s C : State) (r : Run) (w : WaveId) (ms : List Nat),
    let y := s.site (.commitChk x) r w ms
    let level := x.hd.md.toNat % 8
    let S := (s.advance y).orderLoads w
    Issues s (.commitChk x) r w ms [] → x.d.toNat < 16 →
      ((s.advance y).checkPasses w level = true → S.commitMoves w level = some C →
        ∃ t, exec (.commitChk x) s = .next t ∧ KeepsAll s t y x.d.toNat ∧ SameMemory C t ∧ Commits S C t y level ∧
          IntervalAfter s S C t w level ∧ Emptied t w level ∧ ∀ l ∈ y.lanes, (t.thread (w.thread l)).pred x.d.toNat = true) ∧
      ((s.advance y).checkPasses w level = false → 0 < x.d.toNat →
        ∃ t, exec (.commitChk x) s = .next t ∧ KeepsAll s t y x.d.toNat ∧ SameMemory S t ∧
          (t.wave w).interval = (s.wave w).interval ∧ (t.wave w).reads = (s.wave w).reads ∧
          ∀ l ∈ y.lanes, (t.thread (w.thread l)).pred x.d.toNat = false)

/-- R93, R94, R98, R101, R285: COMMIT and COMMIT.chk. That all data moves at issue is the model's choice (log 73). -/
def Obligations.CommitsComplete : Prop :=
  Sys2Proof.Claims.CommitMoves ∧ Sys2Proof.Claims.CommitChecks

/-- R102, R103, R285, R98, R99: ABORT: the wave's loads are ordered, the sectors of the levels are dropped, its interval ends, and the
participating threads wait until the abort is complete. A deep one does so with each wave of the block that has issued an instruction,
and drops its level 0. (That all this happens at issue is the model's choice, log 73.) -/
def Sys2Proof.Claims.AbortDrops : Prop :=
  ∀ (x : FA) (s : State) (r : Run) (w : WaveId) (ms : List Nat),
    let y := s.site (.abort x) r w ms
    let level := x.hd.md.toNat % 8
    let deep := x.hd.md.getLsbD 3
    let S := if deep then ((s.advance y).blk w.blk).waves.foldl (fun q v => q.orderLoads { blk := w.blk, wv := v.1 }) (s.advance y)
      else (s.advance y).orderLoads w
    let A := S.abort w level deep
    Issues s (.abort x) r w ms [] →
      ∃ t id, exec (.abort x) s = .next t ∧ KeepsAll s t y 0 ∧ SameMemory A t ∧
        (∀ l ∈ y.lanes, (t.thread (w.thread l)).wait = .onCommit id) ∧
        mfind t.commits id = some { wid := w, lanes := y.lanes, abort := true, level := level, awaits := [], sent := s.ns, held := false } ∧
        IntervalEnds s A t w ∧ (t.wave w).lvl0 = [] ∧ (∀ q ∈ t.recs, q.owner = w.blk → level ≤ q.level) ∧
        (deep = true → ((s.blk w.blk).waves.map (·.1)).Nodup → ∀ v ∈ (s.blk w.blk).waves.map (·.1),
          let q : WaveId := { w with wv := v }
          (v = w.wv ∨ (s.wave q).starts ≠ [] → IntervalEnds s A t q ∧ (t.wave q).lvl0 = []) ∧
          (v ≠ w.wv → (s.wave q).starts = [] → (t.wave q).interval = (s.wave q).interval ∧ (t.wave q).starts = [])) ∧
        (deep = false → ∀ v, v ≠ w → (t.wave v).lvl0 = (s.wave v).lvl0 ∧ (t.wave v).interval = (s.wave v).interval)

/-- R113, R285: a release FENCE commits as COMMIT does and marks the participating threads: the next write of each is a release
at the scope, or a wider one that was marked before. An acquire FENCE orders the wave's loads, and the wave finds in clean copies no byte
older than home any more; nothing else of memory changes. (That the data moves, and an interval that awaits nothing ends, at issue is
the model's choice, log 73, as is what an acquire keeps from the wave, log 28, 29.) -/
def Sys2Proof.Claims.FenceOrders : Prop :=
  ∀ (x : FA) (s C : State) (r : Run) (w : WaveId) (ms : List Nat),
    let y := s.site (.fence x) r w ms
    let sc := x.hd.md.toNat % 8
    let S := (s.advance y).orderLoads w
    Issues s (.fence x) r w ms [] →
      (x.hd.md.getLsbD 4 = true → S.commitMoves w sc = some C →
        ∃ t, exec (.fence x) s = .next t ∧ KeepsAll s t y 0 ∧
          SameMemory (if x.hd.md.getLsbD 3 then C.acquire w sc else C) t ∧ Commits S C t y sc ∧ IntervalAfter s S C t w sc ∧
          Emptied t w sc ∧ (x.hd.md.getLsbD 3 = true → Acquired t w sc) ∧
          ∀ l ∈ y.lanes, (t.thread (w.thread l)).fence = some (max sc ((s.thread (w.thread l)).fence.getD 0))) ∧
      (x.hd.md.getLsbD 4 = false → x.hd.md.getLsbD 3 = true →
        ∃ t, exec (.fence x) s = .next t ∧ KeepsAll s t y 0 ∧ SameMemory S t ∧ Acquired t w sc ∧ WentOn t y)

/-- R98, R99, R102, R103, R113, R285: ABORT and FENCE. That the commit of a FENCE moves its data at issue, and the interval of ABORT ends there, is the model's choice (log 73), as is what an acquire keeps from the wave (log 28, 29). -/
def Obligations.AbortAndFence : Prop :=
  Sys2Proof.Claims.AbortDrops ∧ Sys2Proof.Claims.FenceOrders

/-- R323, R325, R108: ATLD: the image is read, the bank's load is outstanding, and the participating threads wait for it. (That the whole
image is read at issue is the model's choice, log 42.) -/
def Obligations.AtldLoads : Prop :=
  ∀ (x : FM) (s s1 s2 : State) (r : Run) (w : WaveId) (ms : List Nat) (ps : List Place),
    let u : Use := { rds := [Rd.pair 1 x.a false], dst := none, k := 0 }
    let y := s.site (.atld x) r w ms
    let l := nth 0 y.lanes 0
    let ga := laneAddr (s.value w u []) x.ofs l
    let n := if x.hd.md.getLsbD 0 then 1 else 0
    Runs s s1 (.atld x) r w ms u → ga % 16 = 0 →
      (s.prepared s1 y u).imagePlaces w l ga (bankBytes / 16) 0 = .ok (ps, s2) →
      (mget Bank.zero (s2.blk w.blk).banks n).loading = none →
        ∃ t, exec (.atld x) s = .next t ∧ Keeps s s1 t y u noReg noReg 0 ∧
          (∃ ld, (mget Bank.zero (t.blk w.blk).banks n).loading = some ld ∧ ld.thread = w.thread l ∧ ld.sent = s.ns ∧
            ld.image = (s2.readImage w l (hintOf x.hint (s2.record w.blk x.tr.toNat)) 0 ps).1) ∧
          (mget Bank.zero (t.blk w.blk).banks n).bytes = (mget Bank.zero (s.blk w.blk).banks n).bytes ∧
          ∀ l ∈ y.lanes, (t.thread (w.thread l)).wait = .onBank n

/-! ### Barriers, engines' requests, the matrix engine, rings, the memory side, and what is left of the ports -/

namespace Sys2Proof.Claims

/-- R37, R300: a barrier object after an update: with no arrival and no byte left to come, its phase completes. -/
def phaseDone (b : Bar) : Bar :=
  if b.pend = 0 ∧ b.expb ≤ b.landed then
    { b with landed := b.landed - b.expb, expb := 0, pend := b.expa, phase := (b.phase + 1) % 65536 }
  else b

/-- The members stand behind the instruction, ready; the wave's scalars are unchanged, and memory is that of `S`. -/
structure Lands (s S t : State) (x : Iss) : Prop where
  beyond : Beyond s t x
  mem : SameMemory S t

/-- What an instruction of an engine with a queue hands over: its operands, how many values it keeps, of each lane or once,
its records' contents, and the codes of its destinations (R27 to R30). -/
structure Handed where
  use : Use
  n : Nat
  each : Bool
  recs : List (BitVec 256)
  codes : List Nat
  release : Bool

/-- One more copy stands in the copy engine (R288, R293, R295). -/
def CopyTaken (s S : State) (y : Iss) (token level : Nat) (kind : CopyKind) (bar : Option Loc) (batched : Bool) : Prop :=
  ∃ id c, mfind S.copies id = some c ∧ c.wid = y.wid ∧ c.issuers = y.lanes ∧ c.core = y.core ∧ c.token = token ∧ c.level = level ∧ c.kind = kind ∧
    c.bar = bar ∧ c.batch.isSome = batched ∧ c.landed = [] ∧ c.code = 0 ∧ c.complete = false ∧
    ∀ k, k ≠ id → mfind S.copies k = mfind s.copies k

/-- A request stands last in the matrix engine's queue (R343, R347). -/
def MxTaken (s S : State) (y : Iss) (op : MxOp) : Prop :=
  S.mx y.core = { s.mx y.core with
    queue := (s.mx y.core).queue ++ [{ wid := y.wid, issuers := y.lanes, heard := s.ns, op := op }] }

/-- Remote accesses stand last in the virtual queue of their destination, in this order, each with its data; nothing of them has been
sent (R396). -/
def RemoteTaken (s S : State) (y : Iss) (d cls : Nat) (ops : List (RemOp × List Byte)) : Prop :=
  ∃ es, S.virtq d cls = s.virtq d cls ++ es ∧ es.map (fun e => (e.head.op, e.data)) = ops ∧
    ∀ e ∈ es, e.head.dst = d ∧ e.head.cls = cls ∧ e.started = false ∧
      ∃ q, mfind S.remotes e.head.id = some q ∧ q.wid = y.wid ∧ q.peer = d

/-- The answers of a PRD or PATOM are outstanding for its destination: a lane in bounds waits for its own, another has 0 (R411). -/
def Answers (S : State) (y : Iss) (dest : Nat) (lanes : List Nat) (ls : List (Nat × Nat)) : Prop :=
  ∃ id q, mfind S.producers id = some q ∧ q.kind = .remote ∧ q.wid = y.wid ∧ q.issuers = y.lanes ∧ q.dest = dest ∧
    q.lanes = lanes.map fun l => (l, if ls.any (fun g => g.1 == l) then LaneSrc.pending else .known 0)

/-- A permute of a tensor for a wave (R386, R413). -/
structure PermTaken (y : Iss) (r : BitVec 256) (x : FM) (f : Fperm) : Prop where
  wid : f.wid = y.wid
  issuers : f.issuers = y.lanes
  core : f.core = y.core
  token : f.token = tokenOf x.d
  es : f.es = elemBytes (recFmt r)
  ext : (f.ext0, f.ext1, f.ext2) = (recExt0 r, recExt1 r, recExt2 r)
  code : f.code = 0

def handed (s : State) (b : Nat) : Instr → Option Handed
  | .cpy x => some ⟨cpyUse x, 3, false, [], [x.d.toNat], false⟩
  | .cpyt x => some ⟨cpytUse x, 3, false, [s.record b x.tr.toNat, s.record b (x.xmod.toNat % 64)], [x.d.toNat], false⟩
  | .fperm x => some ⟨fpermUse x, 3, false, [s.record b x.tr.toNat], [x.d.toNat], false⟩
  | .mma x => some ⟨mmaUse x, 2, false, [s.record b x.tr.toNat, s.record b (x.xmod.toNat % 64)], [], false⟩
  | .mzero _ => some ⟨{ rds := [], dst := none, k := 0 }, 0, false, [], [], false⟩
  | .mld x => some ⟨mldUse x, 3, false, [s.record b x.tr.toNat], [], false⟩
  | .mldV x => some ⟨mldVUse x, 2, true, [], [], false⟩
  | .mst x => some ⟨mstUse x, 3, false, [s.record b x.tr.toNat], [x.d.toNat], false⟩
  | .pwr x => some ⟨pwrUse x, 3, false, [], [], false⟩
  | .psigArv x => some ⟨psigUse x false, 2, false, [], [], x.hd.md.getLsbD 4⟩
  | .psigAdd x => some ⟨psigUse x true, 2, false, [], [], x.hd.md.getLsbD 4⟩
  | .prd x => some ⟨prdUse x, 1, true, [s.record b x.tr.toNat], (Dst.vd x.d x.hd.ty).codes, false⟩
  | .patom x => some ⟨patomUse x, 3, true, [s.record b x.tr.toNat], (Dst.vd x.d x.hd.ty).codes, false⟩
  | .pperm x => some ⟨ppermUse x, 3, false, [s.record b x.tr.toNat], [x.d.toNat], false⟩
  | _ => none

end Sys2Proof.Claims

/-- R299, R300, R303, R306: BINIT, BEXP and BDROP update the object that the pair names, in one step; the instruction's other
effect is on the block's list of objects that drop. (How that list is kept is the model's choice, log 81.) -/
def Sys2Proof.Claims.BarrierUpdates : Prop :=
  ∀ (x : FA) (s s1 : State) (r : Run) (w : WaveId) (ms : List Nat) (o : Loc),
    (let u := barUse x.a [Rd.ss 2 x.b .n32] (x.ext.getD 0)
     let y := s.site (.binit x) r w ms
     let P := s.prepared s1 y u
     let n := s.value w u [] 2 (nth 0 y.lanes 0)
     let scope := x.hd.md.toNat % 8
     let drop := x.hd.md.getLsbD 3
     Runs s s1 (.binit x) r w ms u →
       P.barObject (w.thread (nth 0 y.lanes 0)) (s.value w u [] 1 (nth 0 y.lanes 0)) .atomic = .ok o → n < 2 ^ 20 →
       barPlaceOk o scope = true → (drop = true → (s.blk w.blk).listed o = true ∨ (s.blk w.blk).drops.length < dropMax) →
         ∃ t, exec (.binit x) s = .next t ∧
           Lands s (P.setBar o { landed := 0, expb := 0, phase := 0, pend := n, expa := n, scope := scope, drop := drop
                                 valid := true, bovf := false }) t y ∧ KeepsThreads s t w ∧ Keeps s s1 t y u noReg noReg 0 ∧
           ((t.blk w.blk).listed o = drop)) ∧
    (let u := barUse x.a [Rd.ss 2 x.b .n32] (x.ext.getD 0)
     let y := s.site (.bexp x) r w ms
     let P := s.prepared s1 y u
     let b := P.bar o
     let n := s.value w u [] 2 (nth 0 y.lanes 0)
     Runs s s1 (.bexp x) r w ms u →
       P.barChecked (w.thread (nth 0 y.lanes 0)) (s.value w u [] 1 (nth 0 y.lanes 0)) .atomic = .ok o → b.valid = true →
       b.expb + n < 2 ^ 32 →
         ∃ t, exec (.bexp x) s = .next t ∧ Lands s (P.setBar o { b with expb := b.expb + n }) t y ∧ KeepsThreads s t w ∧
           Keeps s s1 t y u noReg noReg 0 ∧
           (t.blk w.blk).drops = (s.blk w.blk).drops) ∧
    (let u := barUse x.a [] (x.ext.getD 0)
     let y := s.site (.bdrop x) r w ms
     let P := s.prepared s1 y u
     let b := P.bar o
     Runs s s1 (.bdrop x) r w ms u →
       P.barChecked (w.thread (nth 0 y.lanes 0)) (s.value w u [] 1 (nth 0 y.lanes 0)) .atomic = .ok o → b.valid = true →
       b.pend ≠ 0 →
         ∃ t, exec (.bdrop x) s = .next t ∧
           Lands s (P.setBar o (phaseDone { b with pend := b.pend - 1, expa := b.expa - 1 })) t y ∧ KeepsThreads s t w ∧
             Keeps s s1 t y u noReg noReg 0 ∧
           ∀ d ∈ (t.blk w.blk).drops, d.obj = o → d.mask.getLsbD w.wv = false)

/-- R303, R93: BARV: the wave commits at the object's scope and then arrives; when acknowledgements of remote writes are awaited, its
participating threads wait for them, its interval goes on, and the arrival is made after them. (That the commit and an arrival that
awaits nothing are made at issue is the model's choice, log 39, 73, as is how the list of objects that drop is kept, log 81.) -/
def Sys2Proof.Claims.BarrierArrives : Prop :=
  ∀ (x : FA) (s s1 C : State) (r : Run) (w : WaveId) (ms : List Nat) (o : Loc),
    let u := barUse x.a [] (x.ext.getD 0)
    let y := s.site (.barv x) r w ms
    let P := s.prepared s1 y u
    let scope := min (P.bar o).scope 5
    let b := C.bar o
    let remote := scope = 5 ∧ P.unacked w.blk ≠ []
    Runs s s1 (.barv x) r w ms u →
      P.barChecked (w.thread (nth 0 y.lanes 0)) (s.value w u [] 1 (nth 0 y.lanes 0)) .atomic = .ok o →
      (P.orderLoads w).commitMoves w scope = some C →
        (remote → ∃ t id a, exec (.barv x) s = .next t ∧ SameMemory C t ∧ mfind t.arrivals id = some a ∧ a.obj = o ∧
          a.awaits = P.unacked w.blk ∧ (t.wave w).interval = (s.wave w).interval ∧
          ∀ l ∈ y.lanes, (t.thread (w.thread l)).wait = .onArrival id) ∧
        (¬ remote → b.valid = true → b.pend ≠ 0 →
          (b.drop = true → (C.blk w.blk).listed o = true ∨ (C.blk w.blk).drops.length < dropMax) →
            ∃ t, exec (.barv x) s = .next t ∧ Lands s (C.setBar o (phaseDone { b with pend := b.pend - 1 })) t y ∧
              Keeps s s1 t y u noReg noReg 0 ∧ IntervalEnds s C t w ∧
              (b.drop = true → ∃ d ∈ (t.blk w.blk).drops, d.obj = o ∧ (w.wv < 16 → d.mask.getLsbD w.wv = true)))

/-- R299 to R303: BINIT, BEXP, BDROP and BARV. When the commit of BARV moves its data and its arrival reaches the object (log 39, 73), and how the objects that drop are listed (log 81), are the model's choices. -/
def Obligations.BarrierWrites : Prop :=
  Sys2Proof.Claims.BarrierUpdates ∧ Sys2Proof.Claims.BarrierArrives

/-- R304, R305, R110: BTEST answers whether the phase has passed, and acquires when it has. BWAIT with a passed phase acquires and
goes on, a bounded one with predicate 1; a bounded one of no cycles goes on with 0; else the participating threads wait, in the
barrier file of their core or in line for it. After an acquire none of the wave's loads has still to read, and the wave finds in clean
copies no byte older than home. (When a load reads, and what an acquire keeps from the wave, are the model's choice, log 28, 29.) -/
def Obligations.BarrierTests : Prop :=
  ∀ (o : Loc) (s s1 : State) (r : Run) (w : WaveId) (ms : List Nat),
    (∀ (x : FA),
     let u := barUse x.a [Rd.ss 2 x.b .n32] (x.ext.getD 0)
     let y := s.site (.btest x) r w ms
     let P := s.prepared s1 y u
     let ok := phasePassed (P.bar o).phase (s.value w u [] 2 (nth 0 y.lanes 0))
     Runs s s1 (.btest x) r w ms u →
       P.barChecked (w.thread (nth 0 y.lanes 0)) (s.value w u [] 1 (nth 0 y.lanes 0)) .load = .ok o →
         ∃ t, exec (.btest x) s = .next t ∧ Lands s (if ok then P.acquire w (P.bar o).scope else P) t y ∧
           Keeps s s1 t y u noReg noReg x.d.toNat ∧ (ok = true → Acquired t w (P.bar o).scope) ∧
           (0 < x.d.toNat → x.d.toNat < 16 → ∀ l ∈ y.lanes, (t.thread (w.thread l)).pred x.d.toNat = ok)) ∧
    (∀ (x : FC),
     let timed := x.hd.md.getLsbD 0
     let u := barUse x.a (Rd.ss 2 x.b .n32 :: (if timed then [Rd.ss 3 x.c .n32] else [])) (x.ext.getD 0)
     let y := s.site (.bwait x) r w ms
     let P := s.prepared s1 y u
     let ph := s.value w u [] 2 (nth 0 y.lanes 0) % 65536
     let n := s.value w u [] 3 (nth 0 y.lanes 0)
     let ok := phasePassed (P.bar o).phase ph
     let pd := if timed then x.d.toNat else 0
     let set (t : State) (v : Bool) : Prop :=
       timed = true → 0 < x.d.toNat → x.d.toNat < 16 → ∀ l ∈ y.lanes, (t.thread (w.thread l)).pred x.d.toNat = v
     Runs s s1 (.bwait x) r w ms u →
       P.barChecked (w.thread (nth 0 y.lanes 0)) (s.value w u [] 1 (nth 0 y.lanes 0)) .load = .ok o →
         (ok = true → ∃ t, exec (.bwait x) s = .next t ∧ Lands s (P.acquire w (P.bar o).scope) t y ∧ set t true ∧
           Acquired t w (P.bar o).scope ∧ Keeps s s1 t y u noReg noReg pd) ∧
         (ok = false → timed = true → n = 0 → ∃ t, exec (.bwait x) s = .next t ∧ Lands s P t y ∧ set t false ∧
           Keeps s s1 t y u noReg noReg pd) ∧
         (ok = false → (timed = true → n ≠ 0) → ∃ t, exec (.bwait x) s = .next t ∧ SameMemory P t ∧
           Keeps s s1 t y u noReg noReg 0 ∧
           ∀ l ∈ y.lanes, ((∃ e ∈ (t.core s.cur.1).bfile, e.obj = o ∧ w.thread l ∈ e.waiters) ∨
             w.thread l ∈ (t.core s.cur.1).bqueue) ∧ (t.thread (w.thread l)).wait =
             .bwait o ph (if timed then x.d.toNat else 0) (if timed then some (s.cycle + n) else none) r.group.pc))

/-- R27 to R30, R206: an instruction of an engine with a queue hands its request over: the operands are read, the records copied, its
destinations are live in its lanes and EMPTY, and the members stand at it until the engine accepts; memory is as it was, but that
PSIG.rel has committed at `.pod`. (That queue operands are popped at acceptance is the model's choice, log 45; that the checks of what
is asked are made there, and in which order, log 80; that PSIG.rel's data moves at issue, log 73.) -/
def Obligations.RequestsHandedOver : Prop :=
  ∀ (i : Instr) (s s1 S : State) (r : Run) (w : WaveId) (ms : List Nat) (h : Handed), handed s w.blk i = some h →
    let y := s.site i r w ms
    Runs s s1 i r w ms h.use → (s.prepared s1 y h.use).release y (if h.release then some 5 else none) = .ok S →
      ∃ t, exec i s = .next t ∧ SameMemory S t ∧ Frame s t y noReg 0 ∧
        (∀ m, m ∉ h.codes → (t.wave w).vreg m = (s1.wave w).vreg m) ∧
        (∀ c ∈ h.codes, 768 ≤ c ∨ ((s1.wave w).vreg c).isSome = true → (t.wave w).isEmpty c = true) ∧
        (∀ c ∈ h.codes, c < 768 → ∀ v, (s1.wave w).vreg c = some v →
          (t.wave w).vreg c = some { v with live := v.live ||| laneMask y.lanes, st := .empty }) ∧
        (∀ l ∈ ms, (t.thread (w.thread l)).pc = r.group.pc) ∧
        (t.slot s.cur.1 s.cur.2).pend = some {
          instr := i
          waves := [{ PendWave.fresh w y.lanes with
                      ops := (if h.each then y.lanes else y.lanes.take 1).map fun l =>
                        (l, (List.range h.n).map fun o => s.value w h.use [] (o + 1) l)
                      trs := h.recs, prev := y.prev
                      was := h.codes.filterMap fun c => ((s1.wave w).vreg c).map fun v => (c, v.live)
                      ticket := S.nextId, issued := s.cycle }] }

/-- R27, R165, R207, R337: an engine that accepts the request of a slot's one wave takes it whole: the members go on, and no request
waits. What the engine then holds is what its acceptance gives. Last uses clear their lanes, and then the lanes of the destinations are
live; a request that the engine had begun did so then (the model's choice, log 45). A matrix request of the same block and cycle
in a slot with a lower number goes first. -/
def Sys2Proof.Claims.SlotsTaken : Prop :=
  ∀ (i : Instr) (s S : State) (c k : Nat) (r : Run) (w : WaveId) (ms : List Nat) (p : PendWave),
    let y := s.pendIss c k r i ms p
    (s.slot c k).run = some r → (s.slot c k).pend = some { instr := i, waves := [p] } → p.wid = w → p.answered = false →
      p.await = none → p.passed = false → p.slept = false → p.refusal = none → s.groupWaves r.group = [(w, ms)] →
      s.lowerFirst c k { instr := i, waves := [p] } = false → i.requestUse.NoQueue → i.accept y p s = .done S →
      NoneConverging S w →
        ∃ t, exec (.requestAccept c k) s = .next t ∧ SameMemory S t ∧ (t.slot c k).pend = none ∧
          (p.ready ≠ none → KeepsAll S t y 0) ∧
          (p.ready = none → Keeps S S t y i.requestUse (fun m => m ∈ i.requestUse.dcodes) noReg 0 ∧
            ∀ m ∈ i.requestUse.dcodes, (t.wave w).vreg m = (((S.wave w).vreg m).map fun v =>
              let v := i.requestUse.cleared y.lanes m v
              { v with live := v.live ||| laneMask y.lanes }).filter VReg.stays) ∧
          (∀ l ∈ ms, (t.thread (w.thread l)).pc = pcPlus r.group.pc i.len) ∧ t.copies = S.copies ∧ t.fperms = S.fperms ∧
          (∀ d, t.mx d = S.mx d) ∧ t.pe = S.pe ∧ t.remotes = S.remotes

/-- R288, R290, R335 to R338, R347 to R349, R386, R387, R396, R409 to R413: what an engine that accepts a request holds then. A copy
is one more of the engine's copies, for the addresses, the tile, the level, the token and the object of its request; the checks of a CPY
being passed and its queue not full, it is accepted. A matrix request stands last in the engine's queue; a signed MMA counts its
signatures, and makes its request when their number is that of the members. A remote write, read or atomic stands last in the virtual
queue of its destination, those of PRD and PATOM with one entry for each line; an FPERM or PPERM is one more of the permutes, and
a PPERM that is taken has put all its entries into their queues. (In which order acceptance checks, what a request of the port fixes
then, and what a copy maps then, are the model's choice, log 80, 50, 43.) -/
def Sys2Proof.Claims.AcceptedRequests : Prop :=
  ∀ (y : Iss) (p : PendWave) (s S : State),
    let t := y.wid.thread p.low
    let r := p.rec_ 0
    (∀ x : FM,
      let bar := x.hd.md.getLsbD 5
      let rs : List Touch := [{ ga := p.sval 2, len := x.ofs.toNat, align := 4, acc := .eread, bad := false },
        { ga := p.sval 1, len := x.ofs.toNat, align := 4, acc := .ewrite, bad := false }]
      let ts := rs ++ barTouch bar (p.sval 3)
      (acceptCpy x y p s = .done S → CopyTaken s S y (tokenOf x.d) x.scope.toNat
        (.bytes (p.sval 1) (p.sval 2) x.ofs.toNat (s.placesOf t ts)) (barOf (s.placesOf t ts) bar (p.sval 3)) (x.hd.md.getLsbD 4)) ∧
      (∀ s', s.alignTrap t ts = none → s.gateTrap t ts = none → s.pageTrap t ts = none → s.barAgrees t bar (p.sval 3) = none →
        s.raceTouches t rs = .ok s' → s.copiesOn y.core < copyQueue → ∃ S', acceptCpy x y p s = .done S')) ∧
    (∀ x : FM, acceptCpyt x y p s = .done S →
      let sh := x.xmod.getLsbD 6
      let shape := if sh then p.rec_ 1 else r
      ∃ dst src ny bar, CopyTaken s S y (tokenOf x.d) (max 1 (scopeOf x.scope r))
          (.tile dst src (recExt0 shape) ny (recExt2 shape) (x.hd.md.toNat % 8) (x.hd.md.getLsbD 3) (x.b.code.toNat % 4)) bar
          (x.hd.md.getLsbD 4) ∧ dst.tr = r ∧ src.tr = p.rec_ 1 ∧
        (let whole := if sh then src else dst
         let part := if sh then dst else src
         (whole.x, whole.y, whole.z) = (0, 0, 0) ∧
         (part.x, part.y, part.z) = coords part.tr (((p.sval 1 : Nat) : Int) + sextN x.ofs.toNat 32))) ∧
    (∀ x : FA, acceptMzero x y p s = .done S →
      (s.mx y.core).holder = some y.wid.blk ∧ s.mxUsed y.core < mxQueue ∧ MxTaken s S y (.zero (x.a.code.toNat % 16))) ∧
    (∀ x : FM,
      (acceptMldV x y p s = .done S →
        MxTaken s S y (.loadV (p.sval 2) (p.lanes.map fun l => (l, BitVec.ofNat 32 (p.val 1 l))))) ∧
      (acceptMld x y p s = .done S → ∃ q bar, q.tr = r ∧
        MxTaken s S y (.load (x.hd.md.toNat % 4) (x.hd.md.toNat / 16) q bar)) ∧
      (acceptMst x y p s = .done S → ∃ q bar, q.tr = r ∧
        MxTaken s S y (.store (x.hd.md.toNat % 4) (x.hd.md.toNat / 16) q (max 1 (scopeOf x.scope r)) (tokenOf x.d) bar)) ∧
      (acceptMma x y p s = .done S → p.ready = none →
        let n : Int := (s.cv y.wid.blk x.d.toNat).members
        let c := (s.cv y.wid.blk x.d.toNat).count
        let makes := ∃ a b, a.tr = r ∧ b.tr = p.rec_ 1 ∧
          MxTaken s S y (.mma x.hd.ty (x.hd.md.toNat / 16) x.ofs.toNat (x.hd.md.getLsbD 2) a b)
        (x.hd.md.getLsbD 3 = false → makes) ∧
        (x.hd.md.getLsbD 3 = true → p.done = [] →
          (c + p.lanes.length < n → (S.mx y.core).queue = (s.mx y.core).queue ∧
            S.cv y.wid.blk x.d.toNat = { s.cv y.wid.blk x.d.toNat with count := c + p.lanes.length }) ∧
          (c + p.lanes.length = n → p.lanes ≠ [] → makes ∧ (S.cv y.wid.blk x.d.toNat).count = 0)))) ∧
    (∀ (x : FM) (d : Nat),
      let bar := if x.hd.md.getLsbD 3 then some (p.sval 3) else none
      let rs : List Touch := [{ ga := p.sval 2, len := x.ofs.toNat, align := 4, acc := .eread, bad := false }]
      (∀ s', s.targetsOf (p.sval 1) bar = .ok (some d) → s.raceTouches t rs = .ok s' → acceptPwr x y p s = .done S →
        RemoteTaken s S y d (FM.cls x) [(.write (p.sval 1) x.ofs.toNat bar, s'.readGa y.wid (s'.placesOf t rs) (p.sval 2) x.ofs.toNat)]) ∧
      (s.remoteTarget (p.sval 1) = .ok (some d) →
        (acceptPsigArv x y p s = .done S → RemoteTaken s S y d (FM.cls x) [(.arrive (p.sval 1), [])]) ∧
        (acceptPsigAdd x y p s = .done S →
          RemoteTaken s S y d (FM.cls x) [(.add (p.sval 1) (p.sval 2), toBytes 8 (p.sval 2))])) ∧
      (s.remoteTarget (recBase r) = .ok (some d) → p.lanes ≠ [] →
        (∀ rows s2 ls, s.openRecord y x.tr.toNat r x.hd.ty .load = .ok rows s2 →
          remoteLanes r rows (elemBytes x.hd.ty) 1 (fun l => ((p.val 1 l : Nat) : Int) + sextN x.ofs.toNat 32) p.lanes = .ok ls →
          acceptPrd x y p s = .done S →
            Answers S y x.d.toNat p.lanes ls ∧
            RemoteTaken s S y d (FM.cls x) ((byLine ls).map fun g => (.read (elemBytes x.hd.ty) g, []))) ∧
        (∀ rows s2 ls, s.openRecord y x.tr.toNat r x.hd.ty .atomic = .ok rows s2 →
          remoteLanes r rows (elemBytes x.hd.ty) 3 (fun l => ((p.val 1 l : Nat) : Int) + sextN x.ofs.toNat 32) p.lanes = .ok ls →
          acceptPatom x y p s = .done S →
            Answers S y x.d.toNat p.lanes ls ∧
            RemoteTaken s S y d (FM.cls x) ((byLine ls).map fun g =>
              (.atomic x.hd.ty x.xmod.toNat (g.map fun q => (q.1, q.2, p.val 2 q.1, p.val 3 q.1)),
                g.flatMap fun q => toBytes (elemBytes x.hd.ty) (p.val 2 q.1) ++
                  (if x.xmod.toNat = 7 then toBytes (elemBytes x.hd.ty) (p.val 3 q.1) else [])))))) ∧
    ∀ x : FM,
      (acceptFperm x y p s = .done S → ∃ id f, mfind S.fperms id = some f ∧ PermTaken y r x f ∧ f.landed = [] ∧ f.perm = none ∧
        (∀ m s', s.shardMap t (p.sval 1) r = .ok (m, s') → f.src = m) ∧ ∀ k, k ≠ id → mfind S.fperms k = mfind s.fperms k) ∧
      (acceptPperm x y p s = .done S → p.ready = none → ∃ id f, mfind S.fperms id = some f ∧ PermTaken y r x f ∧ f.perm.isSome = true ∧
        (∀ m s', s.shardMap t (p.sval 1) r = .ok (m, s') → f.src = m) ∧ mget [] S.permSends id = [] ∧
        ∀ k, k ≠ id → mfind S.fperms k = mfind s.fperms k)

/-- R27, R165, R288, R347, R387, R396, R409 to R413: engines take requests, and hold what they ask for. The order of the checks (log 80), what a port request (log 50) and a copy (log 43) fix at acceptance, and that a request sleeps on a ring there (log 45), are the model's choices. -/
def Obligations.RequestsTaken : Prop :=
  Sys2Proof.Claims.SlotsTaken ∧ Sys2Proof.Claims.AcceptedRequests

/-- R333, R334, R336: MRSV takes a free engine for its block, keeps it when it holds it, and answers whether it holds it. MREL
frees the engine that the block holds, at once when no request is left, else when the last completes. CVSET sets the member
count of a convergence register and zeroes its count of signatures. -/
def Obligations.MatrixControl : Prop :=
  ∀ (x : FA) (s : State) (r : Run) (w : WaveId) (ms : List Nat),
    let c := s.cur.1
    let m := s.mx c
    (let y := s.site (.mrsv x) r w ms
     let won := decide (m.holder = none ∨ m.holder = some w.blk)
     Issues s (.mrsv x) r w ms [] →
       ∃ t, exec (.mrsv x) s = .next t ∧ WentOn t y ∧ KeepsAll s t y x.d.toNat ∧ SameMemory s t ∧
         SetsPreds s t y x.d.toNat (fun _ => won) ∧
         t.mx c = (if m.holder = none then { Matrix.free with holder := some w.blk }
                   else if m.holder = some w.blk then { m with releasing := false } else m)) ∧
    (let y := s.site (.mrel x) r w ms
     Issues s (.mrel x) r w ms [] →
       ∃ t, exec (.mrel x) s = .next t ∧ WentOn t y ∧ KeepsAll s t y 0 ∧ SameMemory s t ∧ KeepsThreads s t w ∧
         t.mx c = (if m.holder ≠ some w.blk then m else if s.mxUsed c = 0 then Matrix.free
                   else { m with releasing := true })) ∧
    (∀ s1,
     let u : Use := { rds := [Rd.ss 1 x.a .n32], dst := none, k := x.ext.getD 0 }
     let y := s.site (.cvset x) r w ms
     let n := s.value w u [] 1 (nth 0 y.lanes 0)
     Runs s s1 (.cvset x) r w ms u → n ≤ 1024 →
       ∃ t, exec (.cvset x) s = .next t ∧ Lands s s1 t y ∧ Keeps s s1 t y u noReg noReg 0 ∧
         t.cv w.blk x.d.toNat = { members := n, count := 0 } ∧
         ∀ k, k ≠ x.d.toNat → t.cv w.blk k = s.cv w.blk k)

/-- R295, R363, R367, R368: CSEAL seals the wave's open batch. QBIND binds a queue register of the block to the initialised ring
at the address; QBIND.init initialises the ring and binds the register; QBIND.off unbinds it. QSTAT reads a word of the record
of the bound ring. -/
def Obligations.BatchesAndBindings : Prop :=
  ∀ (x : FA) (s s1 : State) (r : Run) (w : WaveId) (ms : List Nat) (g : RingRef),
    (let y := s.site (.cseal x) r w ms
     Issues s (.cseal x) r w ms [] →
       ∃ t, exec (.cseal x) s = .next t ∧ WentOn t y ∧ KeepsThreads s t w ∧ KeepsAll s t y 0 ∧ SameMemory s t ∧
         (t.wave w).batch = none ∧
         ∀ b, (s.wave w).batch = some b → mfind t.batches b = (mfind s.batches b).map fun q => { q with sealed := true }) ∧
    (let u := qbindUse x
     let y := s.site (.qbind x) r w ms
     let P := s.prepared s1 y u
     let ga := s.value w u [] 1 (nth 0 y.lanes 0)
     ∀ h, Runs s s1 (.qbind x) r w ms u → P.ringAddr ga = none → P.ringAt (w.thread (nth 0 y.lanes 0)) ga 32 = .ok h →
       P.ringValid h = true →
       P.ringAt (w.thread (nth 0 y.lanes 0)) ga (ringBytes (field (P.homeByte (h.loc 0)).toNat 7 3)) = .ok g →
         ∃ t, exec (.qbind x) s = .next t ∧ Lands s s1 t y ∧ KeepsThreads s t w ∧ Keeps s s1 t y u noReg noReg 0 ∧
           t.binding w.blk (queueNo x.d.toNat) = some g ∧
           ∀ q, q ≠ queueNo x.d.toNat → mfind (t.blk w.blk).queues q = mfind (s.blk w.blk).queues q) ∧
    (let u := qbindUse x
     let y := s.site (.qbindInit x) r w ms
     let P := s.prepared s1 y u
     let ga := s.value w u [] 1 (nth 0 y.lanes 0)
     let n := x.b.code.toNat
     Runs s s1 (.qbindInit x) r w ms u → P.ringAddr ga = none →
       P.ringAt (w.thread (nth 0 y.lanes 0)) ga (ringBytes n) = .ok g →
         ∃ t, exec (.qbindInit x) s = .next t ∧ Lands s (P.ringInit g n) t y ∧ Keeps s s1 t y u noReg noReg 0 ∧
           t.binding w.blk (queueNo x.d.toNat) = some g) ∧
    (let y := s.site (.qbindOff x) r w ms
     Issues s (.qbindOff x) r w ms [] →
       ∃ t, exec (.qbindOff x) s = .next t ∧ WentOn t y ∧ KeepsThreads s t w ∧ KeepsAll s t y 0 ∧ SameMemory s t ∧
         t.binding w.blk (queueNo x.d.toNat) = none ∧
         ∀ q, q ≠ queueNo x.d.toNat → t.binding w.blk q = s.binding w.blk q) ∧
    (let u : Use := { rds := [], dst := some (Dst.sd x.d .b32), k := 0 }
     let y := s.site (.qstat x) r w ms
     ∀ b, Runs s s1 (.qstat x) r w ms u → Operand.ofCode x.d = .sca b →
       s.binding w.blk (queueNo x.a.code.toNat) = some g →
         ∃ t, exec (.qstat x) s = .next t ∧ Finishes s s1 t y s.cur.1 s.cur.2 u 0 ∧ WentOn t y ∧ KeepsThreads s t w ∧
           WroteScalars s s1 t y u .b32 b 1 (s.ringWord g (nth rFREE [rFREE, rAVAIL, rPSTALL, rQSTALL] x.b.code.toNat)))

/-- R356, R358, R381: MATOM and MRED make their release, commit the sectors that their lanes name, and hand one request for each lane
in bounds to the engine of its home; FMLD reduces the member elements that its lanes name, read when its result comes, and gives 0 out
of bounds. MATOM and FMLD are long-latency producers; an acquiring form performs them and acquires. (That an acquiring form is performed at
issue, and what an acquire keeps from the wave, are the model's choice, log 38, 28, 29.) -/
def Obligations.MemorySideRequests : Prop :=
  ∀ (x : FM) (s s1 s2 s3 s4 : State) (r : Run) (w : WaveId) (ms : List Nat) (b rows : Nat),
    let rec_ := s.record w.blk x.tr.toNat
    let ty := x.hd.ty
    let op := x.hd.md.toNat % 16
    let acq := if x.ord.getLsbD 0 then some 4 else none
    (let u : Use := { rds := [Rd.vs 1 x.a .n32, Rd.vs 2 x.b ty] ++ (if op = 7 then [Rd.vs 3 x.c ty] else [])
                      dst := some (Dst.vd x.d ty), k := 0 }
     let y := s.site (.matom x) r w ms
     let elem := fun l => elementAt rec_ rows (elemBytes ty) (laneIndex (s.value w u []) x.ofs l)
     let run := runLanes (fun l q => q.msLane w x op s4.nextId (some x.d.toNat) (s.value w u [] 2 l) (s.value w u [] 3 l) l
       (elem l)) y.lanes { s4 with nextId := s4.nextId + 1 }
     Runs s s1 (.matom x) r w ms u → Operand.ofCode x.d = .vec b → b + Ty.regs ty ≤ 768 →
       (s.prepared s1 y u).openRecord y x.tr.toNat rec_ ty .atomic = .ok rows s2 →
       s2.release y (s2.releaseWave y (if x.ord.getLsbD 1 then some 4 else none)) = .ok s3 →
       s3.commitSecs w 4 (s3.namedSecs w y.lanes elem) = some s4 → run.trap = none →
         ∃ t, exec (.matom x) s = .next t ∧ WentOn t y ∧ SameMemory (acquired run.s w acq) t ∧
           (∀ a, acq = some a → Acquired t w a) ∧
           Keeps s s1 t y u (fun m => b ≤ m ∧ m < b + Ty.regs ty) noReg 0 ∧ (acq = none →
           t.msReqs = run.s.msReqs ∧ Produces t w .mside ty b run.vals)) ∧
    (let u : Use := { rds := [Rd.vs 1 x.a .n32, Rd.vs 2 x.b ty], dst := none, k := 0 }
     let y := s.site (.mred x) r w ms
     let elem := fun l => elementAt rec_ rows (elemBytes ty) (laneIndex (s.value w u []) x.ofs l)
     let run := runLanes (fun l q => q.msLane w x op s4.nextId none (s.value w u [] 2 l) (s.value w u [] 3 l) l
       (elem l)) y.lanes { s4 with nextId := s4.nextId + 1 }
     Runs s s1 (.mred x) r w ms u → (s.prepared s1 y u).openRecord y x.tr.toNat rec_ ty .atomic = .ok rows s2 →
       s2.release y (s2.releaseWave y (if x.ord.getLsbD 1 then some 4 else none)) = .ok s3 →
       s3.commitSecs w 4 (s3.namedSecs w y.lanes elem) = some s4 → run.trap = none →
         ∃ t, exec (.mred x) s = .next t ∧ WentOn t y ∧ SameMemory (acquired run.s w acq) t ∧
           (∀ a, acq = some a → Acquired t w a) ∧ Keeps s s1 t y u noReg noReg 0 ∧
           (acq = none → t.msReqs = run.s.msReqs)) ∧
    (let u : Use := { rds := [Rd.vs 1 x.a .n32], dst := some (Dst.vd x.d ty), k := 0 }
     let y := s.site (.fmld x) r w ms
     let elem := fun l => elementAt rec_ rows (elemBytes ty) (laneIndex (s.value w u []) x.ofs l)
     let run := runLanes (fun l q => q.fmldLane w (x.hd.md.toNat % 4) ty l (elem l)) y.lanes s2
     Runs s s1 (.fmld x) r w ms u → Operand.ofCode x.d = .vec b → b + Ty.regs ty ≤ 768 →
       (s.prepared s1 y u).openRecord y x.tr.toNat rec_ ty .load = .ok rows s2 → run.trap = none →
         ∃ t, exec (.fmld x) s = .next t ∧ WentOn t y ∧
           SameMemory (acquired run.s w acq) t ∧ (∀ a, acq = some a → Acquired t w a) ∧
           (∀ l ∈ y.lanes, elem l = .out → mfind run.vals l = some (.known 0)) ∧
           (∀ l ∈ y.lanes, ∀ ga ls, elem l = .at_ ga → s2.memberLocs (s.blk w.blk).ctx ga (elemBytes ty) l = .ok ls →
             mfind run.vals l = some (.reduce (x.hd.md.toNat % 4) ty ls)) ∧
           Keeps s s1 t y u (fun m => b ≤ m ∧ m < b + Ty.regs ty) noReg 0 ∧ (acq = none → Produces t w .fmld ty b run.vals))

/-- R414, R157: PQST samples a virtual queue into a scalar. LAUNCH commits at `.pkg`, reads the packet's image, and writes the
status of its enqueueing. -/
def Sys2Proof.Claims.QueueScalars : Prop :=
  ∀ (x : FA) (s s1 : State) (r : Run) (w : WaveId) (ms : List Nat) (b : Nat),
    (let u : Use := { rds := [Rd.ss 1 x.a .n32], dst := some (Dst.sd x.d .b32), k := x.ext.getD 0 }
     let y := s.site (.pqst x) r w ms
     Runs s s1 (.pqst x) r w ms u → Operand.ofCode x.d = .sca b →
       ∃ t, exec (.pqst x) s = .next t ∧ Finishes s s1 t y s.cur.1 s.cur.2 u 0 ∧ WentOn t y ∧ KeepsThreads s t w ∧
         WroteScalars s s1 t y u .b32 b 1 (s.pqst (s.value w u [] 1 (nth 0 y.lanes 0)) x.b.code.toNat % 2 ^ 32)) ∧
    (let u : Use := { rds := [Rd.ss 1 x.a .n32, Rd.pair 2 x.b false], dst := some (Dst.sd x.d .b32), k := x.ext.getD 0 }
     let y := s.site (.launch x) r w ms
     let q := s.value w u [] 1 (nth 0 y.lanes 0)
     ∀ C D img, Runs s s1 (.launch x) r w ms u → Operand.ofCode x.d = .sca b →
       ((s.prepared s1 y u).orderLoads w).commit w 4 = some C →
       C.packetImage y (s.value w u [] 2 (nth 0 y.lanes 0)) = .ok (img, D) →
         ∃ t, exec (.launch x) s = .next t ∧ WentOn t y ∧ Keeps s s1 t y u noReg (fun m => m = b) 0 ∧
           SameMemory (D.enqueue (s.blk w.blk).ctx q img).2 t ∧
           (∀ n, t.queue n = (D.enqueue (s.blk w.blk).ctx q img).2.queue n) ∧
           (t.wave w).scalar b = BitVec.ofNat 32 (D.enqueue (s.blk w.blk).ctx q img).1)

/-- R158: YIELD.GRID of a converged group: when a launch of at least the issuing launch's priority is held back by the context's
cores, the predicate is 1 and the context is pre-empted; else it is 0 and nothing else changes. With no request of the context's slots
waiting, which would be answered or given back first (R150), the pre-emption changes no register, no memory and no other context. -/
def Sys2Proof.Claims.GridYields : Prop :=
  ∀ (x : FA) (s : State) (r : Run) (w : WaveId) (ms : List Nat),
    let y := s.site (.yieldGrid x) r w ms
    let ctx := (s.blk w.blk).ctx
    let A := s.advance y
    Issues s (.yieldGrid x) r w ms [] → (s.ctx ctx).st = .run → (s.ctx ctx).resetting = false →
      (A.heldBack ctx (A.launchOf w.blk).prio = false →
        ∃ t, exec (.yieldGrid x) s = .next t ∧ WentOn t y ∧ KeepsAll s t y x.d.toNat ∧ SameMemory s t ∧ (t.ctx ctx).st = .run ∧
          SetsPreds s t y x.d.toNat fun _ => false) ∧
      (A.heldBack ctx (A.launchOf w.blk).prio = true →
        ∃ t, exec (.yieldGrid x) s = .next t ∧ (t.ctx ctx).st ≠ .run ∧
          ((t.ctx ctx).st = .halt → 0 < x.d.toNat → x.d.toNat < 16 →
            ∀ l ∈ y.lanes, (t.thread (w.thread l)).pred x.d.toNat = true) ∧
          ((∀ q ∈ s.slotsOf ctx, (s.slot q.1 q.2).pend = none) →
            (t.ctx ctx) = { s.ctx ctx with st := .halt, yielded := true } ∧ WentOn t y ∧ KeepsAll s t y x.d.toNat ∧ SameMemory s t ∧
            SetsPreds s t y x.d.toNat (fun _ => true) ∧ ∀ c, c ≠ ctx → t.ctx c = s.ctx c))

/-- R157, R158, R414: PQST, LAUNCH and YIELD.GRID. -/
def Obligations.LaunchInstructions : Prop :=
  Sys2Proof.Claims.QueueScalars ∧ Sys2Proof.Claims.GridYields

/-! ### Steps of the engines -/

namespace Sys2Proof.Claims

/-- The live threads of a wave that wait as `x` says are ready; the others are as they were. -/
def Woken (s t : State) (w : WaveId) (x : Wait) : Prop :=
  ∀ l, (s.thread (w.thread l)).live = true → (s.thread (w.thread l)).wait = x → (t.thread (w.thread l)).wait = .ready

/-- A scalar token is FULL, and holds a status, unless every thread that issued the request has exited (R28, R36, R294; the latter for
a token is the model's choice, log 90). -/
def TokenSet (s t : State) (w : WaveId) (issuers : List Nat) (token status : Nat) : Prop :=
  (t.wave w).isEmpty (768 + token) = false ∧
  (t.wave w).scalar token = if s.anyLive w issuers = true then BitVec.ofNat 32 status else (s.wave w).scalar token

end Sys2Proof.Claims

/-- R162, R166, R167, R45, R191: SLOT_SELECT gives a free slot the best group of the gathering table that the free slots with lower
numbers leave; GROUP_AGED marks a group
whose member has waited its cycles; FETCH_FILL brings the fetch block that a slot's group needs; SLEEP_WAKE makes a thread
ready whose sleep is over. (That a thread that became ready on no issue slot counts as of slot 4 is the model's choice, log 91.) -/
def Obligations.SequencerEvents : Prop :=
  ∀ (s : State) (c k : Nat),
    (let S := (List.range k).foldl (fun q j => q.fillSlot c j) (((s.admitBars (s.core c).bqueue).gatherTable c).markAged c)
     let key := S.choiceKey (S.slot c k).last
     let fit (e : Entry) : Prop := e ∈ (S.core c).table ∧ e.members.any S.isReady = true
     c < Config.numCores → k < numSlots → (S.slot c k).run = none → (∃ e, fit e) →
       ∃ t e, exec (.slotSelect c k) s = .next t ∧ fit e ∧ (∀ f, fit f → betterRanks (key f) (key e) = false) ∧
         t.slot c k = { run := some { group := e, count := 0, staged := [] }, pend := none, last := e.launch } ∧
         e ∉ (t.core c).table) ∧
    (∀ e, (s.core c).table[k]? = some e → s.isAged e = true →
      ∃ t, exec (.groupAged c k) s = .next t ∧ (t.core c).table[k]? = some { e with aged := true } ∧
        ∀ j, j ≠ k → (t.core c).table[j]? = (s.core c).table[j]?) ∧
    (∀ r u rest p, (s.slot c k).run = some r → r.group.members = u :: rest → s.badTarget r.group.pc = none →
      let ctx := (s.blk u.blk).ctx
      let va := vaOf r.group.pc / 32 * 32
      s.translate ctx va r.group.pc.toNat .fetch = .ok p → s.cachedBlock c ctx va = none →
        ∃ t, exec (.fetchFill c k) s = .next t ∧ t.cachedBlock c ctx va = some (s.homeBytes p.loc 32)) ∧
    (∀ (u : ThreadId) n, (s.thread u).wait = .sleep n → n ≤ s.cycle → s.issues u.blk = true → (s.thread u).live = true →
      ∃ t, exec (.sleepWake u.blk u.wv u.lane) s = .next t ∧
        t.thread u = { s.thread u with wait := .ready, since := s.cycle, slot := 4, ready := s.cycle } ∧ ∀ v, v ≠ u → t.thread v = s.thread v)

/-- R28, R32, R36, R181, R218, R94, R285: PRODUCER_RESULT fills the registers of a producer whose values are known with the
results of the lanes that are live, and its flags become visible; with an uncorrectable error it ends the context. RELOAD_DONE
makes a reloaded name FULL with its contents. COMMIT_COMPLETE and ABORT_COMPLETE let the waiting threads go on, and a commit that has
awaited acknowledgements ends the interval then (R93, R98); while some are outstanding it only has its data at the level. (When loads
read is the model's choice, log 28, and when a commit's data moves, log 73.) -/
def Obligations.ResultEvents : Prop :=
  ∀ (s : State) (id : Nat),
    (∀ p vals, mfind s.producers id = some p → (mfind s.blocks p.wid.blk).isSome = true → s.discards p.ctx = false →
      (let S := p.lanes.foldl (fun q x => q.settleFor p.wid x.1 id x.2.unread) s
       let core := (s.blk p.wid.blk).core
       p.elems = [] → knownLanes (S.settleLanes p.wid p.hint (fun _ => true) p.lanes).1 = some vals → (vals.map (·.1)).Nodup →
       (∀ k P, (s.slot core k).pend = some P → ∃ q ∈ P.waves, q.answered = false) →
        ∃ t, exec (.producerResult id false) s = .next t ∧ mfind t.producers id = none ∧
          (t.wave p.wid).fstat = (s.wave p.wid).fstat ||| BitVec.ofNat 32 p.flags ∧
          (∀ c, p.dest ≤ c → c < p.dest + p.n → (t.wave p.wid).isEmpty c = false) ∧
          (p.dest + p.n ≤ 768 → ∀ v ∈ vals, (s.thread (p.wid.thread v.1)).live = true → v.1 < 64 → ∀ j < p.n,
            (s.wave p.wid).isEmpty (p.dest + j) = true →
              (t.wave p.wid).vlane (p.dest + j) v.1 = nth 0 (resultWords p.ty p.n v.2) j) ∧
          ∀ c, p.dest ≤ c → c < p.dest + p.n → (s.wave p.wid).isEmpty c = true → Woken s t p.wid (.onReg c)) ∧
      ((s.ctx p.ctx).st ≠ .idle →
        ∃ t, exec (.producerResult id true) s = .next t ∧ mfind t.producers id = none ∧ (t.ctx p.ctx).st = .fault)) ∧
    (∀ p err, mfind s.producers id = some p → (mfind s.blocks p.wid.blk = none ∨ s.discards p.ctx = true) →
      exec (.producerResult id err) s = .next { s with producers := mdel s.producers id }) ∧
    (∀ (w : WaveId) n r, n < 768 → (s.wave w).vreg n = some r → r.reload ≠ none →
      ∃ t, exec (.reloadDone w.blk w.wv n) s = .next t ∧ (t.wave w).isEmpty n = false ∧
        (r.live ≠ 0 → ∃ q, (t.wave w).vreg n = some q ∧ q.st = .full ∧ q.lanes = r.lanes ∧ q.live = r.live) ∧
        Woken s t w (.onReg n)) ∧
    (∀ i c, ((i = Instr.commitComplete id ∧ c.abort = false) ∨ (i = .abortComplete id ∧ c.abort = true)) →
      mfind s.commits id = some c →
        (s.acked c.wid.blk c.awaits = true →
          ∃ t, exec i s = .next t ∧ mfind t.commits id = none ∧ Woken s t c.wid (.onCommit id) ∧ SameMemory s t ∧
            (c.awaits = [] → (t.wave c.wid).interval = (s.wave c.wid).interval) ∧ (c.awaits ≠ [] → IntervalEnds s s t c.wid)) ∧
        (s.acked c.wid.blk c.awaits = false →
          exec i s = .next { s with commits := mput s.commits id { c with held := true } }))

/-- R100, R300, R303, R304, R308, R310, R325: FILTER_WINDOW_CLOSE closes a unit's window and opens the next, of which eight are
kept; BARRIER_CREDIT adds landed bytes to an object; BARRIER_ARRIVAL makes an arrival; WAKE_NOTICE and BWAIT_TIMEOUT end waits;
CLUSTER_STUCK delivers DEADLOCK to every wave of a stuck cluster at the lowest PC of its threads, and ends the context of a wave
whose `TRAPVEC` is 0; ATLD_INSTALL installs a bank. (Which waits count as stuck and the PC that DEADLOCK records are the model's choice,
log 64; that a window opens when one is closed and that eight are kept, log 31.) -/
def Obligations.BarrierEvents : Prop :=
  ∀ (s : State) (id : Nat),
    (∀ unit win rest, 1 ≤ id → id ≤ 4 → s.windows id unit = win :: rest →
      win.opened + Config.windowCycles ≤ s.cycle ∨ Config.windowChanges ≤ win.changes.length →
        ∃ t, exec (.filterWindowClose id unit) s = .next t ∧ t = { s with filters := t.filters } ∧
          (∀ l v, filterKey l v ≠ filterKey id unit → t.windows l v = s.windows l v) ∧
          t.windows id unit = ({ seq := win.seq + 1, opened := s.cycle, changes := [] } :: win :: rest).take 8) ∧
    (∀ c, mfind s.credits id = some c → c.refused = false → s.frozen c.obj.sp = false →
      let b := s.bar c.obj
      (b.valid = true → ∃ t, exec (.barrierCredit id) s = .next t ∧ mfind t.credits id = none ∧
        SameMemory (s.setBar c.obj (phaseDone { b with landed := min (b.landed + c.n) (2 ^ 32 - 1)
                                                       bovf := b.bovf || decide (2 ^ 32 ≤ b.landed + c.n) })) t) ∧
      (b.valid = false → (mfind s.copies c.op).isSome = true → ∃ t, exec (.barrierCredit id) s = .next t ∧
        mfind t.credits id = some { c with refused := true } ∧ SameMemory s t)) ∧
    (∀ a, mfind s.arrivals id = some a → s.acked a.wid.blk a.awaits = true →
      let b := s.bar a.obj
      b.valid = true → b.pend ≠ 0 →
      (b.drop = true → (s.blk a.wid.blk).listed a.obj = true ∨ (s.blk a.wid.blk).drops.length < dropMax) →
        ∃ t, exec (.barrierArrival id) s = .next t ∧ mfind t.arrivals id = none ∧
          SameMemory (s.setBar a.obj (phaseDone { b with pend := b.pend - 1 })) t ∧ Woken s t a.wid (.onArrival id) ∧
          IntervalEnds s s t a.wid) ∧
    (∀ n, mfind s.notices id = some n → (∀ p ∈ s.notices, p.1 < id → p.2.follows n = false) →
      ∃ t, exec (.wakeNotice id) s = .next t ∧ mfind t.notices id = none ∧
        ∀ e ∈ (s.core n.core).bfile, e.obj = n.obj → ∀ u ∈ e.waiters, ∀ ph pd dl pc,
          (s.thread u).wait = .bwait n.obj ph pd dl pc → phasePassed n.phase ph = true →
            (t.thread u).wait = .ready ∧ (0 < pd → pd < 16 → (t.thread u).pred pd = true)) ∧
    (∀ (u : ThreadId) o ph pd dl pc, (s.thread u).wait = .bwait o ph pd (some dl) pc → s.issues u.blk = true → dl ≤ s.cycle →
      phasePassed (s.bar o).phase ph = false →
        ∃ t, exec (.bwaitTimeout u.blk u.wv u.lane) s = .next t ∧ (t.thread u).wait = .ready ∧
          (0 < pd → pd < 16 → (t.thread u).pred pd = false)) ∧
    (let bs := (s.blocks.filter fun b => b.2.resident && decide (b.2.cluster = id)).map (·.1)
     s.stuck bs = true → (∀ b ∈ bs, (s.ctx (s.blk b).ctx).st = .run ∧ (s.ctx (s.blk b).ctx).resetting = false) →
       bs.Nodup → (∀ b ∈ bs, ((s.blk b).waves.map (·.1)).Nodup) →
       let waves (w : WaveId) : Prop := w.blk ∈ bs ∧ w.wv ∈ (s.blk w.blk).waves.map (·.1) ∧ (s.wave w).liveLanes ≠ []
       ((∀ w, waves w → (s.wave w).intrap = false ∧ (s.wave w).handlerLanes = [] ∧ (s.wave w).trapvec ≠ 0) →
         ∃ t, exec (.clusterStuck id) s = .next t ∧ ∀ w, waves w → ∃ pc : DWord,
           (t.wave w).epc = epcField pc ∧ bits (t.wave w).faultinfo 31 24 = Cause.deadlock.code ∧
           bits (t.wave w).faultinfo 23 16 = 0 ∧ (t.wave w).donemask = 0 ∧ (t.wave w).intrap = true ∧
           ∀ l ∈ (s.wave w).liveLanes, ∃ q, s.stuckAt bs (w.thread l) = some q ∧ pc.toNat ≤ q.toNat ∧
             (q = pc → (t.thread (w.thread l)).handler = true ∧ (t.thread (w.thread l)).wait = .ready ∧
               (t.thread (w.thread l)).pc = pcOf (s.wave w).trapvec.toNat) ∧
             (q ≠ pc → t.thread (w.thread l) = s.thread (w.thread l))) ∧
       (∀ w, waves w → (s.wave w).intrap = false → (s.wave w).trapvec = 0 →
         ∃ t, exec (.clusterStuck id) s = .next t ∧ (t.ctx (s.blk w.blk).ctx).st = .fault)) ∧
    (∀ n ld, (mget Bank.zero (s.blk id).banks n).loading = some ld →
      (∃ t, exec (.atldInstall id n false) s = .next t ∧
        mget Bank.zero (t.blk id).banks n = { bytes := ld.image, loading := none } ∧
        ∀ p ∈ (s.blk id).waves, Woken s t { blk := id, wv := p.1 } (.onBank n)) ∧
      ((s.ctx (s.blk id).ctx).st ≠ .idle → (s.ctx (s.blk id).ctx).resetting = false →
        ∃ t, exec (.atldInstall id n true) s = .next t ∧ (t.ctx (s.blk id).ctx).st = .fault))

/-- R269 to R271, R273, R175, R177, R178: PTCMD_MAP installs a page or reports its result; PTCMD_UNMAP removes a page, or
reports that none is mapped or that an aperture names it; UNMAP_DONE ends it once no read of the page is outstanding.
FAULT_RECORD_RELEASE writes the oldest record held back, PFREPLY_RETRY lets the waiting threads issue again, and
PFREPLY_UNSERVICEABLE delivers PAGE to them. (The order of the results of PTCMD, that a page leaves the table at once, and that a reply to
a record not yet written is ignored are the model's choice, log 65.) -/
def Obligations.FaultServiceEvents : Prop :=
  ∀ (s : State) (c : Nat),
    let x := s.ctx c
    (x.ptbusy = true → x.ptop = 1 →
      ∃ t, exec (.ptcmdMap c) s = .next t ∧ (t.ctx c).ptbusy = false ∧
        (t.ctx c).ptresult = BitVec.ofNat 8 (s.mapPage c).1 ∧
        (t.ctx c).pages = (match (s.mapPage c).2 with
          | some p => mput x.pages x.ptPage p
          | none => x.pages)) ∧
    (x.ptbusy = true → x.ptop = 2 → x.unmapping = none →
      (x.pageOf (x.ptPage * 65536) = none →
        ∃ t, exec (.ptcmdUnmap c) s = .next t ∧ (t.ctx c).ptbusy = false ∧ (t.ctx c).ptresult = 4 ∧ (t.ctx c).pages = x.pages) ∧
      (∀ v p, x.pageOf (x.ptPage * 65536) = some (v, p) →
        ((∃ q ∈ x.pages, v ∈ q.2.names) →
          ∃ t, exec (.ptcmdUnmap c) s = .next t ∧ (t.ctx c).ptbusy = false ∧ (t.ctx c).ptresult = 7 ∧ (t.ctx c).pages = x.pages) ∧
        ((∀ q ∈ x.pages, v ∉ q.2.names) →
          ∃ t, exec (.ptcmdUnmap c) s = .next t ∧ (t.ctx c).ptbusy = true ∧ (t.ctx c).pages = mdel x.pages v ∧
            (t.ctx c).unmapping = some p))) ∧
    (∀ p, x.unmapping = some p →
      (∀ q ∈ s.producers, q.2.ctx = c → ∀ l ∈ q.2.lanes, l.2.onPage p.entry = false) →
        ∃ t, exec (.unmapDone c) s = .next t ∧ (t.ctx c).ptbusy = false ∧ (t.ctx c).ptresult = 0 ∧ (t.ctx c).unmapping = none) ∧
    (∀ f, x.faults.find? (fun g => !g.written) = some f → x.pfRoom = true →
      ∃ t, exec (.faultRecordRelease c f.tag) s = .next t ∧ (t.ctx c).pfwr = x.pfwr + 1 ∧
        t.out = s.out ++ [.host (x.pfbase.toNat + 32 * (x.pfwr.toNat % 2 ^ x.pfLog2)) f.record,
          .msix x.func.toNat (bits x.pfctl 31 16)] ∧
        (t.ctx c).faults = x.faults.map fun g => if g.tag = f.tag then { g with written := true } else g) ∧
    (∀ tag f w lanes info addr len, s.deaf = false → x.faults.find? (fun g => g.tag == tag && g.written) = some f →
      f.waiters = [.threads w lanes info addr len] →
        (∃ t, exec (.pfreplyRetry c tag) s = .next t ∧ (t.ctx c).faults = x.faults.filter (fun g => g.tag != tag) ∧
          ∀ l ∈ s.stillWait w lanes tag, (t.thread (w.thread l)).wait = .ready ∧ (t.thread (w.thread l)).resume = true ∧
            (t.thread (w.thread l)).pc = (s.thread (w.thread l)).pc) ∧
        ((s.stillWait w lanes tag) ≠ [] → CanTrap s w (s.stillWait w lanes tag) →
          ∃ t, exec (.pfreplyUnserviceable c tag) s = .next t ∧ (t.wave w).faultaddr = addr ∧
            bits (t.wave w).faultinfo 31 24 = Cause.page.code ∧ (t.wave w).donemask = (s.wave w).donemask ∧
            ∀ l ∈ s.stillWait w lanes tag, (t.thread (w.thread l)).handler = true ∧
              (t.thread (w.thread l)).pc = pcOf (s.wave w).trapvec.toNat))

/-- R293 to R295, R333, R340 to R343, R348, R350, R351: COPY_LAND lands a piece of a copy, or records the error that strikes it;
COPY_COMPLETE writes its token, or lets it wait for its batch; BATCH_COMPLETE makes the tokens of a sealed batch FULL at once.
MATRIX_REQUEST executes the oldest request of an engine; MST_COMPLETE writes its token; MATRIX_RELEASE frees the engine. (The pieces of a
copy, and that its source is read as its piece lands, are the model's choice, log 43; that a matrix request is executed whole, log 46;
what a dropped element adds to the flags, log 94.) -/
def Obligations.CopyAndMatrixEvents : Prop :=
  ∀ (s : State) (id : Nat),
    (∀ c n, mfind s.copies id = some c → n < c.kind.pieces → n ∉ c.landed →
      (c.bad = [] →
        ∃ t d, exec (.copyLand id n 0) s = .next t ∧ mfind t.copies id = some d ∧ d.landed = insertN n c.landed ∧
          d.code = c.code ∧ d.flags = c.flags ||| (s.copyPiece c.wid c.kind n).flags ∧
          SameMemory ((s.copyPiece c.wid c.kind n).writes.foldl
            (fun q p => q.writeGa c.wid c.level c.kind.places p.1 p.2) s) t) ∧
      (∀ err, 1 ≤ err → err ≤ 2 → s.sectorsFresh c n = true →
        ∃ t d, exec (.copyLand id n err) s = .next t ∧ mfind t.copies id = some d ∧ d.landed = insertN n c.landed ∧
          d.code = (if c.code = 0 then err else c.code) ∧ SameMemory s t)) ∧
    (∀ c, mfind s.copies id = some c → c.complete = false → s.copyDone id c = true →
      let code := if s.creditRefused id = true ∧ c.code = 0 then 3 else c.code
      (c.batch = none → s.discards (s.blk c.wid.blk).ctx = false → ∃ t, exec (.copyComplete id) s = .next t ∧ mfind t.copies id = none ∧
        TokenSet s t c.wid c.issuers c.token (code * 2 ^ 24 + (c.flags &&& 0x3D))) ∧
      (c.batch ≠ none → ∃ t, exec (.copyComplete id) s = .next t ∧
        mfind t.copies id = some { c with complete := true, code := code } ∧ (t.wave c.wid).scalars = (s.wave c.wid).scalars)) ∧
    (∀ b, mfind s.batches id = some b → b.sealed = true →
      (∀ m ∈ b.members, ∀ c, mfind s.copies m = some c → c.complete = true) →
        ∃ t, exec (.batchComplete id) s = .next t ∧ mfind t.batches id = none ∧
          ∀ m ∈ b.members, mfind t.copies m = none ∧
            ∀ c, mfind s.copies m = some c → s.discards (s.blk c.wid.blk).ctx = false →
              (t.wave c.wid).isEmpty (768 + c.token) = false) ∧
    (∀ q rest, (s.mx id).queue = q :: rest →
      (∀ mask, q.op = .zero mask → ∃ t, exec (.matrixRequest id []) s = .next t ∧ (t.mx id).queue = nextHeard s.ns rest ∧
        ∀ i, (t.mx id).get i = if mask.testBit (i / 4096) then 0 else (s.mx id).get i) ∧
      (∀ j vals, q.op = .loadV j vals → (vals.map (·.1)).Nodup → ∃ t, exec (.matrixRequest id []) s = .next t ∧
        (t.mx id).queue = nextHeard s.ns rest ∧ (∀ v ∈ vals, (t.mx id).get (64 * j + v.1) = v.2) ∧
        ∀ i, (∀ v ∈ vals, i ≠ 64 * j + v.1) → (t.mx id).get i = (s.mx id).get i) ∧
      (∀ ty slot k z a b, q.op = .mma ty slot k z a b →
        let shape := (mmaShape ty).getD 0
        ∃ t, exec (.matrixRequest id []) s = .next t ∧ (t.mx id).queue = nextHeard s.ns rest ∧ SameMemory s t ∧
          ∀ m < (mxDims shape).1, ∀ n < (mxDims shape).2.1,
            (t.mx id).get (accIndex shape slot m n) = BitVec.ofNat 32
              (mxSum (if z then 0 else ((s.mx id).get (accIndex shape slot m n)).toNat, 0)
                ((List.range k).map fun i => (s.mxValue q.wid a i m, s.mxValue q.wid b i n))).1) ∧
      (∀ shape slot a bar, q.op = .load shape slot a bar →
        ∃ t, exec (.matrixRequest id []) s = .next t ∧ (t.mx id).queue = nextHeard s.ns rest ∧ SameMemory s t ∧
          ∀ m < (mxDims shape).1, ∀ n < (mxDims shape).2.1,
            (t.mx id).get (accIndex shape slot m n) = BitVec.ofNat 32 ((s.tileElem q.wid a n m 0).getD (0, 0)).1) ∧
      (∀ shape slot a level token bar, q.op = .store shape slot a level token bar →
        ∃ t, exec (.matrixRequest id []) s = .next t ∧ (t.mx id).queue = nextHeard s.ns rest ∧ (t.mx id).flags = 0 ∧
          SameMemory (s.mxStore id q.wid shape slot a level []) t)) ∧
    (∀ m, mfind s.msts id = some m → s.credited id = true → s.discards (s.blk m.wid.blk).ctx = false →
      ∃ t, exec (.mstComplete id) s = .next t ∧ mfind t.msts id = none ∧
        TokenSet s t m.wid m.issuers m.token ((if s.creditRefused id = true ∧ m.code = 0 then 3 else m.code) * 2 ^ 24 + m.flags)) ∧
    ((s.mx id).releasing = true → s.mxUsed id = 0 →
      ∃ t, exec (.matrixRelease id) s = .next t ∧ t.mx id = Matrix.free)

/-- R358, R364, R365, R383, R384, R387, R413: MS_ATOMIC_PERFORM performs a memory-side request at its home and answers it;
RING_ELEMENT_LAND puts an element into its slot; RING_WAKE wakes the oldest waiter; FPERM_PIECE_ARRIVE lands a piece or
records its failure; FPERM_COMPLETE and PPERM_COMPLETE write their tokens; notices keep parked requests waiting, and
RESPONSE_TIMEOUT ends the context of a request without a response. (The pieces of a permute and their failure codes are the model's
choice, log 48, and which requests the response time counts, log 49.) -/
def Obligations.FabricEvents : Prop :=
  ∀ (s : State) (id : Nat),
    (∀ r, mfind s.msReqs id = some r → s.msBlocked id r = false →
      let n := r.ty.bits / 8
      let old := s.homeNat r.place.loc n
      ∃ t, exec (.msAtomicPerform id) s = .next t ∧ mfind t.msReqs id = none ∧
        SameMemory (s.enterHome (some r.wid) (sectorOf r.place.loc (pageCmode r.place.entry)
          (toBytes n (atomicNew r.op r.ty old r.b r.c)))) t ∧
        ∀ d k p, r.dest = some d → mfind s.producers k = some p → p.kind = .mside → p.wid = r.wid → p.dest = d →
          ∃ q, mfind t.producers k = some q ∧ mfind q.lanes r.lane = some (.known old)) ∧
    (∀ e v, mfind s.ringElems id = some e → e.value = some v →
      ∃ t, exec (.ringElementLand id) s = .next t ∧ mfind t.ringElems id = none ∧ SameMemory (s.ringLand e.ring e.index v) t) ∧
    (∀ x, s.ringWaits.find? (fun y => y.id == id && y.notice) = some x →
      ∃ t, exec (.ringWake id) s = .next t ∧ (∀ y ∈ t.ringWaits, y.id = id → y.notice = false) ∧
        Woken s t x.wid (if x.push then .onPush x.queue else .onPop x.queue)) ∧
    (∀ f n, mfind s.fperms id = some f → n < f.pieces → n ∉ f.landed → s.isParked (.piece id n) = false →
      (∀ err, 1 ≤ err → err ≤ 2 →
        ∃ t g, exec (.fpermPieceArrive id n err) s = .next t ∧ mfind t.fperms id = some g ∧ g.landed = insertN n f.landed ∧
          g.code = (if f.code = 0 then err else f.code) ∧ SameMemory s t) ∧
      (∀ p S, s.pieceTarget f n = .ok p → s.raceCheck f.wid p 4 (f.addr f.dst n) = .ok S →
        ∃ t g, exec (.fpermPieceArrive id n 0) s = .next t ∧ mfind t.fperms id = some g ∧ g.landed = insertN n f.landed ∧
          SameMemory (S.engineWrite f.wid f.level p
            (toBytes f.es (mget 0 (s.fpermRead f (f.needed n p.loc)).got n))) t) ∧
      (∀ e, s.pieceTarget f n = .error e → (s.ctx (s.blk f.wid.blk).ctx).pfEn = false →
        ∃ t g, exec (.fpermPieceArrive id n 0) s = .next t ∧ mfind t.fperms id = some g ∧ g.landed = insertN n f.landed ∧
          g.code = (if f.code = 0 then 4 else f.code) ∧ SameMemory s t)) ∧
    (∀ f, mfind s.fperms id = some f → f.landed.length = f.pieces → s.credited id = true →
      s.discards (s.blk f.wid.blk).ctx = false →
      let status := (if s.creditRefused id = true ∧ f.code = 0 then 3 else f.code) * 2 ^ 24
      (f.perm = none → ∃ t, exec (.fpermComplete id) s = .next t ∧ mfind t.fperms id = none ∧
        TokenSet s t f.wid f.issuers f.token status) ∧
      (∀ n c, f.perm = some (n, c) → mget [] s.permSends id = [] → (∀ r ∈ s.remotes, r.2.perm ≠ some id) →
        f.bar = none ∨ c = true →
          ∃ t, exec (.ppermComplete id) s = .next t ∧ mfind t.fperms id = none ∧ TokenSet s t f.wid f.issuers f.token status)) ∧
    (∀ p, mfind s.parked id = some p →
      (s.ns ≥ p.since + noticeGap → ∃ t, exec (.keepWaitingSend id) s = .next t ∧
        mfind t.parked id = some { p with since := s.ns, notice := true } ∧
        ∀ e q, p.req = .remote e → s.parkedSource e = some q →
          (t.stream q.1).ctl = (s.stream q.1).ctl ++ [.waiting q.2]) ∧
      (∀ f n x, p.notice = true → p.req = .piece f n → mfind s.fperms f = some x →
        ∃ t, exec (.keepWaitingReceive id) s = .next t ∧ mfind t.parked id = some { p with notice := false } ∧
          mfind t.fperms f = some { x with heard := mput x.heard n s.ns })) ∧
    (∀ c, s.timedOut id = some c → (s.ctx c).st ≠ .idle → (s.ctx c).resetting = false →
      ∃ t, exec (.responseTimeout id) s = .next t ∧ (t.ctx c).st = .fault)

/-! ### Steps of the ports, the front end and the management controller -/

/-- R388, R389, R391 to R393, R395, R431, R399: the first lock assigns the package id and steps pod time, a later one needs the
estimate to be near; a lock is lost; ALMNEXT checks what is staged, and the switch puts it into force; a slot begins with each
port's entry, whose profiles the port loads, and retrains those that a peer's leap slot meets; PEVQ places the queue region or refuses; a
window opens after the vigil and closes with the slot. (That a later lock keeps pod time and takes any position, that slots begin one by
one at their event, and when a window may open are the model's choice, log 52; which peers hold a leap entry in a slot is a free value,
log 3.) -/
def Obligations.CalendarEvents : Prop :=
  ∀ (s : State) (port d : Nat) (value time : BitVec 64) (pos : BitVec 6) (ofs : BitVec 8),
    (s.mc.podout = false → s.cal.locked = false →
      (s.pkgid = none → ∃ t, exec (.calendsLock pos time ofs) s = .next t ∧ t.pkgid = some pos.toNat ∧ t.podTime = time ∧
        t.cal.locked = true ∧ t.cal.ofs = ofs) ∧
      (∀ q, s.pkgid = some q → podGap s.podTime.toNat time.toNat ≤ 4 →
        ∃ t, exec (.calendsLock pos time ofs) s = .next t ∧ t.pkgid = some q ∧ t.podTime = s.podTime ∧ t.cal.locked = true ∧
          t.cal.ofs = ofs)) ∧
    (s.cal.locked = true → ∃ t, exec .lockLoss s = .next t ∧ t.cal.locked = false ∧
      t.cal.lost = (if s.cal.lost = 255 then 255 else s.cal.lost + 1) ∧ t.cal.active = s.cal.active ∧ t.cal.cfg = s.cal.cfg) ∧
    (let S : State := { s with cal := { s.cal with next := BitVec.ofNat 48 value.toNat, err := s.cal.err && !value.getLsbD 62 } }
     s.deaf = false →
       (value.getLsbD 63 = false → exec (.almnextGo value) s = .next S) ∧
       (value.getLsbD 63 = true → S.stagedOk = false →
         ∃ t, exec (.almnextGo value) s = .next t ∧ t.cal.go = false ∧ t.cal.err = true ∧ t.cal.cfg = s.cal.cfg) ∧
       (value.getLsbD 63 = true → S.stagedOk = true → s.cal.running = true ∨ s.podTime.toNat ≤ s.cal.epoch.toNat →
         ∃ t, exec (.almnextGo value) s = .next t ∧ t.cal.go = true ∧ t.cal.cfg = s.cal.cfg) ∧
       (value.getLsbD 63 = true → S.stagedOk = true → s.cal.running = false → s.cal.epoch.toNat < s.podTime.toNat →
         ∃ t, exec (.almnextGo value) s = .next t ∧ t.cal.go = false ∧ t.cal.cfg = s.cal.stg ∧ t.cal.active = s.cal.staged)) ∧
    (s.cal.go = true →
      (s.cal.running = true ∧ s.cal.next.toNat ≤ s.cycleNow) ∨ (s.cal.running = false ∧ s.cal.epoch.toNat ≤ s.podTime.toNat) →
        ∃ t, exec .almanacSwitch s = .next t ∧ t.cal.cfg = s.cal.stg ∧ t.cal.active = s.cal.staged ∧ t.cal.go = false) ∧
    (s.cal.running = true → s.cal.base ≤ s.podTime.toNat → s.cal.slot ≤ s.slotIndex → port < numPorts →
      let leaps := Config.peerLeaps s.free
      let e := s.cal.entry s.slotNow port
      let p := s.port port
      let fresh (q : Nat) : Prop := e.1 = 1 ∧ s.cal.locked = true ∧ (port, q) ∈ leaps
      ∃ t, exec .slotStart s = .next t ∧ t.cal.slot = s.slotIndex + 1 ∧ (t.port port).opened = false ∧
        (t.port port).peer = (if e.1 = 0 then some e.2 else none) ∧
        (∀ q, fresh q → mget 0 (t.port port).stale q = 0 ∧ mget 0 (t.port port).low q = 0 ∧
          mget 0 (t.port port).ready q = mget 0 p.ready q ||| (mget 0 p.stale q ||| mget 0 p.low q)) ∧
        (∀ q, ¬ fresh q → mget 0 (t.port port).stale q = mget 0 p.stale q ∧ mget 0 (t.port port).low q = mget 0 p.low q) ∧
        (e.1 = 0 → ∀ k < 16, mfind (t.port port).loaded k =
          if (p.rx e.2).getLsbD k then some (p.profile s.ownPkg e.2 k) else none)) ∧
    (let base := bits value 40 12 * 4096
     let n := bits value 4 0
     let ok := 17 ≤ n ∧ n ≤ 24 ∧ base + 320 * 2 ^ n < Config.memTop ∧ s.inExcluded base (320 * 2 ^ n) = false ∧
       inMetadata base (320 * 2 ^ n) = false ∧ ¬ (s.cal.running = true ∧ s.pe.pevqAct = true)
     s.deaf = false →
       (ok → ∃ t, exec (.pevqWrite value) s = .next t ∧ t.pe.pevqAct = true ∧ t.pe.pevqLog.toNat = n ∧
         t.pe.pevqBase.toNat * 4096 = base ∧ t.pe.pevqRef = (s.pe.pevqRef && !value.getLsbD 6)) ∧
       (¬ ok → ∃ t, exec (.pevqWrite value) s = .next t ∧ t.pe = { s.pe with pevqRef := true })) ∧
    ((s.port port).peer = some d →
      (s.mayOpen port = true → ∃ t, exec (.windowOpen port) s = .next t ∧ (t.port port).opened = true ∧
        (t.port port).fresh = true ∧ (t.port port).rxlos = 0 ∧ (t.stream d).owed = [] ∧
        (t.stream d).again = (s.stream d).again ++ (s.stream d).resend ∧ (t.stream d).resend = []) ∧
      ((s.port port).opened = true → s.cal.slot ≤ s.slotIndex → ∃ t, exec (.windowClose port) s = .next t ∧
        (t.port port).opened = false ∧ (t.port port).peer = none ∧
        ((∀ q < numPorts, q ≠ port → (s.port q).peer = some d → (s.port q).opened = false) →
          t.stream d = ((s.settlePort port d).stream d).close)))

/-- R397, R401 to R405, R410, R417, R419 to R422, R431: FLIT_SEND sends control records, then lost flits, then the entry stream, and an
idle flit when there is none, each on the channel of its circuit and the lanes of its direction's map, and none but control records while
the map in force is empty; FLIT_RECEIVE corrects a flit, or counts one that cannot be corrected, and takes the stream in order, keeping
what comes before it is known whether the lanes of the slot have locked, and takes nothing of a dark direction; TRANSIT_ARRIVE and
TRANSIT_CREDIT are the steps of a detour; REMOTE_ENTRY_PERFORM performs an entry, whose source learns of it; acknowledgements,
failure reports and the timeout end a remote access. (What a remote access holds and how its turns are counted are the model's choice,
log 50; the order of control records, lost flits and the stream and the segments of a flit, log 53; the lanes and units of control flits,
log 86; what is kept and discarded about a lock, log 55.) -/
def Obligations.RemoteEvents : Prop :=
  ∀ (s : State) (id port d : Nat),
    (∀ choice, (s.port port).peer = some d →
      let T := if s.lockIsKnown = true then s.settlePort port d else s
      T.maySend port d = true →
      let S := T.feedAll
      let x := S.stream d
      let p := S.port port
      -- the flit that leaves: under its map, its units follow those sent in the window
      let out (q : Port) (m : BitVec 16) (n : BitVec 32) (kind : Nat) (body : List Byte) : Out :=
        .flit port (channelOf S.ownPkg d) (unitsOf (sendLanes m) q.txUnit (flitBytes (S.flitHead n kind d body)))
      (S.ctlNext port d = true → ∃ t, exec (.flitSend port choice) s = .next t ∧ (t.stream d).ctl = x.ctl.drop 14 ∧
        (t.port port).fresh = false ∧
        (t.port port).txUnit = (if S.nextMap port d = 0 then p.txUnit else p.txUnit + 16) ∧
        t.out = S.out ++ [out p (S.nextMap port d) x.seq 0 x.ctlBody]) ∧
      (S.ctlNext port d = false → p.tx d = 0 → exec (.flitSend port choice) s = .next S) ∧
      (S.ctlNext port d = false → p.tx d ≠ 0 →
        (∀ q rest f, x.again = q :: rest → x.sent.find? (fun g => g.seq == q) = some f →
          ∃ t, exec (.flitSend port choice) s = .next t ∧ (t.stream d).again = rest ∧ (t.port port).resend = p.resend + 1 ∧
            t.out = S.out ++ [out p (p.txAt d q) q 2 f.body]) ∧
        (x.again = [] →
          let f := Fill.run port d choice 32 { room := 224, segs := [], st := S }
          let q := f.st.port port
          (f.room ≠ 224 → ∃ t, exec (.flitSend port choice) s = .next t ∧ (t.stream d).seq = x.seq + 1 ∧
            t.out = f.st.out ++ [out q (p.tx d) x.seq 1 (Config.segBytes f.segs)]) ∧
          (f.room = 224 → ∃ t, exec (.flitSend port choice) s = .next t ∧ (t.stream d).seq = (f.st.stream d).seq ∧
            t.out = f.st.out ++ [out q (p.tx d) x.seq 3 []])))) ∧
    (∀ raw gone, (s.port port).peer = some d →
      ((s.port port).dark = true ∨ (s.port port).rx d = 0 → exec (.flitReceive port raw gone) s = .next s) ∧
      ((s.port port).opened = true → (s.port port).dark = false → s.cal.locked = true → raw.length = 256 → (s.port port).rx d ≠ 0 →
        let S := if s.lockIsKnown = true then s.settlePort port d else s
        let p := S.port port
        let r := (s.port port).decode d raw gone
        (r.1 = none → ∃ t, exec (.flitReceive port raw gone) s = .next t ∧ (t.port port).fecunc = p.fecunc + 1 ∧
          (t.port port).rxUnit = p.rxUnit + 16 ∧ t.stream d = S.stream d) ∧
        (∀ f fs, r.1 = some f → p.early = some fs → ∃ t, exec (.flitReceive port raw gone) s = .next t ∧
          (t.port port).early = some (fs ++ [f]) ∧ (t.port port).rxUnit = p.rxUnit + 16 ∧ t.stream d = S.stream d) ∧
        (∀ f, r.1 = some f → p.early = none → (nth 0 f 4 = 1 ∨ nth 0 f 4 = 2) →
          BitVec.ofNat 32 (ofBytes (f.take 4)) = (S.stream d).rxNext → (S.stream d).rxHeld = [] →
            ∃ t, exec (.flitReceive port raw gone) s = .next t ∧ (t.stream d).rxNext = (S.stream d).rxNext + 1 ∧
              (t.port port).feccor = p.feccor + BitVec.ofNat 32 r.2 ∧ (t.port port).rxUnit = p.rxUnit + 16) ∧
        (∀ f, r.1 = some f → p.early = none → nth 0 f 4 = 3 →
          ∃ t, exec (.flitReceive port raw gone) s = .next t ∧ t.stream d = S.stream d ∧
            (t.port port).feccor = p.feccor + BitVec.ofNat 32 r.2))) ∧
    (∀ x, mfind s.pe.transitIn id = some x →
      ∃ t, exec (.transitArrive id) s = .next t ∧ mfind t.pe.transitIn id = none ∧
        t.transitq x.seg.head.dst = addTransit x s.turns (s.transitq x.seg.head.dst)) ∧
    (∀ dest amount, ∃ t, exec (.transitCredit d dest amount) s = .next t ∧
      mget 0 (t.stream d).credit dest = mget 0 (s.stream d).credit dest - amount) ∧
    (∀ x, mfind s.pe.inbox id = some x → s.inBlocked id x = false → s.isParked (.remote id) = false → x.ctx = none →
      (∀ size vals, x.seg.head.op ≠ .answer size vals) →
      (s.linkedCtx x = none → ∃ t, exec (.remoteEntryPerform id false) s = .next t ∧ mfind t.pe.inbox id = none ∧
        (t.stream x.seg.head.src).owed = (s.stream x.seg.head.src).owed ++ [.failed x.seg.head.id 1] ∧ SameMemory s t) ∧
      (∀ ctx ga total m S, s.linkedCtx x = some ctx → x.seg.head.op = .write ga total none →
        s.remotePlaces ctx (ga + x.seg.head.ofs) x.seg.data.length .ewrite = .ok m →
        s.remoteWrite ctx x.seg.head.src m (ga + x.seg.head.ofs) x.seg.data = some S →
        total ≤ s.landedOf x.seg.head.src x.seg.head.id + x.seg.data.length →
          ∃ t, exec (.remoteEntryPerform id false) s = .next t ∧ mfind t.pe.inbox id = none ∧ SameMemory S t ∧
            (t.stream x.seg.head.src).owed = (s.stream x.seg.head.src).owed ++ [.acks [x.seg.head.id]])) ∧
    (∀ r, mfind s.remotes id = some r →
      (r.dest = none → let S : State := { s with remotes := mdel s.remotes id }
        ∃ t, exec (.remoteAck r.peer id) s = .next t ∧ t.remotes = S.remotes ∧ t.commits = s.commits ∧
          ∀ u : ThreadId, u.blk = r.blk → (s.thread u).live = true → (s.thread u).wait = .onPod → S.relDone u = true →
            (t.thread u).wait = .ready) ∧
      ((s.ctx r.ctx).st ≠ .idle → (s.ctx r.ctx).st ≠ .fault → (s.ctx r.ctx).resetting = false →
        (∀ code pkg, ∃ t, exec (.remoteFailure id code pkg) s = .next t ∧ mfind t.remotes id = none ∧
          (t.ctx r.ctx).st = .fault ∧
          (t.ctx r.ctx).pestat = BitVec.ofNat 64 (code % 256 * 2 ^ 24 + pkg % 64 * 2 ^ 8)) ∧
        (s.cal.locked = true → s.petmo ≤ wholeTurns r.heard s.lockedTurns → ∃ t, exec (.remoteTimeout id) s = .next t ∧ mfind t.remotes id = none ∧
          (t.ctx r.ctx).st = .fault ∧
          (t.ctx r.ctx).pestat = BitVec.ofNat 64 (5 * 2 ^ 24 + s.ownPkg % 64 * 2 ^ 8))))

/-- R418, R422 to R426, R428: loss of light, a low margin and a lane that has not locked by the vigil plus 8 ns take a lane out of the
receive map that the port proposes, and the last makes the direction dark; retraining, and a late lock of a good lane while both
directions are dark, bring one back; a proposal sets the transmit map from the next stream flit onward and is answered with its number;
an answer puts the receive map into force from that flit onward. Laser failures and eye samples are recorded. (Which lanes a port
proposes, when it does, and when the maps change are the model's choice, log 55.) -/
def Obligations.LaneEvents : Prop :=
  ∀ (s : State) (port lane peer : Nat),
    let p := s.port port
    let b := lane16 lane
    (s.onCircuit port lane peer = true →
      (∃ t, exec (.lossOfLight port lane peer) s = .next t ∧ (t.port port).rxlos = p.rxlos ||| b ∧
        (t.port port).wanted peer = p.wanted peer &&& ~~~b) ∧
      (∀ m, m < s.pe.margin → ∃ t, exec (.marginLow port lane peer m) s = .next t ∧
        mget 0 (t.port port).low peer = mget 0 p.low peer ||| b ∧ (t.port port).wanted peer = p.wanted peer &&& ~~~b) ∧
      (∀ m, s.pe.insvc = true → (mget 0 p.low peer).getLsbD lane = true → 2 * s.pe.margin ≤ m →
        ∃ t, exec (.retrainDone port lane peer m) s = .next t ∧ (t.port port).wanted peer = p.wanted peer ||| b ∧
          mget 0 (t.port port).low peer = mget 0 p.low peer &&& ~~~b) ∧
      ((p.rx peer).getLsbD lane = true → (mget 0 p.stale peer).getLsbD lane = false → s.lockIsKnown = true →
        p.dark = true ∨ p.early ≠ none →
        ∃ t, exec (.laneLockFail port lane peer) s = .next t ∧ (t.port port).dark = true ∧
          mget 0 (t.port port).stale peer = mget 0 p.stale peer ||| b ∧
          (t.port port).wanted peer = p.wanted peer &&& ~~~b) ∧
      (p.rx peer = 0 → p.tx peer = 0 → (p.good peer).getLsbD lane = true → s.lockMayBeLate = true →
        ∃ t, exec (.laneLockLate port lane peer) s = .next t ∧
        (t.port port).wanted peer = p.wanted peer ||| b)) ∧
    (∀ m, port < numPorts → peer < 64 → ∃ t, exec (.lmapProposal port peer m) s = .next t ∧ (t.port port).tx peer = m ∧
      (t.stream peer).ctl = (s.stream peer).ctl ++ [.answer port m (s.stream peer).seq] ∧
      ∀ q, (t.port port).txAt peer q = if seqBefore q (s.stream peer).seq then p.txAt peer q else m) ∧
    (∀ m seq, mfind p.proposed peer = some m → ∃ t, exec (.lmapAnswer port peer m seq) s = .next t ∧
      (t.port port).rx peer = m ∧ mfind (t.port port).proposed peer = none ∧
      ∀ q, (t.port port).rxAt peer q = if seqBefore q seq then p.rxAt peer q else m) ∧
    (port < numPorts → lane < 16 → ∃ t, exec (.laserFailure port lane) s = .next t ∧ (t.port port).txfault = p.txfault ||| b) ∧
    (∀ m, port < numPorts → ∃ t, exec (.eyeSample port m) s = .next t ∧ (t.port port).eyevalid = true ∧
      (t.port port).eyemargin = BitVec.ofNat 8 m)

/-- R127, R130 to R132, R135 to R141, R36: writes of a queue's registers and of its owner; the front end takes a packet or stops
its queue with an error, finds a launch ready, places its next cluster or pre-empts for it; a block without anything
outstanding is released, and a launch without blocks completes. (The moments at which packets are taken, launches considered and clusters
placed are the model's choice, log 57; what a victim's pre-emption waits for, log 59; a `WQCTL.CTX` that names no context of the
function, log 56.) -/
def Obligations.DispatchEvents : Prop :=
  ∀ (s : State) (id : Nat),
    (∀ fn q, s.deaf = false → s.queueOf fn id = some q →
      let x := s.queue q
      (∀ v, x.deven = false → ∃ t, exec (.wqwrWrite fn id v) s = .next t ∧
        ((v - x.wqrd).toNat ≤ x.size → (t.queue q).wqwr = v ∧ (t.queue q).err = x.err) ∧
        (x.size < (v - x.wqrd).toNat → (t.queue q).wqwr = x.wqwr ∧ (t.queue q).err = true ∧
          (x.err = false → (t.queue q).errcode = 4 ∧ (t.queue q).erridx = x.wqrd))) ∧
      (∀ v, let k := s.contextOf fn (bits v 35 24)
        let y := x.withWqctl v k
        bits y.wqctl 46 36 = bits v 46 36 ∧ bits y.wqctl 23 16 = bits v 23 16 ∧ bits y.wqctl 2 0 = bits v 2 0 ∧
        (y.unbound = true ↔ k = none) ∧ bits y.wqctl 35 24 = (k.getD (bits v 35 24)) % 2 ^ 12 ∧
        ∃ t, exec (.wqctlWrite fn id v) s = .next t ∧
          t.queue q = if x.en = true ∧ ((y.wqctl ^^^ x.wqctl) &&& ~~~1#64 ≠ 0 ∨ y.unbound ≠ x.unbound) then x else y) ∧
      (x.err = true → ∃ t, exec (.wqstatErrClear fn id) s = .next t ∧ (t.queue q).err = false ∧
        (t.queue q).wqrd = x.erridx)) ∧
    (∀ v, s.deaf = false → bits v 4 0 ≤ 16 →
      (id < Config.numQueues → bits v 4 0 ≠ (s.queue id).func.toNat → (s.queue id).en = false →
        ∃ t, exec (.qfuncWrite id v) s = .next t ∧ (t.queue id).func.toNat = bits v 4 0 ∧ (t.queue id).wqctl = 0x40000) ∧
      (id < Config.numContexts → bits v 4 0 ≠ (s.ctx id).func.toNat → (s.ctx id).st = .idle →
        (∀ q ∈ s.queues, s.bound q.1 id = true → q.2.en = false) →
          ∃ t, exec (.cfuncWrite id v) s = .next t ∧ (t.ctx id).func.toNat = bits v 4 0)) ∧
    (let q := s.queue id
     let S := s.updQueue id fun x => { x with wqrd := x.wqrd + 1 }
     ∀ p, s.takeable q = true → s.packetAt q q.wqrd = some p →
       (if pktForm p && decide (pktType p = 1) then pktGrp p else 0) = 0 →
       (∀ l, S.checkPacket id q q.wqrd q.prev = .ok l → ∃ t n, exec (.packetTake id) s = .next t ∧
         (t.queue id).wqrd = q.wqrd + 1 ∧ mfind t.launches s.nextId = some n ∧ n.packet = l.packet ∧ n.desc = l.desc ∧
         n.queue = l.queue) ∧
       (∀ c, S.checkPacket id q q.wqrd q.prev = .error c → ∃ t, exec (.packetTake id) s = .next t ∧ (t.queue id).err = true ∧
         (t.queue id).errcode = BitVec.ofNat 8 c ∧ (t.queue id).erridx = q.wqrd)) ∧
    ((s.launch id).st = .waiting → (s.ctx (s.launch id).ctx).st ≠ .fault → s.isMet (s.launch id) = true →
      (s.launch id).nop = false → ∃ t, exec (.dependencyPoll id) s = .next t ∧ (t.launch id).st = .ready) ∧
    (let S := if (s.launch id).considered then s else s.readCount id
     let l := S.launch id
     s.hasTurn id = true → (s.launch id).group = [] → l.chainSlots = [] →
       (l.kept = 0 → ∃ t, exec (.clusterPlace id) s = .next t ∧ (t.launch id).st = .placed) ∧
       (l.kept ≠ 0 → S.spot l = none → ∃ t, exec (.clusterPlace id) s = .next t ∧ t.blocks = s.blocks ∧
         (t.launch id).since = some (l.since.getD s.ns)) ∧
       (∀ cores recs, l.kept ≠ 0 → S.spot l = some cores → S.loadRecords l = some recs → l.onSlots = false →
         ∃ t, exec (.clusterPlace id) s = .next t ∧ ∀ k < cores.length, ∃ n b, mfind t.blocks n = some b ∧ b.launch = id ∧
           b.ctx = l.ctx ∧ b.core = nth 0 cores k ∧ b.blin = l.clus * l.next + k ∧ b.recs = recs ∧ b.resident = true)) ∧
    (∀ since c, (s.launch id).since = some since → since + 100000 ≤ s.ns → s.wantsCores id = true → s.fe.saving = none →
      s.victimFor (s.launch id) = some c → (s.ctx c).resetting = false →
        ∃ t, exec (.priorityPreempt id) s = .next t ∧ t.fe.saving = some c ∧ (t.ctx c).st ≠ .run) ∧
    (∀ b, mfind s.blocks id = some b → b.exited = true → b.resident = true → (s.ctx b.ctx).st = .run →
      s.outstanding id = false → id ∉ (s.launch b.launch).chainSlots →
        (b.chained = [] ∨ (s.launch b.launch).st ≠ .ready →
          ∃ t, exec (.blockRelease id) s = .next t ∧ mfind t.blocks id = none) ∧
        (b.chained ≠ [] → (s.launch b.launch).st = .ready → ∃ t, exec (.blockRelease id) s = .next t ∧
          (t.launch b.launch).chainSlots = (s.launch b.launch).chainSlots ++ [id])) ∧
    ((s.launch id).st = .placed → (s.ctx (s.launch id).ctx).st ≠ .fault → (∀ b ∈ s.blocks, b.2.launch ≠ id) →
      ∃ t, exec (.launchComplete id) s = .next t ∧ (t.launch id).st = .done)

/-- R148 to R155, R447: a pre-emption halts a running context, whose image is sealed once it has drained; a restore by a die map
that fits brings it back, and it runs again when the restore is done; a reset ends it, at once or when its requests have
returned, until when it keeps the reloads and the bank loads that have not; CTXPOOL, CTXPOOLSZ, CTXLOG and CTXLOGN are written. (What
drains, what an image holds and what a reset waits for are the model's choice, log 60, 61.) -/
def Obligations.ContextEvents : Prop :=
  ∀ (s : State) (c : Nat),
    let x := s.ctx c
    (s.deaf = false → x.st = .run → x.resetting = false →
      ∃ t, exec (.ctxctlPreempt c) s = .next t ∧ (t.ctx c).st ≠ .run ∧ ((t.ctx c).st = .halt → (t.ctx c).yielded = false)) ∧
    (x.st = .halt → s.draining c = false → x.resetting = false →
      ∃ t, exec (.imageSeal c) s = .next t ∧ (t.ctx c).st = .saved ∧
        ∀ b ∈ t.blocks, b.2.ctx = c → b.2.resident = false) ∧
    (s.deaf = false → x.st = .saved → x.resetting = false →
      (∀ m, s.dieMap c = some m → s.mapOk c m = true →
        ∃ t, exec (.ctxctlRestore c) s = .next t ∧ (t.ctx c).st = .restore ∧ (t.ctx c).rerr = false) ∧
      ((∀ m, s.dieMap c = some m → s.mapOk c m = false) →
        ∃ t, exec (.ctxctlRestore c) s = .next t ∧ (t.ctx c).st = .saved ∧ (t.ctx c).rerr = true ∧ t.blocks = s.blocks)) ∧
    (x.st = .restore → x.resetting = false →
      ∃ t, exec (.restoreDone c) s = .next t ∧ (t.ctx c).st = .run ∧
        ∀ b, (mfind s.blocks b).isSome = true → (s.blk b).ctx = c → ∀ p ∈ (s.blk b).waves,
          (t.wave { blk := b, wv := p.1 }).wstat.getLsbD 2 = true) ∧
    (s.deaf = false → x.st ≠ .idle → x.resetting = false →
      let D := ((s.dropUnsent c).dropWaits c).discard c
      (D.unreturned c = false → ∃ t, exec (.ctxctlReset c) s = .next t ∧ (t.ctx c).st = .idle ∧ ∀ b ∈ t.blocks, b.2.ctx ≠ c) ∧
      (D.unreturned c = true → ∃ t, exec (.ctxctlReset c) s = .next t ∧ (t.ctx c).resetting = true ∧ t.producers = s.producers ∧
        t.msReqs = s.msReqs ∧ ∀ b ∈ t.blocks, b.2.ctx = c → b.2.resident = false ∧ (∀ k ∈ b.2.banks, k.2.loading ≠ none) ∧
          ∀ p ∈ b.2.waves, p.2.threads = [] ∧ ∀ n ∈ p.2.vregs, n.2.reload ≠ none)) ∧
    (x.resetting = true →
      (s.unreturned c = false → ∃ t, exec (.resetDone c) s = .next t ∧ (t.ctx c).st = .idle ∧ (t.ctx c).resetting = false ∧
        ∀ b ∈ t.blocks, b.2.ctx ≠ c) ∧
      (s.unreturned c = true → exec (.resetDone c) s = .next s)) ∧
    (∀ v, s.deaf = false → c < Config.numContexts → x.st = .idle →
      (s.poolBad c { x with ctxpool := v &&& 0x1FFFFFF0000 }.poolBase x.poolSize = false →
        ∃ t, exec (.ctxpoolWrite c false v) s = .next t ∧ (t.ctx c).ctxpool = v &&& 0x1FFFFFF0000) ∧
      (s.poolBad c x.poolBase { x with ctxpoolsz := v &&& 0x1FFFFFF }.poolSize = false →
        ∃ t, exec (.ctxpoolWrite c true v) s = .next t ∧ (t.ctx c).ctxpoolsz = v &&& 0x1FFFFFF) ∧
      (∃ t, exec (.ctxlogWrite c v) s = .next t ∧ (t.ctx c).ctxlog = v &&& 0x00FFFFFFFFFFF000) ∧
      (∃ t, exec (.ctxlognWrite c v) s = .next t ∧ bits (t.ctx c).ctxlogn 63 32 = bits v 63 32 ∧
        bits (t.ctx c).ctxlogn 4 0 = if bits v 4 0 = 0 ∨ (6 ≤ bits v 4 0 ∧ bits v 4 0 ≤ 20) then bits v 4 0 else 0))

/-- R143, R432 to R448: monitors and the removal of cores and dies; the start that a package reset runs; the image mailbox; power;
a virtual function's reset; and the host's writes of registers. (When and in which order the start steps act is the model's choice, log 66;
the moments of the mailbox, log 67; what a power event does first, log 68.) -/
def Obligations.HealthEvents : Prop :=
  ∀ (s : State),
    let h := s.mc
    (∀ core temp, core < Config.numCores → ∃ t, exec (.tempSample core temp) s = .next t ∧ mget 0 t.mc.temps core = temp ∧
      ((h.hotAt : Int) ≤ degrees temp → core ∈ t.mc.hot) ∧
      (degrees temp ≤ (h.hotAt : Int) - h.hyst → 0 < h.hyst → core ∉ t.mc.hot) ∧
      (125 ≤ degrees temp → dieOf core ∈ t.mc.out)) ∧
    (∀ die pkgw, die < 64 → mget 0 h.clkNs die + 100000 ≤ s.ns → ∃ t, exec (.throttleStep die pkgw) s = .next t ∧
      t.mc.pkgw = pkgw ∧ mget 0 t.mc.clkstep die = { h with pkgw := pkgw }.nextStep die ∧ mget 0 t.mc.clkNs die = s.ns) ∧
    (∀ die, die < 64 → ∃ t, exec (.droopEvent die) s = .next t ∧ mget 0 t.mc.droopNs die = s.ns ∧
      mget 0 t.mc.droops die = min 65535 (mget 0 h.droops die + 1)) ∧
    (∀ core, core < Config.numCores → core ∉ h.faulty → ∃ t, exec (.coreFault core) s = .next t ∧ core ∈ t.mc.faulty ∧
      ∀ b ∈ s.blocks, b.2.resident = true → b.2.core = core → (s.ctx b.2.ctx).st ≠ .idle → (s.ctx b.2.ctx).resetting = false →
        (t.ctx b.2.ctx).st = .fault) ∧
    (∀ codes hbm dies pos time, h.held = false → (∀ n, (h.stepRec n).fails = 0) →
      ((∀ n, nth 0 codes n = 0) →
        ∃ t, exec (.packageReset codes hbm dies true pos time) s = .next t ∧ t.mem = [] ∧ t.blocks = [] ∧
          (∀ d < 64, mget 0 t.mc.rosc d = Config.rosc d s.ns) ∧
          (if h.authCode 0 = 0 then
            t.mc.state = 1 ∧ t.mc.step = 9 ∧ t.pkgid = some pos.toNat ∧ t.podTime = time ∧ t.cal.locked = true
          else t.mc.state = 3 ∧ t.mc.step = 3 ∧ t.mc.stepRec 3 = { code := h.authCode 0, mode := 0, fails := 1 })) ∧
      (nth 0 codes 0 ≠ 0 → nth 0 codes 0 ≠ 5 → ∃ t, exec (.packageReset codes hbm dies true pos time) s = .next t ∧
        t.mc.state = 3 ∧ t.mc.step = 1 ∧ (t.mc.stepRec 1).fails = 1)) ∧
    (∀ v, ∃ t, exec (.startclrWrite v) s = .next t ∧ ∀ n, 1 ≤ n → n ≤ 9 →
      (t.mc.stepRec n).fails = if v.getLsbD n then 0 else (h.stepRec n).fails) ∧
    (∀ e, h.runs 1 = true → ∃ t, exec (.mbErase e) s = .next t ∧
      t.mc.found = some (if h.slotRuns h.mbSlot then 4 else if e then 3 else 0) ∧
      (h.slotRuns h.mbSlot = false → e = false → ∀ a, t.mc.slotByte h.mbSlot a = 0xFF)) ∧
    (∀ e, h.runs 2 = true →
      let n := h.mblen.toNat
      let bad := n % 4 ≠ 0 ∨ n < 4 ∨ 65536 < n ∨ slotBytes < h.mbOfs + n ∨ h.mbOfs % 65536 ≠ 0
      let full := ∃ i < n, h.slotByte h.mbSlot (h.mbOfs + i) ≠ 0xFF
      (bad → ∃ t, exec (.mbWrite e) s = .next t ∧ t.mc = { h with found := some 2 }) ∧
      (¬ bad → h.slotRuns h.mbSlot = true → ∃ t, exec (.mbWrite e) s = .next t ∧ t.mc = { h with found := some 4 }) ∧
      (¬ bad → h.slotRuns h.mbSlot = false → full → ∃ t, exec (.mbWrite e) s = .next t ∧ t.mc = { h with found := some 5 }) ∧
      (¬ bad → h.slotRuns h.mbSlot = false → ¬ full →
        ∃ t, exec (.mbWrite e) s = .next t ∧ t.mc.found = some (if e then 3 else 0) ∧
          (e = false → ∀ i < n, t.mc.slotByte h.mbSlot (h.mbOfs + i) = mget 0 h.mbbuf i))) ∧
    (h.runs 3 = true → ∃ t, exec .mbKeys s = .next t ∧ t.mc.found = some 0 ∧
      t.mc.mbBytes keysData.length = keysData ∧ t.mc.mblen = BitVec.ofNat 17 keysData.length ∧
      keysData.length = 444 + (Config.certificate false).length + (Config.certificate true).length) ∧
    (h.runs 4 = true → ∃ t, exec .mbMeasure s = .next t ∧ t.mc.found = some 0 ∧ t.mc.mbBytes 120 = h.report) ∧
    (h.busy = true →
      (∀ r, 1 ≤ h.mbop.toNat → h.mbop.toNat ≤ 4 → h.found = some r → ∃ t, exec .mbOpDone s = .next t ∧ t.mc.busy = false ∧
        t.mc.result = r ∧ t.out = s.out ++ [.msix 0 0]) ∧
      (h.mbop = 0 ∨ 4 < h.mbop.toNat → ∃ t, exec .mbOpDone s = .next t ∧ t.mc.busy = false ∧ t.mc.result = 1)) ∧
    (∀ vin : Byte, 4 * 46 ≤ vin.toNat → exec (.undervoltage vin) s = .next { s with mc := { h with vin := vin } }) ∧
    (∀ vin : Byte, vin.toNat < 4 * 46 → ∃ t, exec (.undervoltage vin) s = .next t ∧ t.mc.held = true ∧
      t.cal = Calendar.reset ∧ ∀ c, (mfind s.ctxs c).isSome = true → (s.ctx c).st ≠ .idle → (s.ctx c).resetting = false →
        (t.ctx c).st = .fault) ∧
    (∀ vin : Byte, h.held = true → 4 * 48 ≤ vin.toNat → ∃ t, exec (.powerRestore vin) s = .next t ∧ t.mc.held = false ∧
      t.mc.vin = vin ∧ t.mem = [] ∧ t.blocks = []) ∧
    (∀ vf, 1 ≤ vf → vf ≤ 16 → ∃ t, exec (.vfFlr vf) s = .next t ∧ ∀ c, (mfind s.ctxs c).isSome = true →
      (s.ctx c).func.toNat = vf → (t.ctx c).st = .idle ∨ (t.ctx c).resetting = true) ∧
    (∀ fn o v, fn ≤ 16 → o < 2 ^ 29 →
      (∀ r, o % 8 = 0 → s.regAt fn o = some r → r.wide = true → s.responds r = true →
        ∃ t, exec (.registerWrite fn o 8 v) s = .next t ∧ (∀ c, r = .ctxsig c → (t.ctx c).ctxsig = v) ∧
          (∀ c, r = .ptva c → (s.ctx c).ptbusy = false → (t.ctx c).ptva = v &&& 0x00FFFFFFFFFF0000) ∧
          (r = .pebud → t.pe.pebud = v) ∧ (∀ c, r = .pestat c → t = s)) ∧
      (o % 4 = 0 → s.unitAt fn o = some (.sfcfg, false) → s.responds .sfcfg = true →
        ∃ t, exec (.registerWrite fn o 4 v) s = .next t ∧
          bits t.sfcfg 15 0 = if 4 ≤ bits v 15 0 ∧ bits v 15 0 ≤ 1000 then bits v 15 0 else bits s.sfcfg 15 0) ∧
      (∀ size, size ≠ 4 → size ≠ 8 → exec (.registerWrite fn o size v) s = .next s))

/-! ### The whole machine -/

namespace Sys2Proof.Claims

/-- The acting slot is about to fetch for one wave: its group is the members `ms` of `w`, all ready, and no request waits. -/
structure AtFetch (s : State) (r : Run) (w : WaveId) (ms : List Nat) : Prop where
  run : (s.slot s.cur.1 s.cur.2).run = some r
  free : (s.slot s.cur.1 s.cur.2).pend = none
  waves : s.groupWaves r.group = [(w, ms)]
  ours : ∀ m ∈ r.group.members, m.wid = w

/-- A row of the scalar and vector tables. -/
def tableRow (i : Instr) (row : Row) : Prop := scalarRow i = some row ∨ vectorRow i = some row

/-- The words that R70 and the worked examples of the spec's chapters print, with the instruction that each is. -/
def words (l : List Nat) : List Byte := (l.map fun w => wordBytes (BitVec.ofNat 32 w)).flatten

/-- The source fields of the words below. -/
def srcOf (code : Nat) : Src := { code := BitVec.ofNat 10 code, last := false, tie := false }

/-- Word 0's common fields without guard, modifier and end of run. -/
def headOfTy (t : Ty) : Head := { eor := false, pg := 0, pn := false, ty := t, md := 0 }

/-- The same with the end of run and a modifier. -/
def headEnd (t : Ty) (md : Nat) : Head := { headOfTy t with eor := true, md := BitVec.ofNat 6 md }

/-- A source with its last-use bit. -/
def lastOf (code : Nat) : Src := { srcOf code with last := true }

/-- Instructions of the four formats from their head and operand codes. -/
def aOf (hd : Head) (d a b : Nat) : FA := { hd := hd, d := BitVec.ofNat 10 d, a := srcOf a, b := srcOf b, ext := none }
def cOf (hd : Head) (d a b c : Nat) : FC :=
  { hd := hd, d := BitVec.ofNat 10 d, a := srcOf a, b := srcOf b, c := srcOf c, xmod := 0, ext := none }
def kOf (hd : Head) (d a k : Nat) : FK :=
  { hd := hd, d := BitVec.ofNat 10 d, a := srcOf a, b := srcOf 0, k := BitVec.ofNat 32 k }
def mOf (hd : Head) (d a b c tr ofs : Nat) : FM :=
  { hd := hd, d := BitVec.ofNat 10 d, a := srcOf a, b := srcOf b, c := srcOf c, xmod := 0, hint := 0, ord := 0, scope := 0
    tr := BitVec.ofNat 6 tr, ofs := BitVec.ofNat 32 ofs }

/-- The instructions whose words the spec's chapters print, with those words: of R70, R192 and the encodings of 02, 05 and 06. -/
def scalarWords : List (List Nat × Instr) :=
  [([0x00300200, 0xF1CE4002], .vadd (aOf (headOfTy .s32) 2 912 967)),
   ([0x00700201, 0xFE100803, 1000], .vadd { aOf (headOfTy .n32) 3 2 1016 with a := lastOf 2, ext := some 1000 }),
   ([0x00300201, 0xF0400C05, 0], .vadd { aOf (headOfTy .s32) 5 3 961 with ext := some 0 }),
   ([0x00300212, 0xF0D00C06, 0x3F8, 0x9C40],
     .vmad { cOf (headOfTy .s32) 6 3 963 1016 with a := lastOf 3, ext := some 40000 }),
   ([0x40300216, 0x01901407, 0x3C5, 0],
     .vmad { cOf (headEnd .s32 0) 7 5 6 965 with a := lastOf 5, b := lastOf 6, ext := some 0 }),
   ([0x0000100C, 0], .exit (aOf (headEnd .b32 0) 0 0 0)),
   ([0x00798201, 0xFE002C0A, 0x186A0],
     .vadd { aOf { headOfTy .n32 with pg := 3, pn := true } 10 11 1016 with ext := some 100000 }),
   ([0x00300506, 0x2014, 0x00245000, 0x100], .ld { mOf (headEnd .s32 0) 20 8 0 0 5 256 with scope := 1, ord := 1 }),
   ([0x111, 0x302, 0xAAAAAAAA], .sli (kOf (headOfTy .b32) 770 0 0xAAAAAAAA)),
   ([0x00704100, 0xE44C0B02], .sshr (aOf (headOfTy .n32) 770 770 913)),
   ([0x3028, 0x000C0801], .pmovFromScalar (aOf (headOfTy .b32) 1 770 0)),
   ([0x8005, 0, 0x24], .bra (kOf { headEnd .b32 0 with pg := 1 } 0 0 0x24)),
   ([0x480C, 0], .cvg (aOf (headEnd .b32 0) 0 0 0)),
   ([0xF84, 2], .yieldGrid (aOf (headEnd .b32 0) 2 0 0)),
   ([0x1C, 0x01002000], .rls (aOf (headEnd .b32 0) 0 8 4)),
   ([0x90C, 0xC14C030A], .smovx (aOf (headEnd .b32 0) 778 768 773)),
   ([0x01001209, 0x00500810, 0], .vmovxSt { aOf { headOfTy .b32 with md := 1 } 16 2 1 with a := lastOf 2, ext := some 0 }),
   ([0x1208, 0x00504003], .vmovx { aOf (headOfTy .b32) 3 16 1 with a := lastOf 16 }),
   ([0x24, 0x2F04], .rdsr (aOf (headEnd .b32 0) 772 11 0))]

/-- The same of the encodings of 07, 08, 09 and 10. -/
def vectorWords : List (List Nat × Instr) :=
  [([0x01A0022D, 0x01501009, 6], .vffma { cOf (headEnd .f32 1) 9 4 5 6 with a := lastOf 4 }),
   ([0x0CD00231, 0x0C0C, 0xA014], .vcvt { cOf { headOfTy .e4m3 with md := 12 } 12 3 0 20 with xmod := 10 }),
   ([0x01F00A35, 0x2028, 0x14], .vpackQ4 (cOf (headEnd .q4 1) 40 8 0 20)),
   ([0x284, 0x40400402], .lxor (aOf (headEnd .b32 0) 2 1 257)),
   ([0x20000284, 0xC2800402], .lxor (aOf (headEnd .b32 32) 2 1 778)),
   ([0x00A02284, 0x0C04], .lred (aOf (headEnd .f32 0) 4 3 0)),
   ([0x01C01A8C, 0x0803], .vexp2 (aOf (headEnd .bf16 1) 3 2 0)),
   ([0x03A0029D, 0x01400C28, 0], .vtopk (cOf (headEnd .f32 3) 40 3 5 0)),
   ([0xA9D, 0xC1000409, 0x3C7], .vrng (cOf (headEnd .b32 0) 9 1 772 967)),
   ([0x01000296, 0x000C5000, 0x3000, 0x10], .atld (mOf (headEnd .b32 1) 0 788 0 0 3 16)),
   ([0x0900050C, 4], .commitChk (aOf (headEnd .b32 9) 4 0 0)),
   ([0x01000D0C, 0], .abort (aOf (headEnd .b32 1) 0 0 0)),
   ([0x0C00150C, 0], .fence (aOf (headEnd .b32 12) 0 0 0)),
   ([0x40310D06, 0x008C2800, 0x2000, 0], .st { mOf { headEnd .s32 0 with pg := 2 } 0 778 0 0 2 0 with b := lastOf 2 }),
   ([0x01000614, 0xF04C5000], .binit (aOf (headEnd .b32 1) 0 788 961)),
   ([0x0000061D, 0xF00C5000, 0], .bwait (cOf (headEnd .b32 0) 0 788 960 0)),
   ([0x20000E06, 0x000C3308, 0x06042314, 0], .cpyt { mOf (headEnd .b32 32) 776 780 0 788 2 0 with scope := 1, xmod := 3 })]

/-- The same of the encodings of 11 to 14. -/
def engineWords : List (List Nat × Instr) :=
  [([0x404, 1], .mrsv (aOf (headEnd .b32 0) 1 0 0)),
   ([0xC04, 0], .mrel (aOf (headEnd .b32 0) 0 0 0)),
   ([0x1405, 0xFE000, 0x40], .cvset { aOf (headEnd .b32 0) 0 1016 0 with ext := some 64 }),
   ([0x1C04, 0x3C00], .mzero (aOf (headEnd .b32 0) 0 15 0)),
   ([0x0DF0040E, 0xF00F0000, 0x04001000, 0x20], .mma { mOf (headEnd .q4 13) 0 960 960 0 1 32 with xmod := 2 }),
   ([0x0AA0140E, 0x000F0308, 0x0004331A, 0], .mst { mOf (headEnd .f32 10) 776 960 0 794 3 0 with scope := 1 }),
   ([0x08700686, 0xC7800806, 0x00105000, 0], .matom { mOf (headEnd .n32 8) 6 2 798 0 5 0 with scope := 4 }),
   ([0x0100068C, 0x018C5B80], .qbindInit (aOf (headEnd .b32 1) 896 790 6)),
   ([0x02300706, 0x000E4006, 0x00304000, 0], .fmld { mOf (headEnd .s32 2) 6 912 0 0 4 0 with scope := 4, ord := 1 }),
   ([0x20000F06, 0xC58C5308, 0x00105318, 0], .fperm { mOf (headEnd .b32 32) 776 788 790 792 5 0 with scope := 4 }),
   ([0x01000746, 0xC58C5000, 0, 0x100], .pwr (mOf (headEnd .b32 1) 0 788 790 0 0 256)),
   ([0x00300F46, 0x000E4006, 0x4000, 0], .prd (mOf (headEnd .s32 0) 6 912 0 0 4 0)),
   ([0x13001F46, 0x000C5000, 0, 0], .psigArv (mOf (headEnd .b32 19) 0 788 0 0 0 0)),
   ([0x33801F46, 0xC68C6000, 0, 0], .psigAdd (mOf (headEnd .n64 51) 0 792 794 0 0 0)),
   ([0x0A002746, 0xC58C5308, 0x5318, 0], .pperm (mOf (headEnd .b32 10) 776 788 790 792 5 0)),
   ([0x74C, 0x000C2B04], .pqst (aOf (headEnd .b32 0) 772 778 0))]

/-- How many vector registers a field of a class names when its code is one of theirs (R58, R60). -/
def span : Cls → Nat
  | .vs t => Ty.regs t
  | .vsNoQueue t => Ty.regs t
  | .vd t => Ty.regs t
  | .vdNoQueue t => Ty.regs t
  | .vecSrc m => m
  | .vecDst m => m
  | .pairSrc => 2
  | _ => 0

/-- The vector names of one field, which names `n` of them. -/
def namesOf (o n : Nat) (f : Field) : List (Nat × Nat) :=
  match f.op with
  | .vec b => (rangeFrom b n).map fun c => (o, c)
  | _ => []

/-- Every vector name of a well-formed instruction with the field that names it (0 D, 1 A, 2 B, 3 C), in the order D, A, B, C
and ascending within a field: the fields of its class, the eight values of VPACK of 4-bit codes (R256), the list of VTOPK (R327), and
the names of STAGE and RLS (R192, R225). An indexed move names its base (R226). -/
def fieldNames (i : Instr) : List (Nat × Nat) :=
  match i with
  | .stage x => (stageNames x).map fun n => (1, n)
  | .rls x => (rangeFrom x.a.code.toNat x.b.code.toNat).map fun n => (1, n)
  | _ =>
    match i.shape, i.form.fields with
    | some sh, some f =>
      let nd := match i with
        | .vtopk x => 2 * (x.hd.md.toNat % 8 + 1)
        | _ => span sh.d
      let na := match i with
        | .vpackQ4 _ => 8
        | _ => span sh.a
      namesOf 0 nd f.d ++ namesOf 1 na f.a ++ namesOf 2 (span sh.b) f.b ++ namesOf 3 (span sh.c) f.c
    | _, _ => []

/-- The number that a finite value is. -/
def ratOf : FVal → Rat
  | .fin neg m e => mkRat (if neg then -(m * 2 ^ e.toNat : Int) else (m * 2 ^ e.toNat : Int)) (2 ^ (-e).toNat)
  | _ => 0

/-- The value is a finite number. -/
def finite : FVal → Bool
  | .fin _ _ _ => true
  | _ => false

/-- The distance of two numbers. -/
def gap (x y : Rat) : Rat := if x ≤ y then y - x else x - y

/-- The encoding `r`, delivered with `flags`, is the exact `x` rounded once to the values of the format by `mode` (R241 to R243).
What is not finite stands for a number beyond every finite value. A finite result is the nearest value, with ties to the even
significand, or the nearest on the side that the mode asks for; but for a BF16 result flushed to zero (R237). `NX` says whether the
result differs from `x` (R244), and the sign is that of `x`. -/
structure Rounded (f : FFmt) (mode : RMode) (x : Rat) (r flags : Nat) : Prop where
  beyond : finite (f.value r) = false → ∀ z, finite (f.value z) = true → gap 0 (ratOf (f.value z)) < gap 0 x
  nearest : mode = .rne → finite (f.value r) = true → (f.flush = true → ratOf (f.value r) ≠ 0) →
    ∀ z, finite (f.value z) = true → gap x (ratOf (f.value r)) ≤ gap x (ratOf (f.value z)) ∧
      (gap x (ratOf (f.value r)) = gap x (ratOf (f.value z)) → ratOf (f.value z) = ratOf (f.value r) ∨ r % 2 = 0)
  towards : mode = .rz → finite (f.value r) = true → (f.flush = true → ratOf (f.value r) ≠ 0) →
    gap 0 (ratOf (f.value r)) ≤ gap 0 x ∧ ∀ z, finite (f.value z) = true → gap 0 (ratOf (f.value z)) ≤ gap 0 x →
      gap 0 (ratOf (f.value z)) ≤ gap 0 (ratOf (f.value r))
  down : mode = .rdn → finite (f.value r) = true → (f.flush = true → ratOf (f.value r) ≠ 0) →
    ratOf (f.value r) ≤ x ∧ ∀ z, finite (f.value z) = true → ratOf (f.value z) ≤ x → ratOf (f.value z) ≤ ratOf (f.value r)
  up : mode = .rup → finite (f.value r) = true → (f.flush = true → ratOf (f.value r) ≠ 0) →
    x ≤ ratOf (f.value r) ∧ ∀ z, finite (f.value z) = true → x ≤ ratOf (f.value z) → ratOf (f.value r) ≤ ratOf (f.value z)
  inexact : flags.testBit 4 = true ↔ ¬ (finite (f.value r) = true ∧ ratOf (f.value r) = x)
  sign : x ≠ 0 → (f.value r).isNan = false → (f.signOf r = true ↔ x < 0)

/-- The state as a move of the agenda finds it: its time has passed. -/
def passed (s : State) (m : Move) (ms : List Move) : State :=
  { s with agenda := ms, ns := s.ns + m.ns, cycle := s.cycle + m.cycles, podTime := s.podTime + BitVec.ofNat 64 m.ns }

/-- The slot waits for the result of the pop producer `n` of the wave (R366). -/
def Holds (t : State) (cur : Nat × Nat) (w : WaveId) (n : Nat) : Prop :=
  (t.slot cur.1 cur.2).run ≠ none ∧ (∃ q, mfind t.producers n = some q ∧ q.kind = .pop ∧ q.wid = w) ∧
  ∃ p, (t.slot cur.1 cur.2).pend = some p ∧ ∃ v ∈ p.waves, v.wid = w ∧ v.answered = true ∧ v.await = some n

/-- `FAULTINFO` of a whole trap with its lane, engine, operand and access (R184). -/
def infoOf (c : Cause) (sub opnd lane eng acc : Nat) : BitVec 32 :=
  BitVec.ofNat 32 (c.code % 256 * 2 ^ 24 + sub % 256 * 2 ^ 16 + opnd % 4 * 2 ^ 14 + lane % 64 * 2 ^ 8 + eng % 16 * 16 + acc % 16)

/-- The lowest participating lane of a wave at an instruction, or its lowest member's when none takes part (the latter is the
model's choice, log 83). -/
def lowLane (s : State) (h : Head) (w : WaveId) (ms : List Nat) : Nat :=
  nth (nth 0 ms 0) (ms.filter fun l => s.participates h w l) 0

end Sys2Proof.Claims

/-- The state after reset, as R371, R384, R389, R391, R398, R400, R405, R427, R428, R437, R440 to R445, R269, R127, R130 and R131
give it: memory reads zero, contexts are idle, no queue is enabled, the calendar does not run, no port has a peer. Two clauses
are the model's choice: CTXPT reads 0 (log 10), and the agenda is empty (log 1). Of the other values that the spec does not give (the
acting slot, the first free number, the pod time estimate) this statement says nothing. -/
def Obligations.ResetValues : Prop :=
  (∀ a, State.reset.memByte a = 0) ∧
  (∀ c, (State.reset.ctx c).st = .idle ∧ (State.reset.ctx c).pfctl = 0x600#32 ∧ (State.reset.ctx c).aptctl = 0 ∧
    (State.reset.ctx c).ctxpt = 0 ∧ (State.reset.ctx c).pages = []) ∧
  (∀ q, (State.reset.queue q).wqctl = 0x40000 ∧ (State.reset.queue q).errcode = 0 ∧ (State.reset.queue q).wqwr = 0 ∧
    (State.reset.queue q).wqrd = 0) ∧
  (∀ b w l, (State.reset.blk b).resident = false ∧ (State.reset.thread { blk := b, wv := w, lane := l }).live = false) ∧
  (∀ c k, (State.reset.slot c k).run = none) ∧ (∀ c, (State.reset.core c).mx.holder = none) ∧
  State.reset.sfcfg = 20#32 ∧ State.reset.cal.locked = false ∧ State.reset.cal.cfg.getLsbD 0 = false ∧
  almSlots State.reset.cal.cfg = 1 ∧ almSlotNs State.reset.cal.cfg = 10000 ∧ almVigil State.reset.cal.cfg = 24 ∧
  State.reset.pe.pevqAct = false ∧ State.reset.pe.pevqLog = 17 ∧ State.reset.pe.petmo = 8 ∧
  State.reset.pe.peany = 0x40000200#64 ∧ State.reset.pe.opcfg = 0x20020002#32 ∧ State.reset.pe.ports = [] ∧
  State.reset.mc.state = 0 ∧ State.reset.mc.step = 0 ∧ State.reset.mc.hotAt = 95 ∧ State.reset.mc.hyst = 6 ∧
  State.reset.mc.held = false ∧ (∀ d, mget 0 State.reset.mc.rosc d = 0) ∧ State.reset.pkgid = none ∧ State.reset.agenda = []

/-- Reset's memory is in the canonical form. -/
def Obligations.MemoryFormAtReset : Prop := Memory.wf State.reset.mem = true

/-- Every step keeps home memory in its canonical form: addresses rise strictly, and no byte is listed that reads as an
unlisted one does (R371), so that equal memories are equal data. -/
def Obligations.MemoryFormKept : Prop :=
  ∀ s t : State, Memory.wf s.mem = true → step s = .next t → Memory.wf t.mem = true

/-- R44 to R50, R67: decoding the bytes of an encoded well-formed instruction gives it back with the bytes behind it; every
well-formed instruction has an encoding of its length; and bytes that decode are the bytes of the encoding of what they decode
to. -/
def Obligations.EncodeDecode : Prop :=
  (∀ (i : Instr) (rest : List Byte), i.wf = true →
    ∃ ws, encode i = some ws ∧ 4 * ws.length = i.len ∧ decode (ws.flatMap wordBytes ++ rest) = .ok (i, rest)) ∧
  (∀ (bs rest : List Byte) (i : Instr), decode bs = .ok (i, rest) →
    ∃ ws, encode i = some ws ∧ bs = ws.flatMap wordBytes ++ rest)

/-- The words that the chapters print beside instructions (02 to 14, one or more of each chapter that prints some) decode to those
instructions; a word with `LEN` 0b11 is ILLEN, and no instruction is shorter than two words (R46, R70). -/
def Obligations.DecodeWords : Prop :=
  (∀ p ∈ scalarWords ++ vectorWords ++ engineWords, decode (words p.1) = .ok (p.2, [])) ∧
  (∀ w : Word, w.extractLsb' 0 2 = 3#2 → ∀ bs, decode (wordBytes w ++ bs) = .error .illen) ∧
  ∀ bs : List Byte, bs.length < 8 → ∀ i rest, decode bs ≠ .ok (i, rest)

/-- R45, R70, R163, R171: a step with nothing on the agenda carries out the instruction to which the bytes at the acting slot's PC
decode, and only asks for the fetch block while that is not in the instruction cache (log 17); a move of the agenda lets its time pass first, and
chooses the slot, is an event, or writes home memory for the host (R132). A slot acts in a later cycle when one with a number not
below its own has acted in this one. A package held in reset takes no move but its release (R445). (That the host's writes and the
order of moves stand on an agenda is the model's choice, log 1, 70.) -/
def Obligations.StepRuns : Prop :=
  (∀ (s : State) (r : Run) (t : ThreadId) (ts : List ThreadId) (p : Place) (block rest : List Byte) (i : Instr),
    s.agenda = [] → (s.slot s.cur.1 s.cur.2).run = some r → (s.slot s.cur.1 s.cur.2).pend = none →
    r.group.members = t :: ts → s.badTarget r.group.pc = none →
    s.translate (s.blk t.blk).ctx (vaOf r.group.pc) r.group.pc.toNat .fetch = .ok p →
    s.cachedBlock s.cur.1 (s.blk t.blk).ctx (vaOf r.group.pc) = some block →
    decode (block.drop (vaOf r.group.pc % 32)) = .ok (i, rest) → step s = exec i (s.turn s.cur.1 s.cur.2)) ∧
  (∀ (s : State) (r : Run) (t : ThreadId) (ts : List ThreadId) (p : Place), s.agenda = [] →
    (s.slot s.cur.1 s.cur.2).run = some r → (s.slot s.cur.1 s.cur.2).pend = none → r.group.members = t :: ts →
    s.badTarget r.group.pc = none →
    s.translate (s.blk t.blk).ctx (vaOf r.group.pc) r.group.pc.toNat .fetch = .ok p →
    s.cachedBlock s.cur.1 (s.blk t.blk).ctx (vaOf r.group.pc) = none →
      ∃ q : State, step s = .next q ∧ q = { s.turn s.cur.1 s.cur.2 with cores := q.cores } ∧
        (∀ d, q.core d = { (s.turn s.cur.1 s.cur.2).core d with slots := (q.core d).slots }) ∧
        (∀ d j, (d, j) ≠ s.cur → q.slot d j = s.slot d j) ∧
        q.slot s.cur.1 s.cur.2 = { s.slot s.cur.1 s.cur.2 with miss := (q.slot s.cur.1 s.cur.2).miss } ∧
        ∃ at_, (q.slot s.cur.1 s.cur.2).miss = some ((s.blk t.blk).ctx, vaOf r.group.pc / 32, at_)) ∧
  (∀ (s : State) (c k : Nat),
    s.turn c k = { s with cur := (c, k), cycle := (s.turn c k).cycle, cores := (s.turn c k).cores } ∧
    (∀ d, (s.turn c k).core d = { s.core d with acted := ((s.turn c k).core d).acted }) ∧
    ((s.turn c k).core c).acted = some ((s.turn c k).cycle, k) ∧
    ((∃ j, (s.core c).acted = some (s.cycle, j) ∧ k ≤ j) → (s.turn c k).cycle = s.cycle + 1) ∧
    (¬ (∃ j, (s.core c).acted = some (s.cycle, j) ∧ k ≤ j) → (s.turn c k).cycle = s.cycle)) ∧
  (∀ (s : State) (m : Move) (ms : List Move) (c k : Nat), s.agenda = m :: ms → s.mc.held = false → m.act = .issue c k →
    step s = ((passed s m ms).turn c k).issueNext) ∧
  (∀ s : State, s.agenda = [] → step s = (s.turn s.cur.1 s.cur.2).issueNext) ∧
  (∀ (s : State) (m : Move) (ms : List Move) (i : Instr), s.agenda = m :: ms → m.act = .event i → i.isEvent = true →
    (s.mc.held = false ∨ ∃ v, i = .powerRestore v) → step s = exec i (passed s m ms)) ∧
  (∀ (s : State) (m : Move) (ms : List Move), s.agenda = m :: ms → s.mc.held = true →
    (∀ v, m.act ≠ .event (.powerRestore v)) → step s = .next (passed s m ms)) ∧
  ∀ (s : State) (m : Move) (ms : List Move) (a : Nat) (bs : List Byte), s.agenda = m :: ms → s.mc.held = false →
    m.act = .hostWrite a bs → Memory.wf s.mem = true → a + bs.length ≤ Config.memTop →
    ∃ t, step s = .next t ∧ t = { passed s m ms with mem := t.mem } ∧
      ∀ c, t.memByte c = if a ≤ c ∧ c < a + bs.length then bs.getD (c - a) 0 else s.memByte c

/-- Every step of the model goes on: no fault, no refusal, in any state. The model has no fault at all: what the spec leaves without an
effect is a trap, a result code or a step that changes nothing (the model's choice, log 6), so this says that no step is refused. -/
def Obligations.StepsGoOn : Prop := (∀ s, Goes (step s)) ∧ ∀ n s, SafeFor n s

/-- R51, whole: each thread evaluates the guard for itself (a thread of the group that is not resuming, R177); p0 is true; a
guard of `!p0` gives an empty mask, and is legal: words that differ in `PG` and `PN` alone are both well formed or neither. -/
def Obligations.GuardSelects : Prop :=
  (∀ (s : State) (i : Instr) (r : Run) (w : WaveId) (ms : List Nat) (l : Nat), (s.thread (w.thread l)).resume = false →
    (l ∈ (s.site i r w ms).lanes ↔ l ∈ ms ∧
      (((s.thread (w.thread l)).pred i.head.pg.toNat = true ∧ i.head.pn = false) ∨
        ((s.thread (w.thread l)).pred i.head.pg.toNat = false ∧ i.head.pn = true)))) ∧
  (∀ t : Thread, t.pred 0 = true) ∧
  (∀ (s : State) (i : Instr) (r : Run) (w : WaveId) (ms : List Nat), i.head.pg = 0 → i.head.pn = true →
    (s.site i r w ms).lanes = []) ∧
  (∀ (i j : Instr) (a b : Word) (ws : List Word), decode ((a :: ws).flatMap wordBytes) = .ok (i, []) →
    decode ((b :: ws).flatMap wordBytes) = .ok (j, []) → a &&& 0xFFF07FFF#32 = b &&& 0xFFF07FFF#32 → i.wf = j.wf)

/-- R174: an instruction in which no thread of the wave takes part, and whose names lie in the register window of its launch, has
no effect but to let the members go on. -/
def Obligations.NoLaneNoEffect : Prop :=
  ∀ (i : Instr) (s : State) (r : Run) (w : WaveId) (ms : List Nat), i.wf = true → Alone s i r w ms →
    (i.returns = true → ∀ l ∈ ms, (s.thread (w.thread l)).handler = true) → (s.wave w).role.permits i.engine = true →
    (∀ p ∈ fieldNames i, p.2 < (s.launchOf w.blk).win) → (s.site i r w ms).lanes = [] →
      ∃ t, exec i s = .next t ∧ Passes s t (s.site i r w ms) s.cur.1 s.cur.2 ∧ WentOn t (s.site i r w ms) ∧ KeepsThreads s t w

/-- R45, R70, R71, R147, R178, R184, R185, R190: the traps of fetch and decoding. `EPC` is the instruction's address; a fetch fault
(PROT with `ACC` 4), ILLEN, STRADDLE and ILLOP leave it in `FAULTADDR` too; ERET outside the handler is ILLOP; an engine that the
wave's role does not permit is ROLE, and a vector name beyond the window REGIDX with its field in `OPND`, for every instruction and
every name (the lists of VTOPK and VPACK, the operands of the memory forms, the base of an indexed move). They are taken whatever the
execution mask. Nothing else changes. The model's choices here: the lane reported when none takes part, and the engine and lane of a
fetch fault (log 83); which field is named when names of several lie beyond the window (log 88); and the order of a fetch's PROT
sub-causes (log 32, 95). -/
def Obligations.DecodeTraps : Prop :=
  (∀ (s : State) (r : Run) (w : WaveId) (ms : List Nat), AtFetch s r w ms → CanTrap s w ms → s.agenda = [] →
    let pc := r.group.pc
    let here := BitVec.ofNat 64 pc.toNat
    let ctx := (s.blk w.blk).ctx
    (∀ sub, s.badTarget pc = some sub →
      ∃ t, step s = .next t ∧ Trapped s t w ms pc (infoOf .prot sub 0 (nth 0 ms 0) 1 4) here 0) ∧
    (∀ f : AddrFault, s.badTarget pc = none → s.translate ctx (vaOf pc) pc.toNat .fetch = .error f → f.cause = .prot →
      ∃ t, step s = .next t ∧ Trapped s t w ms pc (infoOf .prot f.sub 0 (nth 0 ms 0) 1 4) here 0) ∧
    ∀ (p : Place) (block : List Byte) (e : DecodeError), s.badTarget pc = none →
      s.translate ctx (vaOf pc) pc.toNat .fetch = .ok p → s.cachedBlock s.cur.1 ctx (vaOf pc) = some block →
      decode (block.drop (vaOf pc % 32)) = .error e →
        let w0 := wordAt (block.drop (vaOf pc % 32)) 0
        let cause : Cause := match e with
          | .illen => .illen
          | .short => .straddle
          | .illop => .illop
        ∃ t, step s = .next t ∧
          Trapped s t w ms pc (infoOf cause 0 0 (lowLane s (headOf w0) w ms) (engineOf (majOf w0)) 0) here 0) ∧
  (∀ (i : Instr) (s : State) (r : Run) (w : WaveId) (ms : List Nat), i.isEvent = false → Alone s i r w ms → CanTrap s w ms →
    let pc := r.group.pc
    let low := lowLane s i.head w ms
    (i.wf = false ∨ i.returns = true → ∃ t, exec i s = .next t ∧
      Trapped s t w ms pc (infoOf .illop 0 0 low i.engine 0) (BitVec.ofNat 64 pc.toNat) 0) ∧
    (i.wf = true → i.returns = false → (s.wave w).role.permits i.engine = false → ∃ t, exec i s = .next t ∧
      Trapped s t w ms pc (infoOf .role 0 0 low i.engine 0) 0 0) ∧
    (i.wf = true → i.returns = false → (s.wave w).role.permits i.engine = true → ∀ o c : Nat,
      (fieldNames i).find? (fun n => Nat.ble (s.launchOf w.blk).win n.2) = some (o, c) → ∃ t, exec i s = .next t ∧
        Trapped s t w ms pc (infoOf .regidx 0 o low i.engine 0) 0 0))

/-- R32, R59, R165, R211, R212: when the first register that is not ready is EMPTY, every member waits for it at the
instruction, the run ends, and nothing else changes; with its trap-if-empty bit the wave takes the trap EMPTY or RELREAD, with
the field in `OPND`. Which register is the first (the sources in the order A, B, C, then the destination, registers of a field
ascending) is the model's choice (log 14). -/
def Obligations.RegistersWaitOrTrap : Prop :=
  ∀ (i : Instr) (row : Row), tableRow i row →
    ∀ (s : State) (r : Run) (w : WaveId) (ms : List Nat) (o c : Nat), Alone s i r w ms →
      s.decodeTrap i row.1.vnames r.group.pc w ms = none → (s.site i r w ms).lanes ≠ [] →
      (firstScan (row.1.scans (s.wave w)) = some (o, c, .wait) → (s.wave w).isEmpty c = true →
        (∀ p ∈ row.1.names, (s.wave w).isSpilled p.2 = false) →
          ∃ t, exec i s = .next t ∧ OnlyWave s t w s.cur.1 s.cur.2 ∧
            t.wave w = { s.wave w with threads := (t.wave w).threads } ∧ (t.slot s.cur.1 s.cur.2).run = none ∧
            (∀ l ∈ ms, (t.thread (w.thread l)).wait = .onReg c) ∧
            ∀ l, (t.thread (w.thread l)).pc = (s.thread (w.thread l)).pc) ∧
      (∀ (cause : Cause) (sub : Nat), firstScan (row.1.scans (s.wave w)) = some (o, c, .trap cause sub) → CanTrap s w ms →
        ∃ t, exec i s = .next t ∧ Trapped s t w ms r.group.pc
          (infoOf cause sub o (nth 0 (s.site i r w ms).lanes 0) i.engine 0) 0 0)

/-- R205, R214 to R216: obtaining rows for destinations changes the rename maps alone. No register of any wave changes its
value, spilled or not; every destination is mapped. -/
def Obligations.RowsKeepValues : Prop :=
  ∀ (u : Use) (s t : State) (w : WaveId), u.Rows s w t →
    t = { s with blocks := t.blocks } ∧
    (∀ v, t.wave v = { s.wave v with vregs := (t.wave v).vregs }) ∧
    (∀ v n l, (t.wave v).vlane n l = (s.wave v).vlane n l) ∧
    ∀ p ∈ u.dsts, p.2 < 768 → (t.wave w).vreg p.2 ≠ none

/-- R66, R364 to R366: an instruction with queue operands whose pops can be made executes with the elements popped: the rings
stand as after the pops, and a register destination is EMPTY until the results, known already, arrive. With a queue destination it
commits first (R364), and its results become elements in flight; an instruction that pops fills them when the popped elements
arrive, and keeps its slot until then, as it does with a predicate as its destination (R366). That the predicate takes its value when
the elements are popped, and that one arrival brings the elements, the results and the flags, is the model's choice (log 22). -/
def Obligations.QueueOperands : Prop :=
  (∀ (i : Instr) (row : Row), tableRow i row →
    ∀ (s Q : State) (r : Run) (w : WaveId) (ms : List Nat) (popped : Map (Map Nat)) (d : Dst), Alone s i r w ms →
      s.decodeTrap i row.1.vnames r.group.pc w ms = none → (s.site i r w ms).lanes ≠ [] → row.1.Ready (s.wave w) →
      row.1.dst = some d → (s.advance (s.site i r w ms)).scanQueues (s.site i r w ms) row.1 = .ok Q popped →
        let y := s.site i r w ms
        let res := fun l => row.2 (fun o => s.value w row.1 popped o l) (s.thread (w.thread l)).pred
        let ls := if d.each then y.lanes else [nth 0 y.lanes 0]
        (∀ (s1 : State) (n : Nat), row.1.pops = true → queueOf d.op = none → row.1.Rows (s.advance y) w s1 →
          nth 0 d.codes 0 = n →
          ∃ t p q, exec i s = .next t ∧ mfind t.producers p = some q ∧ q.kind = .pop ∧ q.wid = w ∧ q.dest = n ∧ q.n = d.n ∧
            q.ty = d.ty ∧ q.lanes = ls.map (fun l => (l, LaneSrc.known (res l).1)) ∧
            q.flags = (ls.map fun l => (res l).2).foldl (· ||| ·) 0 ∧
            (∀ c ∈ d.codes, (t.wave w).isEmpty c = true) ∧ t.mem = Q.mem ∧
            ∀ l ∈ ms, (t.thread (w.thread l)).pc = pcPlus r.group.pc y.len) ∧
        (∀ (m : Nat) (C : State), queueOf d.op = some m →
          (((s.prepared (s.advance y) y row.1).takePops y row.1 y.lanes.length).clearLast y row.1 y.lanes).commitPush y row.1 = some C →
          let p := C.push y m (ls.map fun l => if row.1.pops then none else some (BitVec.ofNat 32 (d.ty.extend (res l).1)))
          let S := p.2
          ∃ t, exec i s = .next t ∧ t.mem = S.mem ∧ t.ringElems = S.ringElems ∧ t.ringWaits = S.ringWaits ∧
            (t.wave w).scalars = (S.wave w).scalars ∧ (∀ l ∈ ms, (t.thread (w.thread l)).pc = pcPlus r.group.pc y.len) ∧
            (row.1.pops = false → t.producers = S.producers) ∧
            (row.1.pops = true → Holds t s.cur w S.nextId ∧ ∃ q, mfind t.producers S.nextId = some q ∧ q.ty = d.ty ∧
              q.lanes = ls.map (fun l => (l, LaneSrc.known (res l).1)) ∧ q.elems = elemNums p.1 ls))) ∧
  ∀ (i : Instr) (p : Nat) (u : Use) (f : (Nat → Nat) → Bool × Nat), compareRow i = some (p, u, f) →
    ∀ (s Q : State) (r : Run) (w : WaveId) (ms : List Nat) (popped : Map (Map Nat)), Alone s i r w ms →
      s.decodeTrap i u.vnames r.group.pc w ms = none → (s.site i r w ms).lanes ≠ [] → u.Ready (s.wave w) → u.pops = true →
      (s.advance (s.site i r w ms)).scanQueues (s.site i r w ms) u = .ok Q popped →
        ∃ t n, exec i s = .next t ∧ t.mem = Q.mem ∧ Holds t s.cur w n ∧
          ∀ l ∈ (s.site i r w ms).lanes, 0 < p → p < 16 →
            (t.thread (w.thread l)).pred p = (f fun o => s.value w u popped o l).1

/-- R301, whole. -/
def Sys2Proof.Claims.PhasesPass : Prop :=
  (∀ p t : Nat, p < 65536 → t < 65536 →
    (phasePassed p t = true ↔ ∃ d : Nat, 1 ≤ d ∧ d ≤ 32767 ∧ ((p : Int) - t) % 65536 = d)) ∧
  ∀ t age : Nat, t < 65536 → 32767 < age → age < 65536 → phasePassed ((t + age) % 65536) t = false

/-- R16, whole: the numbers of a core, of its quad and of its die. -/
def Sys2Proof.Claims.CoreNumbers : Prop :=
  ∀ d q c : Nat, d < 64 → q < 8 → c < 4 →
    let n := d * 32 + q * 4 + c
    n < 2048 ∧ quadOf n % 8 = q ∧ quadOf n % 8 = n / 4 % 8 ∧ dieOf n = d ∧ dieOf n = n / 32

/-- R301 and R16, whole: which phases have passed at a phase count, and the numbers of a core, of its quad and of its die. -/
def Obligations.PhasesAndNumbers : Prop :=
  Sys2Proof.Claims.PhasesPass ∧ Sys2Proof.Claims.CoreNumbers

/-- R241 to R244, R247, R248, R253, R254: VFADD, VFSUB, VFMUL and VFFMA of finite operands deliver the exact sum, difference, product
or product-sum rounded once by their mode, and VCVT to a floating-point type the exact value of its source, a floating-point or an
integer one, without saturation and by a mode other than the stochastic one. -/
def Obligations.RoundingIsCorrect : Prop :=
  (∀ (x : FA) (v : Nat → Nat) (p : Nat → Bool),
    let f := x.hd.ty.ffmt
    let a := f.value (v 1)
    let b := f.value (v 2)
    let y := fun (i : Instr) => (vectorFloatRow i).map fun row => row.2 v p
    finite a = true → finite b = true → Head.mode x.hd ≠ .rs →
      (∃ r, y (.vfadd x) = some r ∧ Rounded f (Head.mode x.hd) (ratOf a + ratOf b) r.1 r.2) ∧
      (∃ r, y (.vfsub x) = some r ∧ Rounded f (Head.mode x.hd) (ratOf a - ratOf b) r.1 r.2) ∧
      ∃ r, y (.vfmul x) = some r ∧ Rounded f (Head.mode x.hd) (ratOf a * ratOf b) r.1 r.2) ∧
  (∀ (x : FC) (v : Nat → Nat) (p : Nat → Bool),
    let f := x.hd.ty.ffmt
    let a := f.value (v 1)
    let b := f.value (v 2)
    let c := f.value (v 3)
    finite a = true → finite b = true → finite c = true → Head.mode x.hd ≠ .rs →
      ∃ row, vectorFloatRow (.vffma x) = some row ∧
        Rounded f (Head.mode x.hd) (ratOf a * ratOf b + ratOf c) (row.2 v p).1 (row.2 v p).2) ∧
  ∀ (x : FC) (v : Nat → Nat) (p : Nat → Bool),
    let f := x.hd.ty.ffmt
    let src := Ty.ofCode (x.xmod.extractLsb' 0 4)
    let a := src.ffmt.value (v 1)
    x.hd.ty.isFloat = true → x.hd.md.getLsbD 3 = false → Head.mode x.hd ≠ .rs →
      ∃ row, vectorConvertRow (.vcvt x) = some row ∧
        (src.isFloat = true → finite a = true → Rounded f (Head.mode x.hd) (ratOf a) (row.2 v p).1 (row.2 v p).2) ∧
        (src.isFloat = false → Rounded f (Head.mode x.hd) ((src.val (v 1) : Int) : Rat) (row.2 v p).1 (row.2 v p).2)
end

