-- ==== Sys2Proof/Laws/State.lean ====
section
/-! SUPPORT. One lemma per field of the state and per update of it. -/

namespace Sys2Proof.Machine

open Sys2Proof

@[simp] theorem updBlk_mem (s : State) (b : Nat) (f : Block → Block) : (s.updBlk b f).mem = s.mem := rfl
@[simp] theorem updBlk_cores (s : State) (b : Nat) (f : Block → Block) : (s.updBlk b f).cores = s.cores := rfl
@[simp] theorem updBlk_ctxs (s : State) (b : Nat) (f : Block → Block) : (s.updBlk b f).ctxs = s.ctxs := rfl
@[simp] theorem updBlk_queues (s : State) (b : Nat) (f : Block → Block) : (s.updBlk b f).queues = s.queues := rfl
@[simp] theorem updBlk_queueRest (s : State) (b : Nat) (f : Block → Block) : (s.updBlk b f).queueRest = s.queueRest := rfl
@[simp] theorem updBlk_launches (s : State) (b : Nat) (f : Block → Block) : (s.updBlk b f).launches = s.launches := rfl
@[simp] theorem updBlk_recs (s : State) (b : Nat) (f : Block → Block) : (s.updBlk b f).recs = s.recs := rfl
@[simp] theorem updBlk_shadows (s : State) (b : Nat) (f : Block → Block) : (s.updBlk b f).shadows = s.shadows := rfl
@[simp] theorem updBlk_filters (s : State) (b : Nat) (f : Block → Block) : (s.updBlk b f).filters = s.filters := rfl
@[simp] theorem updBlk_barObjs (s : State) (b : Nat) (f : Block → Block) : (s.updBlk b f).barObjs = s.barObjs := rfl
@[simp] theorem updBlk_ringObjs (s : State) (b : Nat) (f : Block → Block) : (s.updBlk b f).ringObjs = s.ringObjs := rfl
@[simp] theorem updBlk_ringWaits (s : State) (b : Nat) (f : Block → Block) : (s.updBlk b f).ringWaits = s.ringWaits := rfl
@[simp] theorem updBlk_ringElems (s : State) (b : Nat) (f : Block → Block) : (s.updBlk b f).ringElems = s.ringElems := rfl
@[simp] theorem updBlk_producers (s : State) (b : Nat) (f : Block → Block) : (s.updBlk b f).producers = s.producers := rfl
@[simp] theorem updBlk_commits (s : State) (b : Nat) (f : Block → Block) : (s.updBlk b f).commits = s.commits := rfl
@[simp] theorem updBlk_remotes (s : State) (b : Nat) (f : Block → Block) : (s.updBlk b f).remotes = s.remotes := rfl
@[simp] theorem updBlk_copies (s : State) (b : Nat) (f : Block → Block) : (s.updBlk b f).copies = s.copies := rfl
@[simp] theorem updBlk_batches (s : State) (b : Nat) (f : Block → Block) : (s.updBlk b f).batches = s.batches := rfl
@[simp] theorem updBlk_credits (s : State) (b : Nat) (f : Block → Block) : (s.updBlk b f).credits = s.credits := rfl
@[simp] theorem updBlk_arrivals (s : State) (b : Nat) (f : Block → Block) : (s.updBlk b f).arrivals = s.arrivals := rfl
@[simp] theorem updBlk_notices (s : State) (b : Nat) (f : Block → Block) : (s.updBlk b f).notices = s.notices := rfl
@[simp] theorem updBlk_msts (s : State) (b : Nat) (f : Block → Block) : (s.updBlk b f).msts = s.msts := rfl
@[simp] theorem updBlk_msReqs (s : State) (b : Nat) (f : Block → Block) : (s.updBlk b f).msReqs = s.msReqs := rfl
@[simp] theorem updBlk_fperms (s : State) (b : Nat) (f : Block → Block) : (s.updBlk b f).fperms = s.fperms := rfl
@[simp] theorem updBlk_parked (s : State) (b : Nat) (f : Block → Block) : (s.updBlk b f).parked = s.parked := rfl
@[simp] theorem updBlk_sfcfg (s : State) (b : Nat) (f : Block → Block) : (s.updBlk b f).sfcfg = s.sfcfg := rfl
@[simp] theorem updBlk_cal (s : State) (b : Nat) (f : Block → Block) : (s.updBlk b f).cal = s.cal := rfl
@[simp] theorem updBlk_pe (s : State) (b : Nat) (f : Block → Block) : (s.updBlk b f).pe = s.pe := rfl
@[simp] theorem updBlk_permSends (s : State) (b : Nat) (f : Block → Block) : (s.updBlk b f).permSends = s.permSends := rfl
@[simp] theorem updBlk_mc (s : State) (b : Nat) (f : Block → Block) : (s.updBlk b f).mc = s.mc := rfl
@[simp] theorem updBlk_fe (s : State) (b : Nat) (f : Block → Block) : (s.updBlk b f).fe = s.fe := rfl
@[simp] theorem updBlk_mxSaved (s : State) (b : Nat) (f : Block → Block) : (s.updBlk b f).mxSaved = s.mxSaved := rfl
@[simp] theorem updBlk_pkgid (s : State) (b : Nat) (f : Block → Block) : (s.updBlk b f).pkgid = s.pkgid := rfl
@[simp] theorem updBlk_podTime (s : State) (b : Nat) (f : Block → Block) : (s.updBlk b f).podTime = s.podTime := rfl
@[simp] theorem updBlk_agenda (s : State) (b : Nat) (f : Block → Block) : (s.updBlk b f).agenda = s.agenda := rfl
@[simp] theorem updBlk_cur (s : State) (b : Nat) (f : Block → Block) : (s.updBlk b f).cur = s.cur := rfl
@[simp] theorem updBlk_cycle (s : State) (b : Nat) (f : Block → Block) : (s.updBlk b f).cycle = s.cycle := rfl
@[simp] theorem updBlk_ns (s : State) (b : Nat) (f : Block → Block) : (s.updBlk b f).ns = s.ns := rfl
@[simp] theorem updBlk_nextId (s : State) (b : Nat) (f : Block → Block) : (s.updBlk b f).nextId = s.nextId := rfl
@[simp] theorem updBlk_free (s : State) (b : Nat) (f : Block → Block) : (s.updBlk b f).free = s.free := rfl
@[simp] theorem updBlk_out (s : State) (b : Nat) (f : Block → Block) : (s.updBlk b f).out = s.out := rfl

@[simp] theorem updWave_mem (s : State) (w : WaveId) (f : Wave → Wave) : (s.updWave w f).mem = s.mem := rfl
@[simp] theorem updWave_cores (s : State) (w : WaveId) (f : Wave → Wave) : (s.updWave w f).cores = s.cores := rfl
@[simp] theorem updWave_ctxs (s : State) (w : WaveId) (f : Wave → Wave) : (s.updWave w f).ctxs = s.ctxs := rfl
@[simp] theorem updWave_queues (s : State) (w : WaveId) (f : Wave → Wave) : (s.updWave w f).queues = s.queues := rfl
@[simp] theorem updWave_queueRest (s : State) (w : WaveId) (f : Wave → Wave) : (s.updWave w f).queueRest = s.queueRest := rfl
@[simp] theorem updWave_launches (s : State) (w : WaveId) (f : Wave → Wave) : (s.updWave w f).launches = s.launches := rfl
@[simp] theorem updWave_recs (s : State) (w : WaveId) (f : Wave → Wave) : (s.updWave w f).recs = s.recs := rfl
@[simp] theorem updWave_shadows (s : State) (w : WaveId) (f : Wave → Wave) : (s.updWave w f).shadows = s.shadows := rfl
@[simp] theorem updWave_filters (s : State) (w : WaveId) (f : Wave → Wave) : (s.updWave w f).filters = s.filters := rfl
@[simp] theorem updWave_barObjs (s : State) (w : WaveId) (f : Wave → Wave) : (s.updWave w f).barObjs = s.barObjs := rfl
@[simp] theorem updWave_ringObjs (s : State) (w : WaveId) (f : Wave → Wave) : (s.updWave w f).ringObjs = s.ringObjs := rfl
@[simp] theorem updWave_ringWaits (s : State) (w : WaveId) (f : Wave → Wave) : (s.updWave w f).ringWaits = s.ringWaits := rfl
@[simp] theorem updWave_ringElems (s : State) (w : WaveId) (f : Wave → Wave) : (s.updWave w f).ringElems = s.ringElems := rfl
@[simp] theorem updWave_producers (s : State) (w : WaveId) (f : Wave → Wave) : (s.updWave w f).producers = s.producers := rfl
@[simp] theorem updWave_commits (s : State) (w : WaveId) (f : Wave → Wave) : (s.updWave w f).commits = s.commits := rfl
@[simp] theorem updWave_remotes (s : State) (w : WaveId) (f : Wave → Wave) : (s.updWave w f).remotes = s.remotes := rfl
@[simp] theorem updWave_copies (s : State) (w : WaveId) (f : Wave → Wave) : (s.updWave w f).copies = s.copies := rfl
@[simp] theorem updWave_batches (s : State) (w : WaveId) (f : Wave → Wave) : (s.updWave w f).batches = s.batches := rfl
@[simp] theorem updWave_credits (s : State) (w : WaveId) (f : Wave → Wave) : (s.updWave w f).credits = s.credits := rfl
@[simp] theorem updWave_arrivals (s : State) (w : WaveId) (f : Wave → Wave) : (s.updWave w f).arrivals = s.arrivals := rfl
@[simp] theorem updWave_notices (s : State) (w : WaveId) (f : Wave → Wave) : (s.updWave w f).notices = s.notices := rfl
@[simp] theorem updWave_msts (s : State) (w : WaveId) (f : Wave → Wave) : (s.updWave w f).msts = s.msts := rfl
@[simp] theorem updWave_msReqs (s : State) (w : WaveId) (f : Wave → Wave) : (s.updWave w f).msReqs = s.msReqs := rfl
@[simp] theorem updWave_fperms (s : State) (w : WaveId) (f : Wave → Wave) : (s.updWave w f).fperms = s.fperms := rfl
@[simp] theorem updWave_parked (s : State) (w : WaveId) (f : Wave → Wave) : (s.updWave w f).parked = s.parked := rfl
@[simp] theorem updWave_sfcfg (s : State) (w : WaveId) (f : Wave → Wave) : (s.updWave w f).sfcfg = s.sfcfg := rfl
@[simp] theorem updWave_cal (s : State) (w : WaveId) (f : Wave → Wave) : (s.updWave w f).cal = s.cal := rfl
@[simp] theorem updWave_pe (s : State) (w : WaveId) (f : Wave → Wave) : (s.updWave w f).pe = s.pe := rfl
@[simp] theorem updWave_permSends (s : State) (w : WaveId) (f : Wave → Wave) : (s.updWave w f).permSends = s.permSends := rfl
@[simp] theorem updWave_mc (s : State) (w : WaveId) (f : Wave → Wave) : (s.updWave w f).mc = s.mc := rfl
@[simp] theorem updWave_fe (s : State) (w : WaveId) (f : Wave → Wave) : (s.updWave w f).fe = s.fe := rfl
@[simp] theorem updWave_mxSaved (s : State) (w : WaveId) (f : Wave → Wave) : (s.updWave w f).mxSaved = s.mxSaved := rfl
@[simp] theorem updWave_pkgid (s : State) (w : WaveId) (f : Wave → Wave) : (s.updWave w f).pkgid = s.pkgid := rfl
@[simp] theorem updWave_podTime (s : State) (w : WaveId) (f : Wave → Wave) : (s.updWave w f).podTime = s.podTime := rfl
@[simp] theorem updWave_agenda (s : State) (w : WaveId) (f : Wave → Wave) : (s.updWave w f).agenda = s.agenda := rfl
@[simp] theorem updWave_cur (s : State) (w : WaveId) (f : Wave → Wave) : (s.updWave w f).cur = s.cur := rfl
@[simp] theorem updWave_cycle (s : State) (w : WaveId) (f : Wave → Wave) : (s.updWave w f).cycle = s.cycle := rfl
@[simp] theorem updWave_ns (s : State) (w : WaveId) (f : Wave → Wave) : (s.updWave w f).ns = s.ns := rfl
@[simp] theorem updWave_nextId (s : State) (w : WaveId) (f : Wave → Wave) : (s.updWave w f).nextId = s.nextId := rfl
@[simp] theorem updWave_free (s : State) (w : WaveId) (f : Wave → Wave) : (s.updWave w f).free = s.free := rfl
@[simp] theorem updWave_out (s : State) (w : WaveId) (f : Wave → Wave) : (s.updWave w f).out = s.out := rfl

@[simp] theorem updThread_mem (s : State) (t : ThreadId) (f : Thread → Thread) : (s.updThread t f).mem = s.mem := rfl
@[simp] theorem updThread_cores (s : State) (t : ThreadId) (f : Thread → Thread) : (s.updThread t f).cores = s.cores := rfl
@[simp] theorem updThread_ctxs (s : State) (t : ThreadId) (f : Thread → Thread) : (s.updThread t f).ctxs = s.ctxs := rfl
@[simp] theorem updThread_queues (s : State) (t : ThreadId) (f : Thread → Thread) : (s.updThread t f).queues = s.queues := rfl
@[simp] theorem updThread_queueRest (s : State) (t : ThreadId) (f : Thread → Thread) : (s.updThread t f).queueRest = s.queueRest := rfl
@[simp] theorem updThread_launches (s : State) (t : ThreadId) (f : Thread → Thread) : (s.updThread t f).launches = s.launches := rfl
@[simp] theorem updThread_recs (s : State) (t : ThreadId) (f : Thread → Thread) : (s.updThread t f).recs = s.recs := rfl
@[simp] theorem updThread_shadows (s : State) (t : ThreadId) (f : Thread → Thread) : (s.updThread t f).shadows = s.shadows := rfl
@[simp] theorem updThread_filters (s : State) (t : ThreadId) (f : Thread → Thread) : (s.updThread t f).filters = s.filters := rfl
@[simp] theorem updThread_barObjs (s : State) (t : ThreadId) (f : Thread → Thread) : (s.updThread t f).barObjs = s.barObjs := rfl
@[simp] theorem updThread_ringObjs (s : State) (t : ThreadId) (f : Thread → Thread) : (s.updThread t f).ringObjs = s.ringObjs := rfl
@[simp] theorem updThread_ringWaits (s : State) (t : ThreadId) (f : Thread → Thread) : (s.updThread t f).ringWaits = s.ringWaits := rfl
@[simp] theorem updThread_ringElems (s : State) (t : ThreadId) (f : Thread → Thread) : (s.updThread t f).ringElems = s.ringElems := rfl
@[simp] theorem updThread_producers (s : State) (t : ThreadId) (f : Thread → Thread) : (s.updThread t f).producers = s.producers := rfl
@[simp] theorem updThread_commits (s : State) (t : ThreadId) (f : Thread → Thread) : (s.updThread t f).commits = s.commits := rfl
@[simp] theorem updThread_remotes (s : State) (t : ThreadId) (f : Thread → Thread) : (s.updThread t f).remotes = s.remotes := rfl
@[simp] theorem updThread_copies (s : State) (t : ThreadId) (f : Thread → Thread) : (s.updThread t f).copies = s.copies := rfl
@[simp] theorem updThread_batches (s : State) (t : ThreadId) (f : Thread → Thread) : (s.updThread t f).batches = s.batches := rfl
@[simp] theorem updThread_credits (s : State) (t : ThreadId) (f : Thread → Thread) : (s.updThread t f).credits = s.credits := rfl
@[simp] theorem updThread_arrivals (s : State) (t : ThreadId) (f : Thread → Thread) : (s.updThread t f).arrivals = s.arrivals := rfl
@[simp] theorem updThread_notices (s : State) (t : ThreadId) (f : Thread → Thread) : (s.updThread t f).notices = s.notices := rfl
@[simp] theorem updThread_msts (s : State) (t : ThreadId) (f : Thread → Thread) : (s.updThread t f).msts = s.msts := rfl
@[simp] theorem updThread_msReqs (s : State) (t : ThreadId) (f : Thread → Thread) : (s.updThread t f).msReqs = s.msReqs := rfl
@[simp] theorem updThread_fperms (s : State) (t : ThreadId) (f : Thread → Thread) : (s.updThread t f).fperms = s.fperms := rfl
@[simp] theorem updThread_parked (s : State) (t : ThreadId) (f : Thread → Thread) : (s.updThread t f).parked = s.parked := rfl
@[simp] theorem updThread_sfcfg (s : State) (t : ThreadId) (f : Thread → Thread) : (s.updThread t f).sfcfg = s.sfcfg := rfl
@[simp] theorem updThread_cal (s : State) (t : ThreadId) (f : Thread → Thread) : (s.updThread t f).cal = s.cal := rfl
@[simp] theorem updThread_pe (s : State) (t : ThreadId) (f : Thread → Thread) : (s.updThread t f).pe = s.pe := rfl
@[simp] theorem updThread_permSends (s : State) (t : ThreadId) (f : Thread → Thread) : (s.updThread t f).permSends = s.permSends := rfl
@[simp] theorem updThread_mc (s : State) (t : ThreadId) (f : Thread → Thread) : (s.updThread t f).mc = s.mc := rfl
@[simp] theorem updThread_fe (s : State) (t : ThreadId) (f : Thread → Thread) : (s.updThread t f).fe = s.fe := rfl
@[simp] theorem updThread_mxSaved (s : State) (t : ThreadId) (f : Thread → Thread) : (s.updThread t f).mxSaved = s.mxSaved := rfl
@[simp] theorem updThread_pkgid (s : State) (t : ThreadId) (f : Thread → Thread) : (s.updThread t f).pkgid = s.pkgid := rfl
@[simp] theorem updThread_podTime (s : State) (t : ThreadId) (f : Thread → Thread) : (s.updThread t f).podTime = s.podTime := rfl
@[simp] theorem updThread_agenda (s : State) (t : ThreadId) (f : Thread → Thread) : (s.updThread t f).agenda = s.agenda := rfl
@[simp] theorem updThread_cur (s : State) (t : ThreadId) (f : Thread → Thread) : (s.updThread t f).cur = s.cur := rfl
@[simp] theorem updThread_cycle (s : State) (t : ThreadId) (f : Thread → Thread) : (s.updThread t f).cycle = s.cycle := rfl
@[simp] theorem updThread_ns (s : State) (t : ThreadId) (f : Thread → Thread) : (s.updThread t f).ns = s.ns := rfl
@[simp] theorem updThread_nextId (s : State) (t : ThreadId) (f : Thread → Thread) : (s.updThread t f).nextId = s.nextId := rfl
@[simp] theorem updThread_free (s : State) (t : ThreadId) (f : Thread → Thread) : (s.updThread t f).free = s.free := rfl
@[simp] theorem updThread_out (s : State) (t : ThreadId) (f : Thread → Thread) : (s.updThread t f).out = s.out := rfl

@[simp] theorem updCore_mem (s : State) (c : Nat) (f : Core → Core) : (s.updCore c f).mem = s.mem := rfl
@[simp] theorem updCore_blocks (s : State) (c : Nat) (f : Core → Core) : (s.updCore c f).blocks = s.blocks := rfl
@[simp] theorem updCore_ctxs (s : State) (c : Nat) (f : Core → Core) : (s.updCore c f).ctxs = s.ctxs := rfl
@[simp] theorem updCore_queues (s : State) (c : Nat) (f : Core → Core) : (s.updCore c f).queues = s.queues := rfl
@[simp] theorem updCore_queueRest (s : State) (c : Nat) (f : Core → Core) : (s.updCore c f).queueRest = s.queueRest := rfl
@[simp] theorem updCore_launches (s : State) (c : Nat) (f : Core → Core) : (s.updCore c f).launches = s.launches := rfl
@[simp] theorem updCore_recs (s : State) (c : Nat) (f : Core → Core) : (s.updCore c f).recs = s.recs := rfl
@[simp] theorem updCore_shadows (s : State) (c : Nat) (f : Core → Core) : (s.updCore c f).shadows = s.shadows := rfl
@[simp] theorem updCore_filters (s : State) (c : Nat) (f : Core → Core) : (s.updCore c f).filters = s.filters := rfl
@[simp] theorem updCore_barObjs (s : State) (c : Nat) (f : Core → Core) : (s.updCore c f).barObjs = s.barObjs := rfl
@[simp] theorem updCore_ringObjs (s : State) (c : Nat) (f : Core → Core) : (s.updCore c f).ringObjs = s.ringObjs := rfl
@[simp] theorem updCore_ringWaits (s : State) (c : Nat) (f : Core → Core) : (s.updCore c f).ringWaits = s.ringWaits := rfl
@[simp] theorem updCore_ringElems (s : State) (c : Nat) (f : Core → Core) : (s.updCore c f).ringElems = s.ringElems := rfl
@[simp] theorem updCore_producers (s : State) (c : Nat) (f : Core → Core) : (s.updCore c f).producers = s.producers := rfl
@[simp] theorem updCore_commits (s : State) (c : Nat) (f : Core → Core) : (s.updCore c f).commits = s.commits := rfl
@[simp] theorem updCore_remotes (s : State) (c : Nat) (f : Core → Core) : (s.updCore c f).remotes = s.remotes := rfl
@[simp] theorem updCore_copies (s : State) (c : Nat) (f : Core → Core) : (s.updCore c f).copies = s.copies := rfl
@[simp] theorem updCore_batches (s : State) (c : Nat) (f : Core → Core) : (s.updCore c f).batches = s.batches := rfl
@[simp] theorem updCore_credits (s : State) (c : Nat) (f : Core → Core) : (s.updCore c f).credits = s.credits := rfl
@[simp] theorem updCore_arrivals (s : State) (c : Nat) (f : Core → Core) : (s.updCore c f).arrivals = s.arrivals := rfl
@[simp] theorem updCore_notices (s : State) (c : Nat) (f : Core → Core) : (s.updCore c f).notices = s.notices := rfl
@[simp] theorem updCore_msts (s : State) (c : Nat) (f : Core → Core) : (s.updCore c f).msts = s.msts := rfl
@[simp] theorem updCore_msReqs (s : State) (c : Nat) (f : Core → Core) : (s.updCore c f).msReqs = s.msReqs := rfl
@[simp] theorem updCore_fperms (s : State) (c : Nat) (f : Core → Core) : (s.updCore c f).fperms = s.fperms := rfl
@[simp] theorem updCore_parked (s : State) (c : Nat) (f : Core → Core) : (s.updCore c f).parked = s.parked := rfl
@[simp] theorem updCore_sfcfg (s : State) (c : Nat) (f : Core → Core) : (s.updCore c f).sfcfg = s.sfcfg := rfl
@[simp] theorem updCore_cal (s : State) (c : Nat) (f : Core → Core) : (s.updCore c f).cal = s.cal := rfl
@[simp] theorem updCore_pe (s : State) (c : Nat) (f : Core → Core) : (s.updCore c f).pe = s.pe := rfl
@[simp] theorem updCore_permSends (s : State) (c : Nat) (f : Core → Core) : (s.updCore c f).permSends = s.permSends := rfl
@[simp] theorem updCore_mc (s : State) (c : Nat) (f : Core → Core) : (s.updCore c f).mc = s.mc := rfl
@[simp] theorem updCore_fe (s : State) (c : Nat) (f : Core → Core) : (s.updCore c f).fe = s.fe := rfl
@[simp] theorem updCore_mxSaved (s : State) (c : Nat) (f : Core → Core) : (s.updCore c f).mxSaved = s.mxSaved := rfl
@[simp] theorem updCore_pkgid (s : State) (c : Nat) (f : Core → Core) : (s.updCore c f).pkgid = s.pkgid := rfl
@[simp] theorem updCore_podTime (s : State) (c : Nat) (f : Core → Core) : (s.updCore c f).podTime = s.podTime := rfl
@[simp] theorem updCore_agenda (s : State) (c : Nat) (f : Core → Core) : (s.updCore c f).agenda = s.agenda := rfl
@[simp] theorem updCore_cur (s : State) (c : Nat) (f : Core → Core) : (s.updCore c f).cur = s.cur := rfl
@[simp] theorem updCore_cycle (s : State) (c : Nat) (f : Core → Core) : (s.updCore c f).cycle = s.cycle := rfl
@[simp] theorem updCore_ns (s : State) (c : Nat) (f : Core → Core) : (s.updCore c f).ns = s.ns := rfl
@[simp] theorem updCore_nextId (s : State) (c : Nat) (f : Core → Core) : (s.updCore c f).nextId = s.nextId := rfl
@[simp] theorem updCore_free (s : State) (c : Nat) (f : Core → Core) : (s.updCore c f).free = s.free := rfl
@[simp] theorem updCore_out (s : State) (c : Nat) (f : Core → Core) : (s.updCore c f).out = s.out := rfl

@[simp] theorem updSlot_mem (s : State) (c k : Nat) (f : Slot → Slot) : (s.updSlot c k f).mem = s.mem := rfl
@[simp] theorem updSlot_blocks (s : State) (c k : Nat) (f : Slot → Slot) : (s.updSlot c k f).blocks = s.blocks := rfl
@[simp] theorem updSlot_ctxs (s : State) (c k : Nat) (f : Slot → Slot) : (s.updSlot c k f).ctxs = s.ctxs := rfl
@[simp] theorem updSlot_queues (s : State) (c k : Nat) (f : Slot → Slot) : (s.updSlot c k f).queues = s.queues := rfl
@[simp] theorem updSlot_queueRest (s : State) (c k : Nat) (f : Slot → Slot) : (s.updSlot c k f).queueRest = s.queueRest := rfl
@[simp] theorem updSlot_launches (s : State) (c k : Nat) (f : Slot → Slot) : (s.updSlot c k f).launches = s.launches := rfl
@[simp] theorem updSlot_recs (s : State) (c k : Nat) (f : Slot → Slot) : (s.updSlot c k f).recs = s.recs := rfl
@[simp] theorem updSlot_shadows (s : State) (c k : Nat) (f : Slot → Slot) : (s.updSlot c k f).shadows = s.shadows := rfl
@[simp] theorem updSlot_filters (s : State) (c k : Nat) (f : Slot → Slot) : (s.updSlot c k f).filters = s.filters := rfl
@[simp] theorem updSlot_barObjs (s : State) (c k : Nat) (f : Slot → Slot) : (s.updSlot c k f).barObjs = s.barObjs := rfl
@[simp] theorem updSlot_ringObjs (s : State) (c k : Nat) (f : Slot → Slot) : (s.updSlot c k f).ringObjs = s.ringObjs := rfl
@[simp] theorem updSlot_ringWaits (s : State) (c k : Nat) (f : Slot → Slot) : (s.updSlot c k f).ringWaits = s.ringWaits := rfl
@[simp] theorem updSlot_ringElems (s : State) (c k : Nat) (f : Slot → Slot) : (s.updSlot c k f).ringElems = s.ringElems := rfl
@[simp] theorem updSlot_producers (s : State) (c k : Nat) (f : Slot → Slot) : (s.updSlot c k f).producers = s.producers := rfl
@[simp] theorem updSlot_commits (s : State) (c k : Nat) (f : Slot → Slot) : (s.updSlot c k f).commits = s.commits := rfl
@[simp] theorem updSlot_remotes (s : State) (c k : Nat) (f : Slot → Slot) : (s.updSlot c k f).remotes = s.remotes := rfl
@[simp] theorem updSlot_copies (s : State) (c k : Nat) (f : Slot → Slot) : (s.updSlot c k f).copies = s.copies := rfl
@[simp] theorem updSlot_batches (s : State) (c k : Nat) (f : Slot → Slot) : (s.updSlot c k f).batches = s.batches := rfl
@[simp] theorem updSlot_credits (s : State) (c k : Nat) (f : Slot → Slot) : (s.updSlot c k f).credits = s.credits := rfl
@[simp] theorem updSlot_arrivals (s : State) (c k : Nat) (f : Slot → Slot) : (s.updSlot c k f).arrivals = s.arrivals := rfl
@[simp] theorem updSlot_notices (s : State) (c k : Nat) (f : Slot → Slot) : (s.updSlot c k f).notices = s.notices := rfl
@[simp] theorem updSlot_msts (s : State) (c k : Nat) (f : Slot → Slot) : (s.updSlot c k f).msts = s.msts := rfl
@[simp] theorem updSlot_msReqs (s : State) (c k : Nat) (f : Slot → Slot) : (s.updSlot c k f).msReqs = s.msReqs := rfl
@[simp] theorem updSlot_fperms (s : State) (c k : Nat) (f : Slot → Slot) : (s.updSlot c k f).fperms = s.fperms := rfl
@[simp] theorem updSlot_parked (s : State) (c k : Nat) (f : Slot → Slot) : (s.updSlot c k f).parked = s.parked := rfl
@[simp] theorem updSlot_sfcfg (s : State) (c k : Nat) (f : Slot → Slot) : (s.updSlot c k f).sfcfg = s.sfcfg := rfl
@[simp] theorem updSlot_cal (s : State) (c k : Nat) (f : Slot → Slot) : (s.updSlot c k f).cal = s.cal := rfl
@[simp] theorem updSlot_pe (s : State) (c k : Nat) (f : Slot → Slot) : (s.updSlot c k f).pe = s.pe := rfl
@[simp] theorem updSlot_permSends (s : State) (c k : Nat) (f : Slot → Slot) : (s.updSlot c k f).permSends = s.permSends := rfl
@[simp] theorem updSlot_mc (s : State) (c k : Nat) (f : Slot → Slot) : (s.updSlot c k f).mc = s.mc := rfl
@[simp] theorem updSlot_fe (s : State) (c k : Nat) (f : Slot → Slot) : (s.updSlot c k f).fe = s.fe := rfl
@[simp] theorem updSlot_mxSaved (s : State) (c k : Nat) (f : Slot → Slot) : (s.updSlot c k f).mxSaved = s.mxSaved := rfl
@[simp] theorem updSlot_pkgid (s : State) (c k : Nat) (f : Slot → Slot) : (s.updSlot c k f).pkgid = s.pkgid := rfl
@[simp] theorem updSlot_podTime (s : State) (c k : Nat) (f : Slot → Slot) : (s.updSlot c k f).podTime = s.podTime := rfl
@[simp] theorem updSlot_agenda (s : State) (c k : Nat) (f : Slot → Slot) : (s.updSlot c k f).agenda = s.agenda := rfl
@[simp] theorem updSlot_cur (s : State) (c k : Nat) (f : Slot → Slot) : (s.updSlot c k f).cur = s.cur := rfl
@[simp] theorem updSlot_cycle (s : State) (c k : Nat) (f : Slot → Slot) : (s.updSlot c k f).cycle = s.cycle := rfl
@[simp] theorem updSlot_ns (s : State) (c k : Nat) (f : Slot → Slot) : (s.updSlot c k f).ns = s.ns := rfl
@[simp] theorem updSlot_nextId (s : State) (c k : Nat) (f : Slot → Slot) : (s.updSlot c k f).nextId = s.nextId := rfl
@[simp] theorem updSlot_free (s : State) (c k : Nat) (f : Slot → Slot) : (s.updSlot c k f).free = s.free := rfl
@[simp] theorem updSlot_out (s : State) (c k : Nat) (f : Slot → Slot) : (s.updSlot c k f).out = s.out := rfl

@[simp] theorem updCtx_mem (s : State) (c : Nat) (f : Ctx → Ctx) : (s.updCtx c f).mem = s.mem := rfl
@[simp] theorem updCtx_blocks (s : State) (c : Nat) (f : Ctx → Ctx) : (s.updCtx c f).blocks = s.blocks := rfl
@[simp] theorem updCtx_cores (s : State) (c : Nat) (f : Ctx → Ctx) : (s.updCtx c f).cores = s.cores := rfl
@[simp] theorem updCtx_queues (s : State) (c : Nat) (f : Ctx → Ctx) : (s.updCtx c f).queues = s.queues := rfl
@[simp] theorem updCtx_queueRest (s : State) (c : Nat) (f : Ctx → Ctx) : (s.updCtx c f).queueRest = s.queueRest := rfl
@[simp] theorem updCtx_launches (s : State) (c : Nat) (f : Ctx → Ctx) : (s.updCtx c f).launches = s.launches := rfl
@[simp] theorem updCtx_recs (s : State) (c : Nat) (f : Ctx → Ctx) : (s.updCtx c f).recs = s.recs := rfl
@[simp] theorem updCtx_shadows (s : State) (c : Nat) (f : Ctx → Ctx) : (s.updCtx c f).shadows = s.shadows := rfl
@[simp] theorem updCtx_filters (s : State) (c : Nat) (f : Ctx → Ctx) : (s.updCtx c f).filters = s.filters := rfl
@[simp] theorem updCtx_barObjs (s : State) (c : Nat) (f : Ctx → Ctx) : (s.updCtx c f).barObjs = s.barObjs := rfl
@[simp] theorem updCtx_ringObjs (s : State) (c : Nat) (f : Ctx → Ctx) : (s.updCtx c f).ringObjs = s.ringObjs := rfl
@[simp] theorem updCtx_ringWaits (s : State) (c : Nat) (f : Ctx → Ctx) : (s.updCtx c f).ringWaits = s.ringWaits := rfl
@[simp] theorem updCtx_ringElems (s : State) (c : Nat) (f : Ctx → Ctx) : (s.updCtx c f).ringElems = s.ringElems := rfl
@[simp] theorem updCtx_producers (s : State) (c : Nat) (f : Ctx → Ctx) : (s.updCtx c f).producers = s.producers := rfl
@[simp] theorem updCtx_commits (s : State) (c : Nat) (f : Ctx → Ctx) : (s.updCtx c f).commits = s.commits := rfl
@[simp] theorem updCtx_remotes (s : State) (c : Nat) (f : Ctx → Ctx) : (s.updCtx c f).remotes = s.remotes := rfl
@[simp] theorem updCtx_copies (s : State) (c : Nat) (f : Ctx → Ctx) : (s.updCtx c f).copies = s.copies := rfl
@[simp] theorem updCtx_batches (s : State) (c : Nat) (f : Ctx → Ctx) : (s.updCtx c f).batches = s.batches := rfl
@[simp] theorem updCtx_credits (s : State) (c : Nat) (f : Ctx → Ctx) : (s.updCtx c f).credits = s.credits := rfl
@[simp] theorem updCtx_arrivals (s : State) (c : Nat) (f : Ctx → Ctx) : (s.updCtx c f).arrivals = s.arrivals := rfl
@[simp] theorem updCtx_notices (s : State) (c : Nat) (f : Ctx → Ctx) : (s.updCtx c f).notices = s.notices := rfl
@[simp] theorem updCtx_msts (s : State) (c : Nat) (f : Ctx → Ctx) : (s.updCtx c f).msts = s.msts := rfl
@[simp] theorem updCtx_msReqs (s : State) (c : Nat) (f : Ctx → Ctx) : (s.updCtx c f).msReqs = s.msReqs := rfl
@[simp] theorem updCtx_fperms (s : State) (c : Nat) (f : Ctx → Ctx) : (s.updCtx c f).fperms = s.fperms := rfl
@[simp] theorem updCtx_parked (s : State) (c : Nat) (f : Ctx → Ctx) : (s.updCtx c f).parked = s.parked := rfl
@[simp] theorem updCtx_sfcfg (s : State) (c : Nat) (f : Ctx → Ctx) : (s.updCtx c f).sfcfg = s.sfcfg := rfl
@[simp] theorem updCtx_cal (s : State) (c : Nat) (f : Ctx → Ctx) : (s.updCtx c f).cal = s.cal := rfl
@[simp] theorem updCtx_pe (s : State) (c : Nat) (f : Ctx → Ctx) : (s.updCtx c f).pe = s.pe := rfl
@[simp] theorem updCtx_permSends (s : State) (c : Nat) (f : Ctx → Ctx) : (s.updCtx c f).permSends = s.permSends := rfl
@[simp] theorem updCtx_mc (s : State) (c : Nat) (f : Ctx → Ctx) : (s.updCtx c f).mc = s.mc := rfl
@[simp] theorem updCtx_fe (s : State) (c : Nat) (f : Ctx → Ctx) : (s.updCtx c f).fe = s.fe := rfl
@[simp] theorem updCtx_mxSaved (s : State) (c : Nat) (f : Ctx → Ctx) : (s.updCtx c f).mxSaved = s.mxSaved := rfl
@[simp] theorem updCtx_pkgid (s : State) (c : Nat) (f : Ctx → Ctx) : (s.updCtx c f).pkgid = s.pkgid := rfl
@[simp] theorem updCtx_podTime (s : State) (c : Nat) (f : Ctx → Ctx) : (s.updCtx c f).podTime = s.podTime := rfl
@[simp] theorem updCtx_agenda (s : State) (c : Nat) (f : Ctx → Ctx) : (s.updCtx c f).agenda = s.agenda := rfl
@[simp] theorem updCtx_cur (s : State) (c : Nat) (f : Ctx → Ctx) : (s.updCtx c f).cur = s.cur := rfl
@[simp] theorem updCtx_cycle (s : State) (c : Nat) (f : Ctx → Ctx) : (s.updCtx c f).cycle = s.cycle := rfl
@[simp] theorem updCtx_ns (s : State) (c : Nat) (f : Ctx → Ctx) : (s.updCtx c f).ns = s.ns := rfl
@[simp] theorem updCtx_nextId (s : State) (c : Nat) (f : Ctx → Ctx) : (s.updCtx c f).nextId = s.nextId := rfl
@[simp] theorem updCtx_free (s : State) (c : Nat) (f : Ctx → Ctx) : (s.updCtx c f).free = s.free := rfl
@[simp] theorem updCtx_out (s : State) (c : Nat) (f : Ctx → Ctx) : (s.updCtx c f).out = s.out := rfl

@[simp] theorem updQueue_mem (s : State) (q : Nat) (f : Queue → Queue) : (s.updQueue q f).mem = s.mem := rfl
@[simp] theorem updQueue_blocks (s : State) (q : Nat) (f : Queue → Queue) : (s.updQueue q f).blocks = s.blocks := rfl
@[simp] theorem updQueue_cores (s : State) (q : Nat) (f : Queue → Queue) : (s.updQueue q f).cores = s.cores := rfl
@[simp] theorem updQueue_ctxs (s : State) (q : Nat) (f : Queue → Queue) : (s.updQueue q f).ctxs = s.ctxs := rfl
@[simp] theorem updQueue_queueRest (s : State) (q : Nat) (f : Queue → Queue) : (s.updQueue q f).queueRest = s.queueRest := rfl
@[simp] theorem updQueue_launches (s : State) (q : Nat) (f : Queue → Queue) : (s.updQueue q f).launches = s.launches := rfl
@[simp] theorem updQueue_recs (s : State) (q : Nat) (f : Queue → Queue) : (s.updQueue q f).recs = s.recs := rfl
@[simp] theorem updQueue_shadows (s : State) (q : Nat) (f : Queue → Queue) : (s.updQueue q f).shadows = s.shadows := rfl
@[simp] theorem updQueue_filters (s : State) (q : Nat) (f : Queue → Queue) : (s.updQueue q f).filters = s.filters := rfl
@[simp] theorem updQueue_barObjs (s : State) (q : Nat) (f : Queue → Queue) : (s.updQueue q f).barObjs = s.barObjs := rfl
@[simp] theorem updQueue_ringObjs (s : State) (q : Nat) (f : Queue → Queue) : (s.updQueue q f).ringObjs = s.ringObjs := rfl
@[simp] theorem updQueue_ringWaits (s : State) (q : Nat) (f : Queue → Queue) : (s.updQueue q f).ringWaits = s.ringWaits := rfl
@[simp] theorem updQueue_ringElems (s : State) (q : Nat) (f : Queue → Queue) : (s.updQueue q f).ringElems = s.ringElems := rfl
@[simp] theorem updQueue_producers (s : State) (q : Nat) (f : Queue → Queue) : (s.updQueue q f).producers = s.producers := rfl
@[simp] theorem updQueue_commits (s : State) (q : Nat) (f : Queue → Queue) : (s.updQueue q f).commits = s.commits := rfl
@[simp] theorem updQueue_remotes (s : State) (q : Nat) (f : Queue → Queue) : (s.updQueue q f).remotes = s.remotes := rfl
@[simp] theorem updQueue_copies (s : State) (q : Nat) (f : Queue → Queue) : (s.updQueue q f).copies = s.copies := rfl
@[simp] theorem updQueue_batches (s : State) (q : Nat) (f : Queue → Queue) : (s.updQueue q f).batches = s.batches := rfl
@[simp] theorem updQueue_credits (s : State) (q : Nat) (f : Queue → Queue) : (s.updQueue q f).credits = s.credits := rfl
@[simp] theorem updQueue_arrivals (s : State) (q : Nat) (f : Queue → Queue) : (s.updQueue q f).arrivals = s.arrivals := rfl
@[simp] theorem updQueue_notices (s : State) (q : Nat) (f : Queue → Queue) : (s.updQueue q f).notices = s.notices := rfl
@[simp] theorem updQueue_msts (s : State) (q : Nat) (f : Queue → Queue) : (s.updQueue q f).msts = s.msts := rfl
@[simp] theorem updQueue_msReqs (s : State) (q : Nat) (f : Queue → Queue) : (s.updQueue q f).msReqs = s.msReqs := rfl
@[simp] theorem updQueue_fperms (s : State) (q : Nat) (f : Queue → Queue) : (s.updQueue q f).fperms = s.fperms := rfl
@[simp] theorem updQueue_parked (s : State) (q : Nat) (f : Queue → Queue) : (s.updQueue q f).parked = s.parked := rfl
@[simp] theorem updQueue_sfcfg (s : State) (q : Nat) (f : Queue → Queue) : (s.updQueue q f).sfcfg = s.sfcfg := rfl
@[simp] theorem updQueue_cal (s : State) (q : Nat) (f : Queue → Queue) : (s.updQueue q f).cal = s.cal := rfl
@[simp] theorem updQueue_pe (s : State) (q : Nat) (f : Queue → Queue) : (s.updQueue q f).pe = s.pe := rfl
@[simp] theorem updQueue_permSends (s : State) (q : Nat) (f : Queue → Queue) : (s.updQueue q f).permSends = s.permSends := rfl
@[simp] theorem updQueue_mc (s : State) (q : Nat) (f : Queue → Queue) : (s.updQueue q f).mc = s.mc := rfl
@[simp] theorem updQueue_fe (s : State) (q : Nat) (f : Queue → Queue) : (s.updQueue q f).fe = s.fe := rfl
@[simp] theorem updQueue_mxSaved (s : State) (q : Nat) (f : Queue → Queue) : (s.updQueue q f).mxSaved = s.mxSaved := rfl
@[simp] theorem updQueue_pkgid (s : State) (q : Nat) (f : Queue → Queue) : (s.updQueue q f).pkgid = s.pkgid := rfl
@[simp] theorem updQueue_podTime (s : State) (q : Nat) (f : Queue → Queue) : (s.updQueue q f).podTime = s.podTime := rfl
@[simp] theorem updQueue_agenda (s : State) (q : Nat) (f : Queue → Queue) : (s.updQueue q f).agenda = s.agenda := rfl
@[simp] theorem updQueue_cur (s : State) (q : Nat) (f : Queue → Queue) : (s.updQueue q f).cur = s.cur := rfl
@[simp] theorem updQueue_cycle (s : State) (q : Nat) (f : Queue → Queue) : (s.updQueue q f).cycle = s.cycle := rfl
@[simp] theorem updQueue_ns (s : State) (q : Nat) (f : Queue → Queue) : (s.updQueue q f).ns = s.ns := rfl
@[simp] theorem updQueue_nextId (s : State) (q : Nat) (f : Queue → Queue) : (s.updQueue q f).nextId = s.nextId := rfl
@[simp] theorem updQueue_free (s : State) (q : Nat) (f : Queue → Queue) : (s.updQueue q f).free = s.free := rfl
@[simp] theorem updQueue_out (s : State) (q : Nat) (f : Queue → Queue) : (s.updQueue q f).out = s.out := rfl

@[simp] theorem updLaunch_mem (s : State) (l : Nat) (f : Launch → Launch) : (s.updLaunch l f).mem = s.mem := rfl
@[simp] theorem updLaunch_blocks (s : State) (l : Nat) (f : Launch → Launch) : (s.updLaunch l f).blocks = s.blocks := rfl
@[simp] theorem updLaunch_cores (s : State) (l : Nat) (f : Launch → Launch) : (s.updLaunch l f).cores = s.cores := rfl
@[simp] theorem updLaunch_ctxs (s : State) (l : Nat) (f : Launch → Launch) : (s.updLaunch l f).ctxs = s.ctxs := rfl
@[simp] theorem updLaunch_queues (s : State) (l : Nat) (f : Launch → Launch) : (s.updLaunch l f).queues = s.queues := rfl
@[simp] theorem updLaunch_queueRest (s : State) (l : Nat) (f : Launch → Launch) : (s.updLaunch l f).queueRest = s.queueRest := rfl
@[simp] theorem updLaunch_recs (s : State) (l : Nat) (f : Launch → Launch) : (s.updLaunch l f).recs = s.recs := rfl
@[simp] theorem updLaunch_shadows (s : State) (l : Nat) (f : Launch → Launch) : (s.updLaunch l f).shadows = s.shadows := rfl
@[simp] theorem updLaunch_filters (s : State) (l : Nat) (f : Launch → Launch) : (s.updLaunch l f).filters = s.filters := rfl
@[simp] theorem updLaunch_barObjs (s : State) (l : Nat) (f : Launch → Launch) : (s.updLaunch l f).barObjs = s.barObjs := rfl
@[simp] theorem updLaunch_ringObjs (s : State) (l : Nat) (f : Launch → Launch) : (s.updLaunch l f).ringObjs = s.ringObjs := rfl
@[simp] theorem updLaunch_ringWaits (s : State) (l : Nat) (f : Launch → Launch) : (s.updLaunch l f).ringWaits = s.ringWaits := rfl
@[simp] theorem updLaunch_ringElems (s : State) (l : Nat) (f : Launch → Launch) : (s.updLaunch l f).ringElems = s.ringElems := rfl
@[simp] theorem updLaunch_producers (s : State) (l : Nat) (f : Launch → Launch) : (s.updLaunch l f).producers = s.producers := rfl
@[simp] theorem updLaunch_commits (s : State) (l : Nat) (f : Launch → Launch) : (s.updLaunch l f).commits = s.commits := rfl
@[simp] theorem updLaunch_remotes (s : State) (l : Nat) (f : Launch → Launch) : (s.updLaunch l f).remotes = s.remotes := rfl
@[simp] theorem updLaunch_copies (s : State) (l : Nat) (f : Launch → Launch) : (s.updLaunch l f).copies = s.copies := rfl
@[simp] theorem updLaunch_batches (s : State) (l : Nat) (f : Launch → Launch) : (s.updLaunch l f).batches = s.batches := rfl
@[simp] theorem updLaunch_credits (s : State) (l : Nat) (f : Launch → Launch) : (s.updLaunch l f).credits = s.credits := rfl
@[simp] theorem updLaunch_arrivals (s : State) (l : Nat) (f : Launch → Launch) : (s.updLaunch l f).arrivals = s.arrivals := rfl
@[simp] theorem updLaunch_notices (s : State) (l : Nat) (f : Launch → Launch) : (s.updLaunch l f).notices = s.notices := rfl
@[simp] theorem updLaunch_msts (s : State) (l : Nat) (f : Launch → Launch) : (s.updLaunch l f).msts = s.msts := rfl
@[simp] theorem updLaunch_msReqs (s : State) (l : Nat) (f : Launch → Launch) : (s.updLaunch l f).msReqs = s.msReqs := rfl
@[simp] theorem updLaunch_fperms (s : State) (l : Nat) (f : Launch → Launch) : (s.updLaunch l f).fperms = s.fperms := rfl
@[simp] theorem updLaunch_parked (s : State) (l : Nat) (f : Launch → Launch) : (s.updLaunch l f).parked = s.parked := rfl
@[simp] theorem updLaunch_sfcfg (s : State) (l : Nat) (f : Launch → Launch) : (s.updLaunch l f).sfcfg = s.sfcfg := rfl
@[simp] theorem updLaunch_cal (s : State) (l : Nat) (f : Launch → Launch) : (s.updLaunch l f).cal = s.cal := rfl
@[simp] theorem updLaunch_pe (s : State) (l : Nat) (f : Launch → Launch) : (s.updLaunch l f).pe = s.pe := rfl
@[simp] theorem updLaunch_permSends (s : State) (l : Nat) (f : Launch → Launch) : (s.updLaunch l f).permSends = s.permSends := rfl
@[simp] theorem updLaunch_mc (s : State) (l : Nat) (f : Launch → Launch) : (s.updLaunch l f).mc = s.mc := rfl
@[simp] theorem updLaunch_fe (s : State) (l : Nat) (f : Launch → Launch) : (s.updLaunch l f).fe = s.fe := rfl
@[simp] theorem updLaunch_mxSaved (s : State) (l : Nat) (f : Launch → Launch) : (s.updLaunch l f).mxSaved = s.mxSaved := rfl
@[simp] theorem updLaunch_pkgid (s : State) (l : Nat) (f : Launch → Launch) : (s.updLaunch l f).pkgid = s.pkgid := rfl
@[simp] theorem updLaunch_podTime (s : State) (l : Nat) (f : Launch → Launch) : (s.updLaunch l f).podTime = s.podTime := rfl
@[simp] theorem updLaunch_agenda (s : State) (l : Nat) (f : Launch → Launch) : (s.updLaunch l f).agenda = s.agenda := rfl
@[simp] theorem updLaunch_cur (s : State) (l : Nat) (f : Launch → Launch) : (s.updLaunch l f).cur = s.cur := rfl
@[simp] theorem updLaunch_cycle (s : State) (l : Nat) (f : Launch → Launch) : (s.updLaunch l f).cycle = s.cycle := rfl
@[simp] theorem updLaunch_ns (s : State) (l : Nat) (f : Launch → Launch) : (s.updLaunch l f).ns = s.ns := rfl
@[simp] theorem updLaunch_nextId (s : State) (l : Nat) (f : Launch → Launch) : (s.updLaunch l f).nextId = s.nextId := rfl
@[simp] theorem updLaunch_free (s : State) (l : Nat) (f : Launch → Launch) : (s.updLaunch l f).free = s.free := rfl
@[simp] theorem updLaunch_out (s : State) (l : Nat) (f : Launch → Launch) : (s.updLaunch l f).out = s.out := rfl

@[simp] theorem setMemByte_blocks (s : State) (a : Nat) (b : Byte) : (s.setMemByte a b).blocks = s.blocks := rfl
@[simp] theorem setMemByte_cores (s : State) (a : Nat) (b : Byte) : (s.setMemByte a b).cores = s.cores := rfl
@[simp] theorem setMemByte_ctxs (s : State) (a : Nat) (b : Byte) : (s.setMemByte a b).ctxs = s.ctxs := rfl
@[simp] theorem setMemByte_queues (s : State) (a : Nat) (b : Byte) : (s.setMemByte a b).queues = s.queues := rfl
@[simp] theorem setMemByte_queueRest (s : State) (a : Nat) (b : Byte) : (s.setMemByte a b).queueRest = s.queueRest := rfl
@[simp] theorem setMemByte_launches (s : State) (a : Nat) (b : Byte) : (s.setMemByte a b).launches = s.launches := rfl
@[simp] theorem setMemByte_recs (s : State) (a : Nat) (b : Byte) : (s.setMemByte a b).recs = s.recs := rfl
@[simp] theorem setMemByte_shadows (s : State) (a : Nat) (b : Byte) : (s.setMemByte a b).shadows = s.shadows := rfl
@[simp] theorem setMemByte_filters (s : State) (a : Nat) (b : Byte) : (s.setMemByte a b).filters = s.filters := rfl
@[simp] theorem setMemByte_barObjs (s : State) (a : Nat) (b : Byte) : (s.setMemByte a b).barObjs = s.barObjs := rfl
@[simp] theorem setMemByte_ringObjs (s : State) (a : Nat) (b : Byte) : (s.setMemByte a b).ringObjs = s.ringObjs := rfl
@[simp] theorem setMemByte_ringWaits (s : State) (a : Nat) (b : Byte) : (s.setMemByte a b).ringWaits = s.ringWaits := rfl
@[simp] theorem setMemByte_ringElems (s : State) (a : Nat) (b : Byte) : (s.setMemByte a b).ringElems = s.ringElems := rfl
@[simp] theorem setMemByte_producers (s : State) (a : Nat) (b : Byte) : (s.setMemByte a b).producers = s.producers := rfl
@[simp] theorem setMemByte_commits (s : State) (a : Nat) (b : Byte) : (s.setMemByte a b).commits = s.commits := rfl
@[simp] theorem setMemByte_remotes (s : State) (a : Nat) (b : Byte) : (s.setMemByte a b).remotes = s.remotes := rfl
@[simp] theorem setMemByte_copies (s : State) (a : Nat) (b : Byte) : (s.setMemByte a b).copies = s.copies := rfl
@[simp] theorem setMemByte_batches (s : State) (a : Nat) (b : Byte) : (s.setMemByte a b).batches = s.batches := rfl
@[simp] theorem setMemByte_credits (s : State) (a : Nat) (b : Byte) : (s.setMemByte a b).credits = s.credits := rfl
@[simp] theorem setMemByte_arrivals (s : State) (a : Nat) (b : Byte) : (s.setMemByte a b).arrivals = s.arrivals := rfl
@[simp] theorem setMemByte_notices (s : State) (a : Nat) (b : Byte) : (s.setMemByte a b).notices = s.notices := rfl
@[simp] theorem setMemByte_msts (s : State) (a : Nat) (b : Byte) : (s.setMemByte a b).msts = s.msts := rfl
@[simp] theorem setMemByte_msReqs (s : State) (a : Nat) (b : Byte) : (s.setMemByte a b).msReqs = s.msReqs := rfl
@[simp] theorem setMemByte_fperms (s : State) (a : Nat) (b : Byte) : (s.setMemByte a b).fperms = s.fperms := rfl
@[simp] theorem setMemByte_parked (s : State) (a : Nat) (b : Byte) : (s.setMemByte a b).parked = s.parked := rfl
@[simp] theorem setMemByte_sfcfg (s : State) (a : Nat) (b : Byte) : (s.setMemByte a b).sfcfg = s.sfcfg := rfl
@[simp] theorem setMemByte_cal (s : State) (a : Nat) (b : Byte) : (s.setMemByte a b).cal = s.cal := rfl
@[simp] theorem setMemByte_pe (s : State) (a : Nat) (b : Byte) : (s.setMemByte a b).pe = s.pe := rfl
@[simp] theorem setMemByte_permSends (s : State) (a : Nat) (b : Byte) : (s.setMemByte a b).permSends = s.permSends := rfl
@[simp] theorem setMemByte_mc (s : State) (a : Nat) (b : Byte) : (s.setMemByte a b).mc = s.mc := rfl
@[simp] theorem setMemByte_fe (s : State) (a : Nat) (b : Byte) : (s.setMemByte a b).fe = s.fe := rfl
@[simp] theorem setMemByte_mxSaved (s : State) (a : Nat) (b : Byte) : (s.setMemByte a b).mxSaved = s.mxSaved := rfl
@[simp] theorem setMemByte_pkgid (s : State) (a : Nat) (b : Byte) : (s.setMemByte a b).pkgid = s.pkgid := rfl
@[simp] theorem setMemByte_podTime (s : State) (a : Nat) (b : Byte) : (s.setMemByte a b).podTime = s.podTime := rfl
@[simp] theorem setMemByte_agenda (s : State) (a : Nat) (b : Byte) : (s.setMemByte a b).agenda = s.agenda := rfl
@[simp] theorem setMemByte_cur (s : State) (a : Nat) (b : Byte) : (s.setMemByte a b).cur = s.cur := rfl
@[simp] theorem setMemByte_cycle (s : State) (a : Nat) (b : Byte) : (s.setMemByte a b).cycle = s.cycle := rfl
@[simp] theorem setMemByte_ns (s : State) (a : Nat) (b : Byte) : (s.setMemByte a b).ns = s.ns := rfl
@[simp] theorem setMemByte_nextId (s : State) (a : Nat) (b : Byte) : (s.setMemByte a b).nextId = s.nextId := rfl
@[simp] theorem setMemByte_free (s : State) (a : Nat) (b : Byte) : (s.setMemByte a b).free = s.free := rfl
@[simp] theorem setMemByte_out (s : State) (a : Nat) (b : Byte) : (s.setMemByte a b).out = s.out := rfl

@[simp] theorem send_mem (s : State) (o : Out) : (s.send o).mem = s.mem := rfl
@[simp] theorem send_blocks (s : State) (o : Out) : (s.send o).blocks = s.blocks := rfl
@[simp] theorem send_cores (s : State) (o : Out) : (s.send o).cores = s.cores := rfl
@[simp] theorem send_ctxs (s : State) (o : Out) : (s.send o).ctxs = s.ctxs := rfl
@[simp] theorem send_queues (s : State) (o : Out) : (s.send o).queues = s.queues := rfl
@[simp] theorem send_queueRest (s : State) (o : Out) : (s.send o).queueRest = s.queueRest := rfl
@[simp] theorem send_launches (s : State) (o : Out) : (s.send o).launches = s.launches := rfl
@[simp] theorem send_recs (s : State) (o : Out) : (s.send o).recs = s.recs := rfl
@[simp] theorem send_shadows (s : State) (o : Out) : (s.send o).shadows = s.shadows := rfl
@[simp] theorem send_filters (s : State) (o : Out) : (s.send o).filters = s.filters := rfl
@[simp] theorem send_barObjs (s : State) (o : Out) : (s.send o).barObjs = s.barObjs := rfl
@[simp] theorem send_ringObjs (s : State) (o : Out) : (s.send o).ringObjs = s.ringObjs := rfl
@[simp] theorem send_ringWaits (s : State) (o : Out) : (s.send o).ringWaits = s.ringWaits := rfl
@[simp] theorem send_ringElems (s : State) (o : Out) : (s.send o).ringElems = s.ringElems := rfl
@[simp] theorem send_producers (s : State) (o : Out) : (s.send o).producers = s.producers := rfl
@[simp] theorem send_commits (s : State) (o : Out) : (s.send o).commits = s.commits := rfl
@[simp] theorem send_remotes (s : State) (o : Out) : (s.send o).remotes = s.remotes := rfl
@[simp] theorem send_copies (s : State) (o : Out) : (s.send o).copies = s.copies := rfl
@[simp] theorem send_batches (s : State) (o : Out) : (s.send o).batches = s.batches := rfl
@[simp] theorem send_credits (s : State) (o : Out) : (s.send o).credits = s.credits := rfl
@[simp] theorem send_arrivals (s : State) (o : Out) : (s.send o).arrivals = s.arrivals := rfl
@[simp] theorem send_notices (s : State) (o : Out) : (s.send o).notices = s.notices := rfl
@[simp] theorem send_msts (s : State) (o : Out) : (s.send o).msts = s.msts := rfl
@[simp] theorem send_msReqs (s : State) (o : Out) : (s.send o).msReqs = s.msReqs := rfl
@[simp] theorem send_fperms (s : State) (o : Out) : (s.send o).fperms = s.fperms := rfl
@[simp] theorem send_parked (s : State) (o : Out) : (s.send o).parked = s.parked := rfl
@[simp] theorem send_sfcfg (s : State) (o : Out) : (s.send o).sfcfg = s.sfcfg := rfl
@[simp] theorem send_cal (s : State) (o : Out) : (s.send o).cal = s.cal := rfl
@[simp] theorem send_pe (s : State) (o : Out) : (s.send o).pe = s.pe := rfl
@[simp] theorem send_permSends (s : State) (o : Out) : (s.send o).permSends = s.permSends := rfl
@[simp] theorem send_mc (s : State) (o : Out) : (s.send o).mc = s.mc := rfl
@[simp] theorem send_fe (s : State) (o : Out) : (s.send o).fe = s.fe := rfl
@[simp] theorem send_mxSaved (s : State) (o : Out) : (s.send o).mxSaved = s.mxSaved := rfl
@[simp] theorem send_pkgid (s : State) (o : Out) : (s.send o).pkgid = s.pkgid := rfl
@[simp] theorem send_podTime (s : State) (o : Out) : (s.send o).podTime = s.podTime := rfl
@[simp] theorem send_agenda (s : State) (o : Out) : (s.send o).agenda = s.agenda := rfl
@[simp] theorem send_cur (s : State) (o : Out) : (s.send o).cur = s.cur := rfl
@[simp] theorem send_cycle (s : State) (o : Out) : (s.send o).cycle = s.cycle := rfl
@[simp] theorem send_ns (s : State) (o : Out) : (s.send o).ns = s.ns := rfl
@[simp] theorem send_nextId (s : State) (o : Out) : (s.send o).nextId = s.nextId := rfl
@[simp] theorem send_free (s : State) (o : Out) : (s.send o).free = s.free := rfl

end Sys2Proof.Machine
end

