-- ==== Sys2Proof/Laws/Access.lean ====
section
/-! SUPPORT. Reading a part of the state after an update of a part. -/

namespace Sys2Proof.Machine

open Sys2Proof

/-! ### Sparse tables -/

@[simp] theorem mget_mput_same {α : Type} (d : α) (m : Map α) (k : Nat) (v : α) : mget d (mput m k v) k = v := by
  induction m with
  | nil => simp [mput, mget]
  | cons p t ih =>
    simp only [mput]
    split
    · simp [mget]
    · split
      · simp [mget]
      · simp [mget, *]

theorem mget_mput_ne {α : Type} (d : α) (m : Map α) {k j : Nat} (v : α) (h : j ≠ k) :
    mget d (mput m k v) j = mget d m j := by
  induction m with
  | nil => simp [mput, mget, h]
  | cons p t ih =>
    simp only [mput]
    split
    · simp [mget, h]
    · split
      · subst k; simp [mget, h]
      · simp [mget, ih]

theorem mget_mput {α : Type} (d : α) (m : Map α) (k j : Nat) (v : α) :
    mget d (mput m k v) j = if j = k then v else mget d m j := by
  split
  · subst j; simp
  · exact mget_mput_ne d m v ‹_›

@[simp] theorem mfind_mput_same {α : Type} (m : Map α) (k : Nat) (v : α) : mfind (mput m k v) k = some v := by
  induction m with
  | nil => simp [mput, mfind]
  | cons p t ih =>
    simp only [mput]
    split
    · simp [mfind]
    · split
      · simp [mfind]
      · simp [mfind, *]

theorem mfind_mput_ne {α : Type} (m : Map α) {k j : Nat} (v : α) (h : j ≠ k) : mfind (mput m k v) j = mfind m j := by
  induction m with
  | nil => simp [mput, mfind, h]
  | cons p t ih =>
    simp only [mput]
    split
    · simp [mfind, h]
    · split
      · subst k; simp [mfind, h]
      · simp [mfind, ih]

/-- A table whose values are mapped, keys unchanged. -/
theorem mfind_map {α β : Type} (f : Nat → α → β) (m : Map α) (k : Nat) :
    mfind (m.map fun p => (p.1, f p.1 p.2)) k = (mfind m k).map (f k) := by
  induction m with
  | nil => rfl
  | cons p t ih =>
    simp only [List.map, mfind]
    split
    · subst k; rfl
    · exact ih

theorem mget_eq_mfind {α : Type} (d : α) (m : Map α) (k : Nat) : mget d m k = (mfind m k).getD d := by
  induction m with
  | nil => rfl
  | cons p t ih =>
    simp only [mget, mfind]
    split
    · rfl
    · exact ih

theorem mfind_mdel_same {α : Type} (m : Map α) (k : Nat) : mfind (mdel m k) k = none := by
  induction m with
  | nil => rfl
  | cons p t ih =>
    simp only [mdel, List.filter] at *
    split
    · rename_i h
      have : k ≠ p.1 := by intro e; subst e; simp at h
      simp [mfind, this, ih]
    · exact ih

theorem mfind_mdel_ne {α : Type} (m : Map α) {k j : Nat} (h : j ≠ k) : mfind (mdel m k) j = mfind m j := by
  induction m with
  | nil => rfl
  | cons p t ih =>
    simp only [mdel, List.filter] at *
    split
    · simp [mfind, ih]
    · rename_i e
      have : p.1 = k := by simpa using e
      simp [mfind, this, h, ih]

/-! ### Blocks -/

theorem blk_updBlk (s : State) (b c : Nat) (f : Block → Block) :
    (s.updBlk b f).blk c = if c = b then f (s.blk b) else s.blk c := by
  simp only [State.updBlk, State.blk]; exact mget_mput _ _ _ _ _

@[simp] theorem blk_updBlk_same (s : State) (b : Nat) (f : Block → Block) : (s.updBlk b f).blk b = f (s.blk b) := by
  simp [blk_updBlk]

theorem blk_updBlk_ne (s : State) {b c : Nat} (f : Block → Block) (h : c ≠ b) : (s.updBlk b f).blk c = s.blk c := by
  simp [blk_updBlk, h]

/-! ### Waves -/

theorem WaveId.ext' {v w : WaveId} (h1 : v.blk = w.blk) (h2 : v.wv = w.wv) : v = w := by
  cases v; cases w; simp_all

@[simp] theorem wave_updWave_same (s : State) (w : WaveId) (f : Wave → Wave) :
    (s.updWave w f).wave w = f (s.wave w) := by
  simp [State.updWave, State.wave]

theorem wave_updWave_ne (s : State) {v w : WaveId} (f : Wave → Wave) (h : v ≠ w) :
    (s.updWave w f).wave v = s.wave v := by
  unfold State.updWave State.wave
  by_cases hb : v.blk = w.blk
  · have hw : v.wv ≠ w.wv := fun e => h (WaveId.ext' hb e)
    rw [hb, blk_updBlk_same]
    simp [mget_mput_ne _ _ _ hw]
  · rw [blk_updBlk_ne _ _ hb]

theorem wave_updWave (s : State) (v w : WaveId) (f : Wave → Wave) :
    (s.updWave w f).wave v = if v = w then f (s.wave w) else s.wave v := by
  split
  · subst v; simp
  · exact wave_updWave_ne s f ‹_›

/-- A wave's update leaves everything of every block but its waves. -/
theorem blk_updWave (s : State) (w : WaveId) (f : Wave → Wave) (b : Nat) :
    (s.updWave w f).blk b = { s.blk b with waves := ((s.updWave w f).blk b).waves } := by
  by_cases h : b = w.blk
  · subst h; simp [State.updWave]
  · simp [State.updWave, blk_updBlk_ne _ _ h]

@[simp] theorem updWave_ctx (s : State) (w : WaveId) (f : Wave → Wave) (b : Nat) :
    ((s.updWave w f).blk b).ctx = (s.blk b).ctx := by rw [blk_updWave]
@[simp] theorem updWave_launch (s : State) (w : WaveId) (f : Wave → Wave) (b : Nat) :
    ((s.updWave w f).blk b).launch = (s.blk b).launch := by rw [blk_updWave]
@[simp] theorem updWave_core (s : State) (w : WaveId) (f : Wave → Wave) (b : Nat) :
    ((s.updWave w f).blk b).core = (s.blk b).core := by rw [blk_updWave]
@[simp] theorem updWave_resident (s : State) (w : WaveId) (f : Wave → Wave) (b : Nat) :
    ((s.updWave w f).blk b).resident = (s.blk b).resident := by rw [blk_updWave]

/-! ### Threads -/

@[simp] theorem thread_wid (w : WaveId) (l : Nat) : (w.thread l).wid = w := rfl
@[simp] theorem thread_lane (w : WaveId) (l : Nat) : (w.thread l).lane = l := rfl

theorem updThread_eq (s : State) (w : WaveId) (l : Nat) (f : Thread → Thread) :
    s.updThread (w.thread l) f =
      s.updWave w fun x => { x with threads := mput x.threads l (f (mget Thread.absent x.threads l)) } := rfl

@[simp] theorem thread_updThread_same (s : State) (t : ThreadId) (f : Thread → Thread) :
    (s.updThread t f).thread t = f (s.thread t) := by
  simp [State.updThread, State.thread]

theorem thread_updThread_ne (s : State) {t u : ThreadId} (f : Thread → Thread) (h : u ≠ t) :
    (s.updThread t f).thread u = s.thread u := by
  unfold State.updThread State.thread
  by_cases hw : u.wid = t.wid
  · have hl : u.lane ≠ t.lane := by
      intro e; apply h
      cases u; cases t; simp_all [ThreadId.wid]
    rw [hw, wave_updWave_same]
    simp [mget_mput_ne _ _ _ hl]
  · rw [wave_updWave_ne _ _ hw]

theorem wave_updThread_ne (s : State) {t : ThreadId} {v : WaveId} (f : Thread → Thread) (h : v ≠ t.wid) :
    (s.updThread t f).wave v = s.wave v := wave_updWave_ne s _ h

/-- A thread's update leaves everything of its wave but the threads. -/
theorem wave_updThread (s : State) (t : ThreadId) (v : WaveId) (f : Thread → Thread) :
    (s.updThread t f).wave v = { s.wave v with threads := ((s.updThread t f).wave v).threads } := by
  by_cases h : v = t.wid
  · subst h; simp [State.updThread]
  · rw [wave_updThread_ne s f h]

theorem blk_updThread (s : State) (t : ThreadId) (f : Thread → Thread) (b : Nat) :
    (s.updThread t f).blk b = { s.blk b with waves := ((s.updThread t f).blk b).waves } := blk_updWave s _ _ b

/-! ### Cores and slots -/

@[simp] theorem core_updCore_same (s : State) (c : Nat) (f : Core → Core) : (s.updCore c f).core c = f (s.core c) := by
  simp [State.updCore, State.core]

theorem core_updCore_ne (s : State) {c d : Nat} (f : Core → Core) (h : d ≠ c) : (s.updCore c f).core d = s.core d := by
  simp only [State.updCore, State.core]; exact mget_mput_ne _ _ _ h

@[simp] theorem slot_updSlot_same (s : State) (c k : Nat) (f : Slot → Slot) :
    (s.updSlot c k f).slot c k = f (s.slot c k) := by
  simp [State.updSlot, State.slot]

theorem slot_updSlot_ne (s : State) {c k d j : Nat} (f : Slot → Slot) (h : (d, j) ≠ (c, k)) :
    (s.updSlot c k f).slot d j = s.slot d j := by
  unfold State.updSlot State.slot
  by_cases hc : d = c
  · subst hc
    have : j ≠ k := fun e => h (by rw [e])
    simp [mget_mput_ne _ _ _ this]
  · rw [core_updCore_ne _ _ hc]

/-! ### Contexts, queues and launches -/

@[simp] theorem ctx_updCtx_same (s : State) (c : Nat) (f : Ctx → Ctx) : (s.updCtx c f).ctx c = f (s.ctx c) := by
  simp [State.updCtx, State.ctx]
theorem ctx_updCtx_ne (s : State) {c d : Nat} (f : Ctx → Ctx) (h : d ≠ c) : (s.updCtx c f).ctx d = s.ctx d := by
  simp only [State.updCtx, State.ctx]; exact mget_mput_ne _ _ _ h
@[simp] theorem queue_updQueue_same (s : State) (q : Nat) (f : Queue → Queue) :
    (s.updQueue q f).queue q = f (s.queue q) := by
  simp [State.updQueue, State.queue]
theorem queue_updQueue_ne (s : State) {q r : Nat} (f : Queue → Queue) (h : r ≠ q) :
    (s.updQueue q f).queue r = s.queue r := by
  simp only [State.updQueue, State.queue]; exact mget_mput_ne _ _ _ h
@[simp] theorem launch_updLaunch_same (s : State) (l : Nat) (f : Launch → Launch) :
    (s.updLaunch l f).launch l = f (s.launch l) := by
  simp [State.updLaunch, State.launch]
theorem launch_updLaunch_ne (s : State) {l m : Nat} (f : Launch → Launch) (h : m ≠ l) :
    (s.updLaunch l f).launch m = s.launch m := by
  simp only [State.updLaunch, State.launch]; exact mget_mput_ne _ _ _ h

/-! ### Parts read through a field that an update leaves -/

theorem blk_congr {s t : State} (h : t.blocks = s.blocks) (b : Nat) : t.blk b = s.blk b := by simp [State.blk, h]
theorem wave_congr {s t : State} (h : t.blocks = s.blocks) (w : WaveId) : t.wave w = s.wave w := by
  simp [State.wave, blk_congr h]
theorem thread_congr {s t : State} (h : t.blocks = s.blocks) (u : ThreadId) : t.thread u = s.thread u := by
  simp [State.thread, wave_congr h]
theorem core_congr {s t : State} (h : t.cores = s.cores) (c : Nat) : t.core c = s.core c := by simp [State.core, h]
theorem slot_congr {s t : State} (h : t.cores = s.cores) (c k : Nat) : t.slot c k = s.slot c k := by
  simp [State.slot, core_congr h]
theorem ctx_congr {s t : State} (h : t.ctxs = s.ctxs) (c : Nat) : t.ctx c = s.ctx c := by simp [State.ctx, h]
theorem queue_congr {s t : State} (h : t.queues = s.queues) (h' : t.queueRest = s.queueRest) (q : Nat) : t.queue q = s.queue q := by
  simp [State.queue, h, h']
theorem launch_congr {s t : State} (h : t.launches = s.launches) (l : Nat) : t.launch l = s.launch l := by
  simp [State.launch, h]
theorem memByte_congr {s t : State} (h : t.mem = s.mem) (a : Nat) : t.memByte a = s.memByte a := by
  simp [State.memByte, h]

end Sys2Proof.Machine
end

