-- ==== Sys2Proof/Laws/Issue.lean ====
section
/-! SUPPORT. What issuing an instruction does around its meaning: the PCs that go on, the end of the run, and what stays. -/

namespace Sys2Proof.Machine

open Sys2Proof

/-! ### Nothing changes but a wave and a slot -/

/-- Nothing changes but the wave `w`, the issue slot `k` of core `c`, and the waits of the wave's threads for ring reservations. -/
structure InWave (s t : State) (w : WaveId) (c k : Nat) : Prop where
  rest : t = { s with blocks := t.blocks, cores := t.cores, ringWaits := t.ringWaits }
  block : ∀ b, t.blk b = { s.blk b with waves := (t.blk b).waves }
  wave : ∀ v, v ≠ w → t.wave v = s.wave v
  core : ∀ d, t.core d = { s.core d with slots := (t.core d).slots }
  slot : ∀ d j, (d, j) ≠ (c, k) → t.slot d j = s.slot d j
  waits : ∀ q, q.wid ≠ w → (q ∈ t.ringWaits ↔ q ∈ s.ringWaits)

theorem InWave.refl (s : State) (w : WaveId) (c k : Nat) : InWave s s w c k :=
  ⟨rfl, fun _ => rfl, fun _ _ => rfl, fun _ => rfl, fun _ _ _ => rfl, fun _ _ => Iff.rfl⟩

theorem InWave.trans {s t u : State} {w : WaveId} {c k : Nat} (h : InWave s t w c k) (g : InWave t u w c k) :
    InWave s u w c k where
  rest := by rw [g.rest, h.rest]
  block b := by rw [g.block, h.block]
  wave v hv := by rw [g.wave v hv, h.wave v hv]
  core d := by rw [g.core, h.core]
  slot d j hj := by rw [g.slot d j hj, h.slot d j hj]
  waits q hq := (g.waits q hq).trans (h.waits q hq)

theorem InWave.of_updWave (s : State) (w : WaveId) (c k : Nat) (f : Wave → Wave) :
    InWave s (s.updWave w f) w c k where
  rest := rfl
  block := blk_updWave s w f
  wave _ hv := wave_updWave_ne s f hv
  core _ := rfl
  slot _ _ _ := rfl
  waits _ _ := Iff.rfl

theorem InWave.of_updSlot (s : State) (w : WaveId) (c k : Nat) (f : Slot → Slot) :
    InWave s (s.updSlot c k f) w c k where
  rest := rfl
  block _ := rfl
  wave _ _ := rfl
  core d := by
    by_cases h : d = c
    · subst h; simp [State.updSlot]
    · simp [State.updSlot, core_updCore_ne _ _ h]
  slot _ _ h := slot_updSlot_ne s f h
  waits _ _ := Iff.rfl

theorem InWave.foldl {α : Type} {w : WaveId} {c k : Nat} (f : State → α → State) (l : List α)
    (h : ∀ s, ∀ a ∈ l, InWave s (f s a) w c k) (s : State) : InWave s (l.foldl f s) w c k := by
  induction l generalizing s with
  | nil => exact InWave.refl s w c k
  | cons a t ih =>
    exact (h s a (List.mem_cons_self ..)).trans (ih (fun s b hb => h s b (List.mem_cons_of_mem _ hb)) _)

/-- Nothing changes but a wave, and the waits of its threads for ring reservations. -/
structure OnWave (s t : State) (w : WaveId) : Prop where
  rest : t = { s with blocks := t.blocks, ringWaits := t.ringWaits }
  block : ∀ b, t.blk b = { s.blk b with waves := (t.blk b).waves }
  wave : ∀ v, v ≠ w → t.wave v = s.wave v
  waits : ∀ q, q.wid ≠ w → (q ∈ t.ringWaits ↔ q ∈ s.ringWaits)

theorem OnWave.cores {s t : State} {w : WaveId} (h : OnWave s t w) : t.cores = s.cores := by rw [h.rest]

theorem OnWave.slot {s t : State} {w : WaveId} (h : OnWave s t w) (c k : Nat) : t.slot c k = s.slot c k :=
  slot_congr h.cores c k

theorem OnWave.refl (s : State) (w : WaveId) : OnWave s s w :=
  ⟨rfl, fun _ => rfl, fun _ _ => rfl, fun _ _ => Iff.rfl⟩

theorem OnWave.trans {s t u : State} {w : WaveId} (h : OnWave s t w) (g : OnWave t u w) : OnWave s u w where
  rest := by rw [g.rest, h.rest]
  block b := by rw [g.block, h.block]
  wave v hv := by rw [g.wave v hv, h.wave v hv]
  waits q hq := (g.waits q hq).trans (h.waits q hq)

theorem OnWave.only {s t : State} {w : WaveId} (h : OnWave s t w) (c k : Nat) : InWave s t w c k where
  rest := by rw [h.rest]
  block := h.block
  wave := h.wave
  core d := by rw [core_congr h.cores]
  slot d j _ := h.slot d j
  waits := h.waits

theorem OnWave.of_updWave (s : State) (w : WaveId) (f : Wave → Wave) : OnWave s (s.updWave w f) w where
  rest := rfl
  block := blk_updWave s w f
  wave _ hv := wave_updWave_ne s f hv
  waits _ _ := Iff.rfl

theorem OnWave.of_updThread (s : State) (w : WaveId) (l : Nat) (f : Thread → Thread) :
    OnWave s (s.updThread (w.thread l) f) w := OnWave.of_updWave s w _

theorem OnWave.foldl {α : Type} {w : WaveId} (f : State → α → State) (l : List α)
    (h : ∀ s, ∀ a ∈ l, OnWave s (f s a) w) (s : State) : OnWave s (l.foldl f s) w := by
  induction l generalizing s with
  | nil => exact OnWave.refl s w
  | cons a t ih =>
    exact (h s a (List.mem_cons_self ..)).trans (ih (fun s b hb => h s b (List.mem_cons_of_mem _ hb)) _)

theorem OnWave.of_updThreads (s : State) (w : WaveId) (ls : List Nat) (f : Thread → Thread) :
    OnWave s (s.updThreads w ls f) w :=
  OnWave.foldl _ ls (fun s l _ => OnWave.of_updThread s w l f) s

theorem OnWave.of_forgetWaits (s : State) (w : WaveId) (ls : List Nat) : OnWave s (s.forgetWaits w ls) w where
  rest := rfl
  block _ := rfl
  wave _ _ := rfl
  waits q h := by simp [State.forgetWaits, h]

/-! ### Threads of a wave -/

/-- What a change of some threads of a wave gives each thread: the change is made once for each listing. -/
theorem thread_updThreads (s : State) (w : WaveId) (ls : List Nat) (f : Thread → Thread)
    (hf : ∀ t, f (f t) = f t) (l : Nat) :
    (s.updThreads w ls f).thread (w.thread l) = if l ∈ ls then f (s.thread (w.thread l)) else s.thread (w.thread l) := by
  unfold State.updThreads
  induction ls generalizing s with
  | nil => simp
  | cons a t ih =>
    simp only [List.foldl_cons, ih]
    by_cases h : l = a
    · subst h; simp [hf]
    · have : (w.thread l) ≠ (w.thread a) := fun e => h (congrArg ThreadId.lane e)
      simp [thread_updThread_ne _ _ this, h]

theorem thread_updThreads_ne (s : State) (w : WaveId) (ls : List Nat) (f : Thread → Thread) {u : ThreadId}
    (h : u.wid ≠ w) : (s.updThreads w ls f).thread u = s.thread u := by
  have := (OnWave.of_updThreads s w ls f).wave u.wid h
  simp [State.thread, this]

/-- A change of threads leaves everything of the wave but the threads. -/
theorem wave_updThreads (s : State) (w v : WaveId) (ls : List Nat) (f : Thread → Thread) :
    (s.updThreads w ls f).wave v = { s.wave v with threads := ((s.updThreads w ls f).wave v).threads } := by
  unfold State.updThreads
  induction ls generalizing s with
  | nil => rfl
  | cons a t ih =>
    simp only [List.foldl_cons]
    rw [ih, wave_updThread]

/-! ### The members go on -/

/-- `State.advance`'s change of a member. -/
def goOn (x : Iss) (now : Nat) (t : Thread) : Thread :=
  { t with pc := pcPlus x.pc x.len, yielded := false, since := now, slot := 4, resume := false }

theorem goOn_goOn (x : Iss) (now : Nat) (t : Thread) : goOn x now (goOn x now t) = goOn x now t := rfl

theorem openInterval_only (s : State) (w : WaveId) : OnWave s (s.openInterval w) w := by
  unfold State.openInterval
  split
  · exact OnWave.of_updWave ..
  · exact OnWave.refl ..

@[simp] theorem openInterval_cycle (s : State) (w : WaveId) : (s.openInterval w).cycle = s.cycle := by
  unfold State.openInterval; split <;> simp

/-- Opening an interval sets nothing of the wave but the windows in which it began. -/
theorem openInterval_wave (s : State) (w v : WaveId) :
    (s.openInterval w).wave v = { s.wave v with starts := ((s.openInterval w).wave v).starts } := by
  unfold State.openInterval
  split
  · by_cases h : v = w
    · subst h; simp
    · simp [wave_updWave_ne _ _ h]
  · rfl

theorem openInterval_thread (s : State) (w : WaveId) (u : ThreadId) :
    (s.openInterval w).thread u = s.thread u := by
  simp only [State.thread]; rw [openInterval_wave]

theorem advance_eq (s : State) (x : Iss) :
    (s.advance x = (s.openInterval x.wid).updThreads x.wid x.members (goOn x s.cycle)) ∨
    (s.advance x = ((s.openInterval x.wid).updThreads x.wid x.members (goOn x s.cycle)).updWave x.wid
      fun w => { w with donemask := 0 }) := by
  have e : (s.openInterval x.wid).updThreads x.wid x.members (goOn x s.cycle) =
      (s.openInterval x.wid).updThreads x.wid x.members (fun t =>
        { t with pc := pcPlus x.pc x.len, yielded := false, since := (s.openInterval x.wid).cycle, slot := 4, resume := false }) := by
    rw [openInterval_cycle]; rfl
  unfold State.advance
  rw [e]
  dsimp only
  split
  · exact .inr rfl
  · exact .inl rfl

theorem advance_only (s : State) (x : Iss) : OnWave s (s.advance x) x.wid := by
  have h := (openInterval_only s x.wid).trans
    (OnWave.of_updThreads (s.openInterval x.wid) x.wid x.members (goOn x s.cycle))
  rcases advance_eq s x with e | e <;> rw [e]
  · exact h
  · exact h.trans (OnWave.of_updWave ..)

theorem advance_thread (s : State) (x : Iss) (l : Nat) :
    (s.advance x).thread (x.wid.thread l) =
      if l ∈ x.members then goOn x s.cycle (s.thread (x.wid.thread l)) else s.thread (x.wid.thread l) := by
  have h := thread_updThreads (s.openInterval x.wid) x.wid x.members (goOn x s.cycle) (goOn_goOn x s.cycle) l
  rw [openInterval_thread] at h
  rcases advance_eq s x with e | e <;> rw [e]
  · exact h
  · rw [← h]; simp [State.thread]

/-- The wave of a group that goes on keeps everything but `DONEMASK`, the windows of its interval and its threads. -/
theorem advance_wave (s : State) (x : Iss) :
    (s.advance x).wave x.wid = { s.wave x.wid with
      donemask := ((s.advance x).wave x.wid).donemask, starts := ((s.advance x).wave x.wid).starts
      threads := ((s.advance x).wave x.wid).threads } := by
  have h := wave_updThreads (s.openInterval x.wid) x.wid x.wid x.members (goOn x s.cycle)
  rw [openInterval_wave] at h
  rcases advance_eq s x with e | e <;> rw [e]
  · rw [h]
  · simp only [wave_updWave_same]; rw [h]

/-! ### The end of an instruction -/

/-- A run that ends changes its slot, and the members' marks of age and slot. -/
theorem endRun_only (s : State) (w : WaveId) (c k : Nat) (ms : List ThreadId) (h : ∀ m ∈ ms, m.wid = w) :
    InWave s (s.endRun c k ms) w c k := by
  unfold State.endRun
  refine (InWave.of_updSlot s w c k _).trans (InWave.foldl _ ms ?_ _)
  intro s m hm
  split
  · have := h m hm; subst this; exact (OnWave.of_updThread s m.wid m.lane _).only c k
  · exact InWave.refl ..

/-- A change of threads that leaves all but the marks of their readiness and slot. -/
def Aged (t u : Thread) : Prop := u = { t with ready := u.ready, slot := u.slot }

theorem endRun_thread (s : State) (c k : Nat) (ms : List ThreadId) (u : ThreadId) :
    Aged (s.thread u) ((s.endRun c k ms).thread u) := by
  have base : ∀ (ms : List ThreadId) (s : State), Aged (s.thread u) ((ms.foldl (fun s t =>
      if (s.thread t).live then s.updThread t fun x => { x with ready := s.cycle, slot := k } else s) s).thread u) := by
    intro ms
    induction ms with
    | nil => intro s; rfl
    | cons a t ih =>
      intro s
      simp only [List.foldl_cons]
      have h := ih (if (s.thread a).live then s.updThread a fun x => { x with ready := s.cycle, slot := k } else s)
      have h1 : Aged (s.thread u) ((if (s.thread a).live then s.updThread a fun x =>
          { x with ready := s.cycle, slot := k } else s).thread u) := by
        split
        · by_cases e : u = a
          · subst e; simp [Aged]
          · simp [thread_updThread_ne _ _ e, Aged]
        · rfl
      unfold Aged at *
      rw [h, h1]
  have h := base ms (s.updSlot c k fun x => { x with run := none, pend := none })
  rwa [thread_congr (t := s.updSlot c k _) (updSlot_blocks ..)] at h

theorem endRun_wave (s : State) (c k : Nat) (ms : List ThreadId) (v : WaveId) :
    (s.endRun c k ms).wave v = { s.wave v with threads := ((s.endRun c k ms).wave v).threads } := by
  have base : ∀ (ms : List ThreadId) (s : State), (ms.foldl (fun s t =>
      if (s.thread t).live then s.updThread t fun x => { x with ready := s.cycle, slot := k } else s) s).wave v =
      { s.wave v with threads := ((ms.foldl (fun s t =>
      if (s.thread t).live then s.updThread t fun x => { x with ready := s.cycle, slot := k } else s) s).wave v).threads } := by
    intro ms
    induction ms with
    | nil => intro s; rfl
    | cons a t ih =>
      intro s
      simp only [List.foldl_cons]
      rw [ih]
      split
      · rw [wave_updThread]
      · rfl
  have h := base ms (s.updSlot c k fun x => { x with run := none, pend := none })
  have e : (s.updSlot c k fun x => { x with run := none, pend := none }).wave v = s.wave v := wave_congr rfl v
  rw [e] at h
  exact h

/-! ### Convergence deadlock (R173) -/

theorem mfind_mem {α : Type} {m : Map α} {k : Nat} {v : α} (h : mfind m k = some v) : (k, v) ∈ m := by
  induction m with
  | nil => simp [mfind] at h
  | cons p t ih =>
    simp only [mfind] at h
    split at h
    · subst k; cases h; exact List.mem_cons_self ..
    · exact List.mem_cons_of_mem _ (ih h)

/-- A value that a filter drops changes the filtered table only where the filter keeps what was there. -/
theorem filter_mput {α : Type} (q : Nat × α → Bool) (m : Map α) (k : Nat) (v : α) (hv : q (k, v) = false)
    (ho : ∀ o, mfind m k = some o → q (k, o) = false) : (mput m k v).filter q = m.filter q := by
  induction m with
  | nil => simp [mput, hv]
  | cons p t ih =>
    obtain ⟨k', o⟩ := p
    simp only [mput]
    by_cases h1 : k < k'
    · simp [h1, hv]
    · by_cases h2 : k = k'
      · subst h2
        have := ho o (by simp [mfind])
        simp [hv, this]
      · have e := ih (fun o h => ho o (by simp [mfind, h2, h]))
        simp [h1, h2, List.filter_cons, e]

theorem calm_of_member {w : Wave} {l : Nat} {t : Thread} (h : mfind w.threads l = some t) (hl : t.live = true)
    (hh : t.handler = false) (hw : t.wait ≠ .converging) : w.deadlocked = false := by
  have hm : (l, t) ∈ w.threads.filter fun p => p.2.live && !p.2.handler := by
    simp [mfind_mem h, hl, hh]
  unfold Wave.deadlocked
  dsimp only
  split
  · rfl
  · rename_i p r e
    have hall : ((w.threads.filter fun p => p.2.live && !p.2.handler).all
        fun q => decide (q.2.wait = .converging)) = false := by
      rw [List.all_eq_false]
      exact ⟨(l, t), hm, by simpa using hw⟩
    rw [hall]
    rfl

theorem deadlocked_congr {v w : Wave} (h : v.threads = w.threads) : v.deadlocked = w.deadlocked := by
  simp [Wave.deadlocked, h]

/-- A thread's change cannot bring the wave into deadlock when it stays in the handler, or goes on outside it. -/
theorem calm_mput {w : Wave} (hc : w.deadlocked = false) (l : Nat) (t : Thread)
    (h : (t.handler = true ∧ (mget Thread.absent w.threads l).handler = true) ∨
      (t.live = true ∧ t.handler = false ∧ t.wait ≠ .converging)) :
    ({ w with threads := mput w.threads l t } : Wave).deadlocked = false := by
  rcases h with ⟨h1, h2⟩ | ⟨h1, h2, h3⟩
  · have e : (mput w.threads l t).filter (fun p => p.2.live && !p.2.handler) =
        w.threads.filter fun p => p.2.live && !p.2.handler := by
      refine filter_mput _ _ _ _ (by simp [h1]) ?_
      intro o ho
      rw [mget_eq_mfind, ho] at h2
      simp_all
    unfold Wave.deadlocked at *
    simp only [e]
    exact hc
  · exact calm_of_member (l := l) (t := t) (by simp) h1 h2 h3

/-- A thread that goes on outside the handler, or stays in it. -/
def Goer (t u : Thread) : Prop :=
  (u.handler = true ∧ t.handler = true) ∨ (u.live = true ∧ u.handler = false ∧ u.wait ≠ .converging)

theorem calm_updThread (s : State) (w : WaveId) (l : Nat) (f : Thread → Thread)
    (hc : (s.wave w).deadlocked = false) (h : Goer (s.thread (w.thread l)) (f (s.thread (w.thread l)))) :
    ((s.updThread (w.thread l) f).wave w).deadlocked = false := by
  rw [updThread_eq, wave_updWave_same]
  exact calm_mput hc l _ h

theorem calm_updThreads (s : State) (w : WaveId) (ls : List Nat) (f : Thread → Thread)
    (hc : (s.wave w).deadlocked = false) (hf : ∀ t, f (f t) = f t)
    (h : ∀ l ∈ ls, Goer (s.thread (w.thread l)) (f (s.thread (w.thread l)))) :
    ((s.updThreads w ls f).wave w).deadlocked = false := by
  unfold State.updThreads
  induction ls generalizing s with
  | nil => exact hc
  | cons a t ih =>
    simp only [List.foldl_cons]
    refine ih _ (calm_updThread s w a f hc (h a (List.mem_cons_self ..))) ?_
    intro l hl
    by_cases e : l = a
    · subst e
      have h1 := h l (List.mem_cons_self ..)
      simp only [thread_updThread_same, hf]
      unfold Goer at *
      rcases h1 with ⟨h1, _⟩ | h1
      · exact .inl ⟨h1, h1⟩
      · exact .inr h1
    · have : (w.thread l) ≠ (w.thread a) := fun e' => e (congrArg ThreadId.lane e')
      rw [thread_updThread_ne _ _ this]
      exact h l (List.mem_cons_of_mem _ hl)

/-! ### After an instruction -/

theorem mget_map {α : Type} (d : α) (f : α → α) (hd : f d = d) (m : Map α) (k : Nat) :
    mget d (m.map fun p => (p.1, f p.2)) k = f (mget d m k) := by
  induction m with
  | nil => simp [mget, hd]
  | cons p t ih =>
    simp only [List.map, mget]
    split
    · rfl
    · exact ih

theorem wakeWave_thread (s : State) (w : WaveId) (p : Wait → Bool) (u : ThreadId) :
    (s.wakeWave w p).thread u =
      if u.wid = w ∧ ((s.thread u).live && p (s.thread u).wait) = true then (s.thread u).wake s.cycle else s.thread u := by
  unfold State.wakeWave
  by_cases h : u.wid = w
  · subst h
    simp only [State.thread, wave_updWave_same, true_and]
    exact mget_map Thread.absent (fun t => if t.live && p t.wait then t.wake s.cycle else t)
      (by simp [Thread.absent]) _ _
  · simp [h, State.thread, wave_updWave_ne _ _ h]

/-- The wave after the end of its handler. -/
theorem clearIntrap_wave (s : State) (w : WaveId) :
    (s.clearIntrap w).wave w = { s.wave w with
      wstat := (s.wave w).wstat &&& ~~~2#32, threads := ((s.clearIntrap w).wave w).threads } := by
  simp [State.clearIntrap, State.wakeWave]

theorem clearIntrap_only (s : State) (w : WaveId) (c k : Nat) : InWave s (s.clearIntrap w) w c k := by
  unfold State.clearIntrap State.wakeWave
  exact (InWave.of_updWave s w c k _).trans (InWave.of_updWave ..)

/-- A thread after the end of its wave's handler: it is ready when it waited for that. -/
theorem clearIntrap_thread (s : State) (w : WaveId) (u : ThreadId) :
    (s.clearIntrap w).thread u =
      if u.wid = w ∧ (s.thread u).live = true ∧ (s.thread u).wait = .onTrap then (s.thread u).wake s.cycle
      else s.thread u := by
  unfold State.clearIntrap
  rw [wakeWave_thread]
  have e : (s.updWave w fun x => { x with wstat := x.wstat &&& ~~~2#32 }).thread u = s.thread u := by
    by_cases h : u.wid = w
    · subst h; simp [State.thread]
    · simp [State.thread, wave_updWave_ne _ _ h]
  rw [e]
  simp

theorem clearIntrap_calm (s : State) (w : WaveId) (h : (s.wave w).deadlocked = false) :
    ((s.clearIntrap w).wave w).deadlocked = false := by
  have e : ((s.clearIntrap w).wave w).threads = (s.wave w).threads.map fun q =>
      (q.1, if q.2.live && decide (q.2.wait = .onTrap) then q.2.wake s.cycle else q.2) := by
    simp [State.clearIntrap, State.wakeWave]
  generalize hg : ((s.clearIntrap w).wave w) = v at *
  by_cases hx : ∃ p ∈ (s.wave w).threads, p.2.live = true ∧ p.2.handler = false ∧ p.2.wait = .onTrap
  · obtain ⟨p, hp, h1, h2, h3⟩ := hx
    have hm : ((p.1, p.2.wake s.cycle) : Nat × Thread) ∈ v.threads.filter fun p => p.2.live && !p.2.handler := by
      rw [e]
      simp only [List.mem_filter, List.mem_map]
      refine ⟨⟨p, hp, by simp [h1, h3]⟩, by simp [Thread.wake, h1, h2]⟩
    unfold Wave.deadlocked
    dsimp only
    split
    · rfl
    · rename_i q r e'
      have hall : ((v.threads.filter fun p => p.2.live && !p.2.handler).all
          fun q => decide (q.2.wait = .converging)) = false := by
        rw [List.all_eq_false]
        exact ⟨_, hm, by simp [Thread.wake]⟩
      rw [hall]; rfl
  · have same : v.threads.filter (fun p => p.2.live && !p.2.handler) =
        (s.wave w).threads.filter fun p => p.2.live && !p.2.handler := by
      rw [e, List.filter_map]
      have hq : ∀ q : Nat × Thread, ((fun p : Nat × Thread => p.2.live && !p.2.handler) ∘ fun q : Nat × Thread =>
          (q.1, if q.2.live && decide (q.2.wait = .onTrap) then q.2.wake s.cycle else q.2)) q =
          (q.2.live && !q.2.handler) := by
        intro q
        simp only [Function.comp]
        split <;> simp [Thread.wake]
      rw [List.filter_congr (fun q _ => hq q)]
      have : ∀ q ∈ (s.wave w).threads.filter (fun q => q.2.live && !q.2.handler),
          ((q.1, if q.2.live && decide (q.2.wait = .onTrap) then q.2.wake s.cycle else q.2) : Nat × Thread) = q := by
        intro q hq
        simp only [List.mem_filter, Bool.and_eq_true] at hq
        have : q.2.wait ≠ .onTrap := fun e => hx ⟨q, hq.1, hq.2.1, by simpa using hq.2.2, e⟩
        simp [this]
      rw [List.map_congr_left this]; simp
    unfold Wave.deadlocked at *
    simp only [same]
    exact h

/-- After an instruction of a wave that is not in deadlock: nothing, or the end of its handler. -/
theorem checkWave_calm (s : State) (w : WaveId) (h : (s.wave w).deadlocked = false) :
    s.checkWave w = s ∨ s.checkWave w = s.clearIntrap w := by
  unfold State.checkWave
  dsimp only
  split
  · simp [clearIntrap_calm s w h]
  · simp [h]

/-- What retiring an instruction without traps leaves of a thread. -/
def Retired (t u : Thread) : Prop :=
  u = { t with since := u.since, ready := u.ready, slot := u.slot, wait := u.wait } ∧ (t.wait ≠ .onTrap → u.wait = t.wait)

theorem Retired.of_aged {t u : Thread} (h : Aged t u) : Retired t u := by
  unfold Aged at h; rw [h]; exact ⟨rfl, fun _ => rfl⟩

theorem Retired.refl (t : Thread) : Retired t t := ⟨rfl, fun _ => rfl⟩

theorem Retired.then_aged {t u v : Thread} (h : Retired t u) (g : Aged u v) : Retired t v := by
  unfold Aged at g
  obtain ⟨h1, h2⟩ := h
  refine ⟨?_, ?_⟩
  · rw [g, h1]
  · intro h; rw [g]; exact h2 h

theorem checkWave_retired (s : State) (w : WaveId) (h : (s.wave w).deadlocked = false) (u : ThreadId) :
    Retired (s.thread u) ((s.checkWave w).thread u) := by
  rcases checkWave_calm s w h with e | e <;> rw [e]
  · exact Retired.refl _
  · rw [clearIntrap_thread]
    split
    · rename_i h'
      exact ⟨rfl, fun x => absurd h'.2.2 x⟩
    · exact Retired.refl _

theorem checkWave_only (s : State) (w : WaveId) (c k : Nat) (h : (s.wave w).deadlocked = false) :
    InWave s (s.checkWave w) w c k := by
  rcases checkWave_calm s w h with e | e <;> rw [e]
  · exact InWave.refl ..
  · exact clearIntrap_only ..

theorem checkWave_wave (s : State) (w : WaveId) (h : (s.wave w).deadlocked = false) :
    (s.checkWave w).wave w = { s.wave w with
      wstat := ((s.checkWave w).wave w).wstat, threads := ((s.checkWave w).wave w).threads } ∧
    ((s.checkWave w).wave w).wstat ||| 2#32 = (s.wave w).wstat ||| 2#32 := by
  rcases checkWave_calm s w h with e | e <;> rw [e]
  · exact ⟨rfl, rfl⟩
  · rw [clearIntrap_wave]
    refine ⟨rfl, ?_⟩
    apply BitVec.eq_of_getLsbD_eq
    intro i hi
    simp only [BitVec.getLsbD_or, BitVec.getLsbD_and, BitVec.getLsbD_not, hi]
    cases (2#32).getLsbD i <;> simp

/-! ### Staging buffers (R223) -/

theorem trim_congr {s t : State} (h : ∀ w, (t.wave w).vregs = (s.wave w).vregs) (k : Slot) : k.trim t = k.trim s := by
  have e : t.stageLive = s.stageLive := by funext e; simp [State.stageLive, Wave.vreg, h]
  simp [Slot.trim, e]

theorem slot_trimStaged (s : State) (c d j : Nat) :
    (s.trimStaged c).slot d j = if d = c then (s.slot d j).trim s else s.slot d j := by
  unfold State.trimStaged State.slot
  by_cases h : d = c
  · subst h
    rw [core_updCore_same, if_pos rfl]
    exact mget_map Slot.reset (fun q => q.trim s) rfl _ _
  · rw [core_updCore_ne _ _ h, if_neg h]

theorem InWave.then_only {s v t : State} {w : WaveId} {c k : Nat} (h : InWave s v w c k) (g : OnlyWave v t w c k) :
    OnlyWave s t w c k where
  rest := by rw [g.rest, h.rest]
  block b := by rw [g.block, h.block]
  wave u hu := by rw [g.wave u hu, h.wave u hu]
  core d := by rw [g.core, h.core]
  slot d j hj := by rw [g.slot d j hj, h.slot d j hj]
  waits q hq := (g.waits q hq).trans (h.waits q hq)

/-- Trimming the staging buffers of a core, and a change of the wave's slot that leaves every rename map. -/
theorem OnlyWave.of_trim {s t : State} {w : WaveId} {c k : Nat} (h : InWave (s.trimStaged c) t w c k)
    (hv : ∀ v, (t.wave v).vregs = (s.wave v).vregs) : OnlyWave s t w c k where
  rest := by rw [h.rest]; rfl
  block b := by rw [h.block]; rfl
  wave v e := by rw [h.wave v e]; rfl
  core d := by
    rw [h.core]
    by_cases e : d = c
    · subst e; simp [State.trimStaged]
    · simp [State.trimStaged, core_updCore_ne _ _ e]
  slot d j e := by rw [h.slot d j e, slot_trimStaged, trim_congr hv]
  waits q hq := h.waits q hq

/-- Retiring an instruction without traps: the check of the wave, and the end of the run or its next instruction. -/
theorem retire_eq (s : State) (i : Instr) (c k : Nat) (r : Run) (w : WaveId) (ms : List Nat) :
    s.retire i c k r [(w, ms)] [] = (s.checkWave w).trimStaged c ∨
    s.retire i c k r [(w, ms)] [] = ((s.checkWave w).trimStaged c).endRun c k r.group.members ∨
    ∃ f, s.retire i c k r [(w, ms)] [] = ((s.checkWave w).trimStaged c).updSlot c k f := by
  have e : s.retire i c k r [(w, ms)] [] =
      match (((s.checkWave w).trimStaged c).slot c k).run with
      | none => (s.checkWave w).trimStaged c
      | some _ => if (i.endsRun || Nat.ble Config.runMax (r.count + 1) ||
            r.group.members.any fun t => !((s.checkWave w).trimStaged c).isReady t) then
            ((s.checkWave w).trimStaged c).endRun c k r.group.members
          else ((s.checkWave w).trimStaged c).updSlot c k fun x =>
            { x with run := x.run.map fun y =>
                { group := { y.group with pc := pcPlus r.group.pc i.len }, count := r.count + 1
                  staged := capStaged y.staged } } := rfl
  rw [e]
  split
  · exact .inl rfl
  · split
    · exact .inr (.inl rfl)
    · exact .inr (.inr ⟨_, rfl⟩)

/-- What retiring an instruction of one wave without traps does: the run ends or goes on, and the wave's handler may end. -/
theorem retire_one (s : State) (i : Instr) (c k : Nat) (r : Run) (w : WaveId) (ms : List Nat)
    (hc : (s.wave w).deadlocked = false) (ho : ∀ m ∈ r.group.members, m.wid = w) :
    OnlyWave s (s.retire i c k r [(w, ms)] []) w c k ∧
    (s.retire i c k r [(w, ms)] []).wave w = { s.wave w with
      wstat := ((s.retire i c k r [(w, ms)] []).wave w).wstat
      threads := ((s.retire i c k r [(w, ms)] []).wave w).threads } ∧
    ((s.retire i c k r [(w, ms)] []).wave w).wstat ||| 2#32 = (s.wave w).wstat ||| 2#32 ∧
    ∀ u, Retired (s.thread u) ((s.retire i c k r [(w, ms)] []).thread u) := by
  have h1 := checkWave_only s w c k hc
  have h2 := checkWave_wave s w hc
  have h3 := checkWave_retired s w hc
  have h4 := retire_eq s i c k r w ms
  generalize s.retire i c k r [(w, ms)] [] = t at *
  generalize s.checkWave w = v at *
  have hw : ∀ u, (v.trimStaged c).wave u = v.wave u := fun u => wave_congr rfl u
  have ht : ∀ u, (v.trimStaged c).thread u = v.thread u := fun u => thread_congr rfl u
  rcases h4 with e | e | ⟨f, e⟩ <;> subst e
  · exact ⟨h1.then_only (OnlyWave.of_trim (InWave.refl ..) fun u => by rw [hw]), by rw [hw, ← h2.1], by rw [hw]; exact h2.2,
      fun u => by rw [ht]; exact h3 u⟩
  · refine ⟨h1.then_only (OnlyWave.of_trim (endRun_only _ w c k _ ho) fun u => by rw [endRun_wave, hw]), ?_, ?_, ?_⟩
    · rw [endRun_wave, hw, h2.1]
    · rw [endRun_wave, hw]; exact h2.2
    · intro u; exact (h3 u).then_aged (by rw [← ht]; exact endRun_thread _ c k _ u)
  · have e : ∀ u, ((v.trimStaged c).updSlot c k f).wave u = v.wave u := fun u => wave_congr rfl u
    have e2 : ∀ u, ((v.trimStaged c).updSlot c k f).thread u = v.thread u := fun u => thread_congr rfl u
    refine ⟨h1.then_only (OnlyWave.of_trim (InWave.of_updSlot ..) fun u => by rw [e]), by rw [e, ← h2.1], by rw [e]; exact h2.2,
      fun u => by rw [e2]; exact h3 u⟩

end Sys2Proof.Machine
end

