-- ==== Sys2Proof/Laws/Operands.lean ====
section
/-! SUPPORT. An instruction that one wave issues: what its meaning gives, reading its operands, and writing its result. -/

namespace Sys2Proof.Machine

open Sys2Proof

/-! ### One wave -/

/-- The end of an instruction of one wave that neither waits nor keeps its slot: it retires, or its request stays pending. -/
def State.settled (t s : State) (i : Instr) (r : Run) (w : WaveId) (ms : List Nat) (traps : List (Iss × Trap)) : State :=
  match (t.slot s.cur.1 s.cur.2).pend with
  | none => t.retire i s.cur.1 s.cur.2 r [(w, ms)] traps
  | some p =>
    let t := (t.pendTraps s.cur.1 s.cur.2 traps).trimStaged s.cur.1
    if p.waves.all (·.answered) then t else t.unadvance s r.group [(w, ms)]

/-- What the issue of one wave makes of the outcome of the meaning. -/
def State.outcome (s : State) (i : Instr) (r : Run) (w : WaveId) (ms : List Nat) (x : Iss) : WOut → State
  | .done t => t.settled s i r w ms []
  | .trap tr t =>
      let tr := if i.wholeOnly then { tr with lane := none } else tr
      if i.exits && decide (tr.cause = .wbovf) then s.retire i s.cur.1 s.cur.2 r [(w, ms)] [(x, tr)]
      else (t.updWave w Wave.freeRows).settled s i r w ms [(x, tr)]
  | .wait t ls fx => s.sleepRun s.cur.1 s.cur.2 r [(x, t, ls, fx)]
  | .hold => s

/-- A group of one wave at an instruction does what the meaning gives for that wave. -/
theorem issueWith_one {s : State} {i : Instr} {r : Run} {w : WaveId} {ms : List Nat} (h : Alone s i r w ms)
    (names : List (Nat × Nat)) (body : Iss → State → WOut)
    (hd : s.decodeTrap i names r.group.pc w ms = none) (hl : (s.site i r w ms).lanes ≠ []) :
    s.issueWith i names body =
      s.outcome i r w ms (s.site i r w ms) (body (s.site i r w ms) (s.advance (s.site i r w ms))) := by
  have hl' : (s.issOf i s.cur.1 s.cur.2 r.group w ms).lanes.isEmpty = false := by
    cases e : (s.issOf i s.cur.1 s.cur.2 r.group w ms).lanes with
    | nil => exact absurd e hl
    | cons _ _ => rfl
  have hcv : (i.converges && !r.group.conv) = false := by
    cases e : i.converges with
    | false => rfl
    | true => simp [(h.conv e).1]
  have hs0 : (if i.converges = true then s.orderLoads w else s) = s := by
    cases e : i.converges with
    | false => rfl
    | true => simpa using (h.conv e).2
  unfold State.issueWith
  simp only [h.run, h.free, h.waves, h.still, List.any_cons, List.any_nil, Bool.or_false, hcv, hs0, List.isEmpty_cons, Bool.false_eq_true, if_false,
    List.foldl_cons, List.foldl_nil, Done.wave, hd, hl']
  unfold State.site at *
  generalize body _ _ = o
  cases o with
  | done t =>
    cases hp : (t.slot s.cur.1 s.cur.2).pend <;> simp [State.outcome, State.settled, hp]
  | trap tr t =>
    have e : ((t.updWave w Wave.freeRows).slot s.cur.1 s.cur.2).pend = (t.slot s.cur.1 s.cur.2).pend := rfl
    cases hp : (t.slot s.cur.1 s.cur.2).pend <;> simp [State.outcome, State.settled, e, hp]
  | wait t ls fx => simp [State.outcome]
  | hold => simp [State.outcome]

/-! ### Operands that are ready -/

theorem firstScan_fine {l : List (Nat × Nat × Scan)} (h : ∀ p ∈ l, p.2.2 = .fine) : firstScan l = none := by
  induction l with
  | nil => rfl
  | cons a t ih =>
    have := h a (List.mem_cons_self ..)
    simp only [firstScan, this, if_true]
    exact ih fun p hp => h p (List.mem_cons_of_mem _ hp)

theorem Use.Ready.scans {u : Use} {w : Wave} (h : u.Ready w) : firstScan (u.scans w) = none := by
  apply firstScan_fine
  intro p hp
  simp only [Use.scans, List.mem_append, List.mem_flatMap, List.mem_map] at hp
  rcases hp with ⟨r, hr, c, hc, rfl⟩ | hp
  · exact h.1 r hr c hc
  · cases e : u.dst with
    | none => simp [e] at hp
    | some d =>
      simp only [e, List.mem_map] at hp
      obtain ⟨c, hc, rfl⟩ := hp
      exact h.2 d e c hc

theorem scanPops_none (s : State) (x : Iss) (acc : Map (Map Nat)) (l : List Rd) (h : ∀ r ∈ l, queueOf r.op = none) :
    s.scanPops x acc l = .ok s acc := by
  induction l with
  | nil => rfl
  | cons a t ih =>
    simp only [State.scanPops, h a (List.mem_cons_self ..)]
    exact ih fun r hr => h r (List.mem_cons_of_mem _ hr)

theorem Use.NoQueue.scan {u : Use} (h : u.NoQueue) (s : State) (x : Iss) : s.scanQueues x u = .ok s [] := by
  unfold State.scanQueues
  rw [scanPops_none s x [] u.rds h.1]
  cases e : u.dst with
  | none => rfl
  | some d => simp [h.2 d e]

theorem Use.NoQueue.pops {u : Use} (h : u.NoQueue) : u.pops = false := by
  simp only [Use.pops, List.any_eq_false]
  intro r hr
  simp [h.1 r hr]

theorem Use.NoQueue.takePops {u : Use} (h : u.NoQueue) (s : State) (x : Iss) (n : Nat) : s.takePops x u n = s := by
  have : ∀ (l : List Rd), (∀ r ∈ l, queueOf r.op = none) → l.foldl (fun s r =>
      match (queueOf r.op).bind (s.binding x.wid.blk) with
      | some ring => s.ringPop ring x.wid x.lanes (elemCount r.each n)
      | none => s) s = s := by
    intro l
    induction l with
    | nil => intro _; rfl
    | cons a t ih =>
      intro hl
      simp only [List.foldl_cons, hl a (List.mem_cons_self ..), Option.bind_none]
      exact ih fun r hr => hl r (List.mem_cons_of_mem _ hr)
  exact this u.rds h.1

/-- Ready operands give their values, and the instruction executes in the state with its rows, where a read of an UNMAPPED
name has set `WSTAT.URD`. -/
theorem withOperands_ready {s t : State} {x : Iss} {u : Use} (k : (Nat → Nat → Nat) → State → WOut)
    (hr : u.Ready (s.wave x.wid)) (hq : u.NoQueue) (ht : u.Rows s x.wid t) :
    s.withOperands x u k = k (s.value x.wid u [])
      ((if u.readsUnmapped (s.wave x.wid) then t.setUrd x.wid else t).forgetWaits x.wid x.lanes) := by
  have hf : (u.names.find? fun p => (t.wave x.wid).isSpilled p.2) = none := by
    rw [List.find?_eq_none]
    exact fun p hp => by simp [ht.2 p hp]
  unfold State.withOperands State.withRows
  simp only [hr.scans, hq.scan, ht.1, hf, hq.pops, Bool.and_false, Bool.false_eq_true, if_false]

/-! ### Results -/

theorem setUrd_only (s : State) (w : WaveId) : OnWave s (s.setUrd w) w := OnWave.of_updWave ..
theorem orFstat_only (s : State) (w : WaveId) (f : BitVec 32) : OnWave s (s.orFstat w f) w := OnWave.of_updWave ..
theorem clearLast_only (s : State) (x : Iss) (u : Use) (d : List Nat) : OnWave s (s.clearLast x u d) x.wid :=
  OnWave.of_updWave ..
theorem writeRegs_only (s : State) (w : WaveId) (t : Ty) (n a : Nat) (vals : List (Nat × Nat)) :
    OnWave s (s.writeRegs w t n a vals) w :=
  OnWave.foldl _ _ (fun _ _ _ => OnWave.of_updWave ..) s

/-- Write a result to the destination of an instruction, if it has one. -/
def State.writeDst (s : State) (w : WaveId) (u : Use) (vals : List (Nat × Nat)) : State :=
  match u.dst with
  | none => s
  | some d => s.writeRegs w d.ty d.n (nth 0 d.codes 0) vals

theorem writeDst_only (s : State) (w : WaveId) (u : Use) (vals : List (Nat × Nat)) : OnWave s (s.writeDst w u vals) w := by
  unfold State.writeDst
  split
  · exact OnWave.refl ..
  · exact writeRegs_only ..

/-- The result of an instruction without queue operands: the flags, the last uses, the registers, and the freed rows. -/
theorem finish_regs {x : Iss} {u : Use} (s : State) (done : List Nat) (vals : List (Nat × Nat)) (flags : Nat)
    (hq : u.NoQueue) : s.finish x u done vals flags =
      .done ((((s.clearLast x u done).writeDst x.wid u vals).orFstat x.wid (BitVec.ofNat 32 flags)).updWave x.wid
        Wave.freeRows) := by
  unfold State.finish State.writeDst State.holdPops
  simp only [hq.takePops, hq.pops]
  cases e : u.dst with
  | none => rfl
  | some d =>
    have := hq.2 d e
    cases h : d.op with
    | que q => simp [h, queueOf] at this
    | _ => simp [h]

end Sys2Proof.Machine
end

