-- ==== Sys2Proof/Laws/Results.lean ====
section
/-! SUPPORT. The registers of a wave after an instruction's result: last uses, writes of registers, freed rows. -/

namespace Sys2Proof.Machine

open Sys2Proof

/-! ### Names of the rename map -/

theorem mfind_filter_key {α : Type} (q : Nat → Bool) (m : Map α) (k : Nat) :
    mfind (m.filter fun p => q p.1) k = if q k then mfind m k else none := by
  induction m with
  | nil => simp [mfind]
  | cons p t ih =>
    by_cases h : q p.1
    · simp only [List.filter_cons, h, if_true, mfind]
      by_cases e : k = p.1
      · subst e; simp [h]
      · simp [e, ih]
    · simp only [List.filter_cons, h, mfind]
      by_cases e : k = p.1
      · subst e; simp [ih, h]
      · simp [e, ih]

theorem freeRows_vreg (w : Wave) (n : Nat) : w.freeRows.vreg n = (w.vreg n).filter VReg.stays := by
  unfold Wave.freeRows Wave.vreg
  simp only
  rw [mfind_filter_key (fun k => (mfind w.vregs k).any VReg.stays)]
  cases mfind w.vregs n with
  | none => simp
  | some r => cases h : r.stays <;> simp [h, Option.filter]

theorem mapNames_vreg (w : Wave) (n m : Nat) (g : VReg → VReg) :
    ({ w with vregs := w.vregs.map fun p => if p.1 = n then (p.1, g p.2) else p } : Wave).vreg m =
      if m = n then (w.vreg m).map g else w.vreg m := by
  have e : (w.vregs.map fun p => if p.1 = n then (p.1, g p.2) else p) =
      w.vregs.map fun p => (p.1, (fun k r => if k = n then g r else r) p.1 p.2) := by
    apply List.map_congr_left
    intro p _
    dsimp only
    split <;> rfl
  unfold Wave.vreg
  simp only
  rw [e, mfind_map (fun k r => if k = n then g r else r)]
  split
  · rename_i h; subst h; simp
  · simp

theorem clearLive_vreg (w : Wave) (n m : Nat) (mask : BitVec 64) :
    (w.clearLive n mask).vreg m =
      if m = n then (w.vreg m).map (fun r => { r with live := r.live &&& ~~~mask }) else w.vreg m :=
  mapNames_vreg w n m fun r => { r with live := r.live &&& ~~~mask }

theorem writeLanes_vreg (w : Wave) (n m : Nat) (vals : List (Nat × Word)) (now : Nat) :
    (w.writeLanes n vals now).vreg m =
      if m = n then (w.vreg m).map (fun r => { r with
        lanes := vals.foldl (fun m v => mput m v.1 v.2) r.lanes, live := r.live ||| laneMask (vals.map (·.1)), stamp := now })
      else w.vreg m :=
  mapNames_vreg w n m fun r => { r with
    lanes := vals.foldl (fun m v => mput m v.1 v.2) r.lanes, live := r.live ||| laneMask (vals.map (·.1)), stamp := now }

@[simp] theorem clearLive_scalars (w : Wave) (n : Nat) (mask : BitVec 64) : (w.clearLive n mask).scalars = w.scalars := rfl
@[simp] theorem writeLanes_scalars (w : Wave) (n : Nat) (vals : List (Nat × Word)) (now : Nat) :
    (w.writeLanes n vals now).scalars = w.scalars := rfl
@[simp] theorem freeRows_scalars (w : Wave) : w.freeRows.scalars = w.scalars := rfl

/-! ### Last uses (R207) -/

/-- A wave's change that touches the rename map only. -/
def MapOnly (v w : Wave) : Prop := w = { v with vregs := w.vregs }

theorem MapOnly.refl (w : Wave) : MapOnly w w := rfl
theorem MapOnly.trans {u v w : Wave} (h : MapOnly u v) (g : MapOnly v w) : MapOnly u w := by
  unfold MapOnly at *; rw [g, h]

theorem clearLive_map (w : Wave) (n : Nat) (mask : BitVec 64) : MapOnly w (w.clearLive n mask) := rfl
theorem freeRows_map (w : Wave) : MapOnly w w.freeRows := rfl

theorem Use.last_mem {u : Use} {n : Nat} (h : u.last n = true) : n ∈ u.rds.flatMap Rd.codes := by
  simp only [Use.last, List.any_eq_true, Bool.and_eq_true] at h
  obtain ⟨r, hr, _, hn⟩ := h
  exact List.mem_flatMap.mpr ⟨r, hr, by simpa using hn⟩

theorem clearLast_wave (s : State) (x : Iss) (u : Use) (lanes : List Nat) :
    MapOnly (s.wave x.wid) ((s.clearLast x u lanes).wave x.wid) ∧
    ∀ n, ((s.clearLast x u lanes).wave x.wid).vreg n = ((s.wave x.wid).vreg n).map (u.cleared lanes n) := by
  unfold State.clearLast
  rw [wave_updWave_same]
  generalize s.wave x.wid = y
  have key : ∀ (cs : List Nat) (y : Wave),
      MapOnly y (cs.foldl (fun w c => if u.last c then w.clearLive c (laneMask lanes) else w) y) ∧
      ∀ n, (cs.foldl (fun w c => if u.last c then w.clearLive c (laneMask lanes) else w) y).vreg n =
        if n ∈ cs then (y.vreg n).map (u.cleared lanes n) else y.vreg n := by
    intro cs
    induction cs with
    | nil => intro y; exact ⟨MapOnly.refl y, by simp⟩
    | cons a t ih =>
      intro y
      simp only [List.foldl_cons]
      obtain ⟨h1, h2⟩ := ih (if u.last a then y.clearLive a (laneMask lanes) else y)
      constructor
      · refine MapOnly.trans ?_ h1
        split
        · exact clearLive_map ..
        · exact MapOnly.refl _
      · intro n
        rw [h2 n]
        by_cases hl : u.last a = true
        · simp only [hl, if_true, clearLive_vreg]
          by_cases e : n = a
          · subst e
            cases y.vreg n with
            | none => simp
            | some r => simp [Use.cleared, hl, BitVec.and_assoc]
          · simp [e]
        · by_cases e : n = a
          · subst e
            cases e : y.vreg n with
            | none => simp [hl, e]
            | some r => simp [Use.cleared, hl, e]
          · simp [hl, e]
  obtain ⟨h1, h2⟩ := key (u.rds.flatMap Rd.codes) y
  refine ⟨h1, fun n => ?_⟩
  rw [h2 n]
  split
  · rfl
  · rename_i h
    have : u.last n = false := by
      cases e : u.last n with
      | false => rfl
      | true => exact absurd (Use.last_mem e) h
    cases y.vreg n with
    | none => rfl
    | some r => simp [Use.cleared, this]

/-! ### Writes (R206) -/

/-- A name after a write of some lanes. -/
def VReg.written (vals : List (Nat × Word)) (now : Nat) (r : VReg) : VReg :=
  { r with lanes := vals.foldl (fun m v => mput m v.1 v.2) r.lanes, live := r.live ||| laneMask (vals.map (·.1)), stamp := now }

/-- Register `j` of a result of some lanes. -/
def resultLanes (t : Ty) (n : Nat) (vals : List (Nat × Nat)) (j : Nat) : List (Nat × Word) :=
  vals.map fun p => (p.1, nth 0 (resultWords t n p.2) j)

theorem writeRegs_vec (s : State) (w : WaveId) (t : Ty) (n a : Nat) (vals : List (Nat × Nat)) (ha : a < 768) :
    MapOnly (s.wave w) ((s.writeRegs w t n a vals).wave w) ∧
    ∀ m, ((s.writeRegs w t n a vals).wave w).vreg m =
      if a ≤ m ∧ m < a + n then ((s.wave w).vreg m).map (VReg.written (resultLanes t n vals (m - a)) s.cycle)
      else (s.wave w).vreg m := by
  unfold State.writeRegs
  have key : ∀ k, ∀ (s : State),
      ((List.range k).foldl (fun s i => s.updWave w fun y =>
        if a < 768 then y.writeLanes (a + i) (vals.map fun p => (p.1, nth 0 (resultWords t n p.2) i)) s.cycle
        else match vals with
          | [] => y
          | p :: _ => y.setScalar (a + i - 768) (nth 0 (resultWords t n p.2) i)) s).cycle = s.cycle ∧
      MapOnly (s.wave w) (((List.range k).foldl (fun s i => s.updWave w fun y =>
        if a < 768 then y.writeLanes (a + i) (vals.map fun p => (p.1, nth 0 (resultWords t n p.2) i)) s.cycle
        else match vals with
          | [] => y
          | p :: _ => y.setScalar (a + i - 768) (nth 0 (resultWords t n p.2) i)) s).wave w) ∧
      ∀ m, (((List.range k).foldl (fun s i => s.updWave w fun y =>
        if a < 768 then y.writeLanes (a + i) (vals.map fun p => (p.1, nth 0 (resultWords t n p.2) i)) s.cycle
        else match vals with
          | [] => y
          | p :: _ => y.setScalar (a + i - 768) (nth 0 (resultWords t n p.2) i)) s).wave w).vreg m =
        if a ≤ m ∧ m < a + k then ((s.wave w).vreg m).map (VReg.written (resultLanes t n vals (m - a)) s.cycle)
        else (s.wave w).vreg m := by
    intro k
    induction k with
    | zero =>
      intro s
      refine ⟨rfl, MapOnly.refl _, fun m => ?_⟩
      have : ¬ (a ≤ m ∧ m < a + 0) := by omega
      rw [if_neg this]; rfl
    | succ k ih =>
      intro s
      obtain ⟨h0, h1, h2⟩ := ih s
      rw [List.range_succ, List.foldl_append]
      simp only [List.foldl_cons, List.foldl_nil, ha, if_true] at *
      refine ⟨by rw [updWave_cycle, h0], ?_, ?_⟩
      · rw [wave_updWave_same]; exact h1.trans rfl
      · intro m
        rw [wave_updWave_same, writeLanes_vreg, h2, h0]
        by_cases e : m = a + k
        · subst e
          have n1 : ¬ (a ≤ a + k ∧ a + k < a + k) := by omega
          have n2 : a ≤ a + k ∧ a + k < a + (k + 1) := by omega
          rw [if_pos rfl, if_neg n1, if_pos n2]
          have e : a + k - a = k := by omega
          rw [e]
          rfl
        · have n1 : (a ≤ m ∧ m < a + (k + 1)) ↔ (a ≤ m ∧ m < a + k) := by omega
          simp [e, n1]
  obtain ⟨_, h1, h2⟩ := key n s
  exact ⟨h1, h2⟩

/-- A wave's change that touches the scalars only. -/
def ScalarsOnly (v w : Wave) : Prop := w = { v with scalars := w.scalars }
theorem ScalarsOnly.refl (w : Wave) : ScalarsOnly w w := rfl
theorem ScalarsOnly.trans {u v w : Wave} (h : ScalarsOnly u v) (g : ScalarsOnly v w) : ScalarsOnly u w := by
  unfold ScalarsOnly at *; rw [g, h]
theorem setScalar_only (w : Wave) (n : Nat) (v : Word) : ScalarsOnly w (w.setScalar n v) := rfl

theorem writeRegs_sca (s : State) (w : WaveId) (t : Ty) (n a : Nat) (v : Nat × Nat) (vals : List (Nat × Nat))
    (ha : 768 ≤ a) :
    ScalarsOnly (s.wave w) ((s.writeRegs w t n a (v :: vals)).wave w) ∧
    ∀ m, ((s.writeRegs w t n a (v :: vals)).wave w).scalar m =
      if a - 768 ≤ m ∧ m < a - 768 + n then nth 0 (resultWords t n v.2) (m - (a - 768)) else (s.wave w).scalar m := by
  have na : ¬ a < 768 := by omega
  have key : ∀ k, ∀ (s : State),
      ScalarsOnly (s.wave w) (((List.range k).foldl (fun s i => s.updWave w fun y =>
        y.setScalar (a + i - 768) (nth 0 (resultWords t n v.2) i)) s).wave w) ∧
      ∀ m, (((List.range k).foldl (fun s i => s.updWave w fun y =>
        y.setScalar (a + i - 768) (nth 0 (resultWords t n v.2) i)) s).wave w).scalar m =
        if a - 768 ≤ m ∧ m < a - 768 + k then nth 0 (resultWords t n v.2) (m - (a - 768)) else (s.wave w).scalar m := by
    intro k
    induction k with
    | zero =>
      intro s
      refine ⟨rfl, fun m => ?_⟩
      have : ¬ (a - 768 ≤ m ∧ m < a - 768 + 0) := by omega
      rw [if_neg this]; rfl
    | succ k ih =>
      intro s
      obtain ⟨h1, h2⟩ := ih s
      rw [List.range_succ, List.foldl_append]
      simp only [List.foldl_cons, List.foldl_nil]
      rw [wave_updWave_same]
      refine ⟨?_, ?_⟩
      · exact h1.trans (setScalar_only ..)
      · intro m
        by_cases e : m = a + k - 768
        · have n2 : a - 768 ≤ m ∧ m < a - 768 + (k + 1) := by omega
          have n3 : m - (a - 768) = k := by omega
          rw [if_pos n2, n3, e]
          simp [Wave.setScalar, Wave.scalar]
        · have n1 : (a - 768 ≤ m ∧ m < a - 768 + (k + 1)) ↔ (a - 768 ≤ m ∧ m < a - 768 + k) := by omega
          simp only [n1, ← h2 m]
          simp [Wave.setScalar, Wave.scalar, mget_mput_ne _ _ _ e]
  have e : s.writeRegs w t n a (v :: vals) = (List.range n).foldl (fun s i => s.updWave w fun y =>
        y.setScalar (a + i - 768) (nth 0 (resultWords t n v.2) i)) s := by
    unfold State.writeRegs
    simp only [na, if_false]
  rw [e]
  exact key n s

end Sys2Proof.Machine
end

