-- ==== Sys2Proof/Laws/Rows.lean ====
section
/-! SUPPORT. Obtaining pool rows: what it leaves, and that it needs none when every destination is mapped. -/

namespace Sys2Proof.Machine

open Sys2Proof

/-- Nothing changes but the rename maps of waves, and no register's value. -/
structure MapsOnly (s t : State) : Prop where
  rest : t = { s with blocks := t.blocks }
  block : ∀ b, t.blk b = { s.blk b with waves := (t.blk b).waves }
  wave : ∀ v, MapOnly (s.wave v) (t.wave v)
  value : ∀ v n l, (t.wave v).vlane n l = (s.wave v).vlane n l

theorem MapsOnly.refl (s : State) : MapsOnly s s := ⟨rfl, fun _ => rfl, fun _ => rfl, fun _ _ _ => rfl⟩

theorem MapsOnly.trans {s t u : State} (h : MapsOnly s t) (g : MapsOnly t u) : MapsOnly s u where
  rest := by rw [g.rest, h.rest]
  block b := by rw [g.block, h.block]
  wave v := (h.wave v).trans (g.wave v)
  value v n l := by rw [g.value, h.value]

theorem MapsOnly.of_updWave (s : State) (w : WaveId) (f : Wave → Wave) (h : ∀ x, MapOnly x (f x))
    (hv : ∀ n l, (f (s.wave w)).vlane n l = (s.wave w).vlane n l) : MapsOnly s (s.updWave w f) where
  rest := rfl
  block := blk_updWave s w f
  wave v := by
    by_cases e : v = w
    · subst e; rw [wave_updWave_same]; exact h _
    · rw [wave_updWave_ne _ _ e]; exact MapOnly.refl _
  value v n l := by
    by_cases e : v = w
    · subst e; rw [wave_updWave_same]; exact hv n l
    · rw [wave_updWave_ne _ _ e]

/-- A name's value is that of its row, 0 without one. -/
theorem vlane_mput (w : Wave) (m n : Nat) (r : VReg) (l : Nat) :
    ({ w with vregs := mput w.vregs m r } : Wave).vlane n l = if n = m then mget 0 r.lanes l else w.vlane n l := by
  unfold Wave.vlane Wave.vreg
  by_cases e : n = m
  · subst e; simp
  · rw [mfind_mput_ne _ _ e, if_neg e]

/-- Changing the row of a mapped name but not its lanes changes no value. -/
theorem vlane_mupd (w : Wave) (m n : Nat) (f : VReg → VReg) (hf : ∀ r, (f r).lanes = r.lanes) (l : Nat) :
    ({ w with vregs := mupd VReg.zero w.vregs m f } : Wave).vlane n l = w.vlane n l := by
  unfold mupd
  rw [vlane_mput]
  by_cases e : n = m
  · subst e
    rw [if_pos rfl, hf, mget_eq_mfind VReg.zero w.vregs]
    unfold Wave.vlane Wave.vreg
    cases mfind w.vregs n <;> simp [VReg.zero, mget]
  · rw [if_neg e]

theorem allocRow_maps {s t : State} {w : WaveId} (h : s.allocRow w = .ok t) : MapsOnly s t := by
  unfold State.allocRow at h
  dsimp only at h
  split at h
  · cases h; exact MapsOnly.refl _
  · split at h
    · cases h
      exact MapsOnly.of_updWave _ _ _ (fun _ => rfl) fun n l => by refine vlane_mupd _ _ n _ ?_ l; exact fun _ => rfl
    · split at h <;> cases h

theorem mapName_maps {s t : State} {w : WaveId} {n : Nat} (h : s.mapName w n = .ok t)
    (hz : ∀ l, (s.wave w).vlane n l = 0) : MapsOnly s t := by
  unfold State.mapName at h
  split at h
  · rename_i e
    cases h
    refine (allocRow_maps e).trans (MapsOnly.of_updWave _ _ _ (fun _ => rfl) fun m l => ?_)
    rw [vlane_mput]
    split
    · rename_i hm
      rw [hm, (allocRow_maps e).value, hz]; rfl
    · rfl
  · rename_i hn
    exact absurd h (hn _)

theorem startReload_maps {s t : State} {w : WaveId} {n : Nat} (h : s.startReload w n = .ok t) : MapsOnly s t := by
  unfold State.startReload at h
  split at h
  · rename_i e
    cases h
    exact (allocRow_maps e).trans
      (MapsOnly.of_updWave _ _ _ (fun _ => rfl) fun n l => by refine vlane_mupd _ _ n _ ?_ l; exact fun _ => rfl)
  · rename_i hn
    exact absurd h (hn _)

/-- Obtaining the row of a name changes rename maps only: a SPILLED name keeps its image, and a new one reads 0 as before. -/
theorem obtainRow_maps {s t : State} {w : WaveId} {n : Nat} (h : s.obtainRow w n = .ok t)
    (hz : (s.wave w).isSpilled n = false → ∀ l, (s.wave w).vlane n l = 0) : MapsOnly s t := by
  unfold State.obtainRow at h
  split at h
  · exact startReload_maps h
  · rename_i e
    exact mapName_maps h (hz (by simpa using e))

theorem obtainRows_maps {w : WaveId} (l : List (Nat × Nat)) :
    ∀ {s t : State} {got : List (Nat × Option VReg)}, s.obtainRows w got l = .ok t →
      (∀ p ∈ l, ∀ k, (s.wave w).vlane p.2 k = 0) → MapsOnly s t := by
  induction l with
  | nil => intro s t got h _; cases h; exact MapsOnly.refl _
  | cons a l ih =>
    intro s t got h hz
    obtain ⟨o, c⟩ := a
    unfold State.obtainRows at h
    split at h
    · rename_i s' e
      have m : MapsOnly s s' := obtainRow_maps e fun _ => hz (o, c) (by simp)
      exact m.trans (ih h fun p hp k => by rw [m.value]; exact hz p (by simp [hp]) k)
    · cases h
    · cases h

theorem mem_sortN (l : List Nat) (a : Nat) : a ∈ sortN l ↔ a ∈ l := by
  have ins : ∀ (x : Nat) (l : List Nat) (a : Nat), a ∈ insertN x l ↔ a = x ∨ a ∈ l := by
    intro x l
    induction l with
    | nil => intro a; simp [insertN]
    | cons y t ih =>
      intro a
      simp only [insertN]
      split
      · simp
      · split
        · rename_i h; subst h; simp
        · simp only [List.mem_cons, ih]
          constructor
          · rintro (h | h | h)
            · exact .inr (.inl h)
            · exact .inl h
            · exact .inr (.inr h)
          · rintro (h | h | h)
            · exact .inr (.inl h)
            · exact .inl h
            · exact .inr (.inr h)
  induction l with
  | nil => simp [sortN]
  | cons y t ih =>
    have : sortN (y :: t) = insertN y (sortN t) := rfl
    simp only [this, ins, ih, List.mem_cons]

theorem Use.Rows.maps {u : Use} {s t : State} {w : WaveId} (h : u.Rows s w t) : MapsOnly s t := by
  refine obtainRows_maps _ h.1 fun p hp k => ?_
  obtain ⟨c, hc, rfl⟩ := List.mem_map.mp hp
  rw [mem_sortN] at hc
  obtain ⟨q, hq, rfl⟩ := List.mem_map.mp hc
  have := (List.mem_filter.mp hq).2
  simp only [Bool.and_eq_true, Option.isNone_iff_eq_none] at this
  simp [Wave.vlane, this.2]

theorem scanRead_unspilled {w : Wave} {c : Nat} {b : Bool} (h : w.scanRead c b = .fine) : w.isSpilled c = false := by
  unfold Wave.isSpilled
  unfold Wave.scanRead at h
  split
  next r hr =>
    by_cases hc : c < 768
    · rw [if_pos hc, hr] at h
      cases hs : r.st
      · simp
      · simp
      · dsimp only at h; rw [hs] at h; cases b <;> simp at h
    · simp [Nat.blt_eq, hc]
  next => rfl

theorem scanWrite_unspilled {w : Wave} {c : Nat} (h : w.scanWrite c = .fine) : w.isSpilled c = false := by
  unfold Wave.isSpilled
  unfold Wave.scanWrite at h
  split
  next r hr =>
    by_cases hc : c < 768
    · rw [if_pos hc, hr] at h
      cases hs : r.st
      · simp
      · simp
      · dsimp only at h; rw [hs] at h; simp at h
    · simp [Nat.blt_eq, hc]
  next => rfl

/-- No name of an instruction whose registers are ready is SPILLED. -/
theorem Use.Ready.unspilled {u : Use} {w : Wave} (h : u.Ready w) : ∀ p ∈ u.names, w.isSpilled p.2 = false := by
  intro p hp
  rcases List.mem_append.mp hp with hd | hd
  · unfold Use.dsts at hd
    cases e : u.dst with
    | none => rw [e] at hd; cases hd
    | some d =>
      rw [e] at hd
      obtain ⟨c, hc, rfl⟩ := List.mem_map.mp hd
      exact scanWrite_unspilled (h.2 d e c hc)
  · obtain ⟨r, hr, hd⟩ := List.mem_flatMap.mp hd
    obtain ⟨c, hc, rfl⟩ := List.mem_map.mp hd
    exact scanRead_unspilled (h.1 r hr c hc)

/-- No row is needed when no vector destination is UNMAPPED. -/
theorem Use.Rows.of_mapped {u : Use} {s : State} {w : WaveId}
    (h : ∀ c ∈ u.dsts.map (·.2), c < 768 → (s.wave w).vreg c ≠ none) (hs : ∀ p ∈ u.names, (s.wave w).isSpilled p.2 = false) :
    u.Rows s w s := by
  refine ⟨?_, hs⟩
  have e : (u.dsts.filter fun x => Nat.blt x.2 768 && ((s.wave w).vreg x.2).isNone) = [] := by
    rw [List.filter_eq_nil_iff]
    intro p hp
    have := h p.2 (List.mem_map_of_mem hp)
    simp only [Bool.and_eq_true, not_and, Option.isNone_iff_eq_none]
    intro hlt
    exact this (by simpa [Nat.blt_eq] using hlt)
  unfold State.obtainNew
  simp [namesWhere, e, sortN, State.obtainRows]

/-! ### Mapped names stay mapped -/

theorem vreg_updWave_mono {s : State} {w v : WaveId} {f : Wave → Wave} {n : Nat}
    (hf : ∀ x : Wave, x.vreg n ≠ none → (f x).vreg n ≠ none) (h : (s.wave v).vreg n ≠ none) :
    ((s.updWave w f).wave v).vreg n ≠ none := by
  by_cases e : v = w
  · subst e; rw [wave_updWave_same]; exact hf _ h
  · rw [wave_updWave_ne _ _ e]; exact h

theorem mput_mono {m : Map VReg} {k n : Nat} {r : VReg} (h : mfind m n ≠ none) : mfind (mput m k r) n ≠ none := by
  by_cases e : n = k
  · subst e; simp
  · rw [mfind_mput_ne _ _ e]; exact h

theorem allocRow_mono {s t : State} {w v : WaveId} {n : Nat}
    (h : s.allocRow w = .ok t) (hn : (s.wave v).vreg n ≠ none) : (t.wave v).vreg n ≠ none := by
  unfold State.allocRow at h
  dsimp only at h
  split at h
  · cases h; exact hn
  · split at h
    · cases h; exact vreg_updWave_mono (fun x hx => mput_mono hx) hn
    · split at h <;> cases h

/-- A row obtained maps its name, and leaves what is mapped mapped. -/
theorem obtainRow_mono {s t : State} {w v : WaveId} {c n : Nat} (h : s.obtainRow w c = .ok t) :
    ((s.wave v).vreg n ≠ none → (t.wave v).vreg n ≠ none) ∧ (t.wave w).vreg c ≠ none := by
  unfold State.obtainRow State.startReload State.mapName at h
  split at h <;> split at h
  · rename_i e
    cases h
    refine ⟨fun hn => vreg_updWave_mono (fun x hx => mput_mono hx) (allocRow_mono e hn), ?_⟩
    rw [wave_updWave_same]
    simp [Wave.vreg, mupd]
  · rename_i hn
    exact absurd h (hn _)
  · rename_i e
    cases h
    refine ⟨fun hn => vreg_updWave_mono (fun x hx => mput_mono hx) (allocRow_mono e hn), ?_⟩
    rw [wave_updWave_same]
    simp [Wave.vreg]
  · rename_i hn
    exact absurd h (hn _)

theorem obtainRows_mapped {w : WaveId} (l : List (Nat × Nat)) :
    ∀ {s t : State} {got : List (Nat × Option VReg)}, s.obtainRows w got l = .ok t →
      (∀ n, (s.wave w).vreg n ≠ none → (t.wave w).vreg n ≠ none) ∧ ∀ p ∈ l, (t.wave w).vreg p.2 ≠ none := by
  induction l with
  | nil => intro s t got h; cases h; exact ⟨fun _ h => h, by simp⟩
  | cons a l ih =>
    intro s t got h
    obtain ⟨o, c⟩ := a
    unfold State.obtainRows at h
    split at h
    · rename_i s' e
      have hs : (∀ n, (s.wave w).vreg n ≠ none → (s'.wave w).vreg n ≠ none) ∧ (s'.wave w).vreg c ≠ none :=
        ⟨fun n hn => (obtainRow_mono e).1 hn, (obtainRow_mono e (n := 0) (v := w)).2⟩
      obtain ⟨h1, h2⟩ := ih h
      refine ⟨fun n hn => h1 n (hs.1 n hn), ?_⟩
      intro p hp
      rcases List.mem_cons.mp hp with rfl | hp
      · exact h1 _ hs.2
      · exact h2 p hp
    · cases h
    · cases h

/-- Every vector destination is mapped once its rows have been obtained. -/
theorem Use.Rows.mapped {u : Use} {s t : State} {w : WaveId} (h : u.Rows s w t) :
    ∀ c ∈ u.dsts.map (·.2), c < 768 → (t.wave w).vreg c ≠ none := by
  intro c hc hlt
  obtain ⟨h1, h2⟩ := obtainRows_mapped _ h.1
  by_cases e : (s.wave w).vreg c = none
  · obtain ⟨p, hp, rfl⟩ := List.mem_map.mp hc
    have hm : ∃ o, (o, p.2) ∈ namesWhere u.dsts fun c => ((s.wave w).vreg c).isNone := by
      refine ⟨_, List.mem_map.mpr ⟨p.2, ?_, rfl⟩⟩
      rw [mem_sortN]
      refine List.mem_map.mpr ⟨p, List.mem_filter.mpr ⟨hp, ?_⟩, rfl⟩
      simp [e, Nat.blt_eq, hlt]
    obtain ⟨o, ho⟩ := hm
    exact h2 (o, p.2) ho
  · exact h1 c e

end Sys2Proof.Machine
end

