-- ==== Sys2Proof/Laws/Finish.lean ====
section
/-! SUPPORT. One wave executes an instruction whose operands are ready: the whole effect. -/

namespace Sys2Proof.Machine

open Sys2Proof

theorem Use.Ready.congr {u : Use} {v w : Wave} (h : u.Ready v) (h1 : w.vregs = v.vregs) (h2 : w.sEmpty = v.sEmpty) :
    u.Ready w := by
  have r : ∀ c b, w.scanRead c b = v.scanRead c b := by intro c b; simp [Wave.scanRead, Wave.vreg, h1, h2]
  have q : ∀ c, w.scanWrite c = v.scanWrite c := by intro c; simp [Wave.scanWrite, Wave.vreg, h1, h2]
  exact ⟨fun a ha c hc => by rw [r]; exact h.1 a ha c hc, fun d hd c hc => by rw [q]; exact h.2 d hd c hc⟩

theorem readsUnmapped_congr (u : Use) {v w : Wave} (h1 : w.vregs = v.vregs) : u.readsUnmapped w = u.readsUnmapped v := by
  simp [Use.readsUnmapped, Wave.vreg, h1]

theorem regValue_congr {v w : Wave} (h1 : w.vregs = v.vregs) (h2 : w.scalars = v.scalars) (l : Nat) (cs : List Nat) :
    w.regValue l cs = v.regValue l cs := by
  induction cs with
  | nil => rfl
  | cons c t ih => simp [Wave.regValue, Wave.vlane, Wave.vreg, Wave.scalar, h1, h2, ih]

theorem special_congr {s t : State} {w : WaveId} (h : OnWave s t w) (v : WaveId) (l : Nat) (wide : Bool) (k : Special) :
    t.special v l wide k = s.special v l wide k := by
  have e := h.rest
  have b := h.block v.blk
  have b1 : (t.blk v.blk).bx = (s.blk v.blk).bx := by rw [b]
  have b2 : (t.blk v.blk).by_ = (s.blk v.blk).by_ := by rw [b]
  have b3 : (t.blk v.blk).bz = (s.blk v.blk).bz := by rw [b]
  have b4 : (t.blk v.blk).rank = (s.blk v.blk).rank := by rw [b]
  have b5 : (t.blk v.blk).core = (s.blk v.blk).core := by rw [b]
  have b6 : (t.blk v.blk).launch = (s.blk v.blk).launch := by rw [b]
  have el : ∀ n, t.launch n = s.launch n := fun n => launch_congr (by rw [e]) n
  have ep : t.podTime = s.podTime := by rw [e]
  have ec : t.cal = s.cal := by rw [e]
  have ek : t.pkgid = s.pkgid := by rw [e]
  cases k <;> simp only [State.special, State.launchOf, State.slotNow, State.cycleNow, el, ep, ec, ek, b1, b2, b3, b4, b5, b6]

/-- Sources read the same where registers and the rest of the package are the same. -/
theorem value_congr {s t : State} {w : WaveId} (h : OnWave s t w) (h1 : (t.wave w).vregs = (s.wave w).vregs)
    (h2 : (t.wave w).scalars = (s.wave w).scalars) (u : Use) (p : Map (Map Nat)) (o l : Nat) :
    t.value w u p o l = s.value w u p o l := by
  unfold State.value
  split
  · unfold State.srcValue
    simp only [regValue_congr h1 h2, special_congr h]
  · rfl

theorem advance_value (s : State) (x : Iss) (u : Use) (p : Map (Map Nat)) (o l : Nat) :
    (s.advance x).value x.wid u p o l = s.value x.wid u p o l :=
  value_congr (advance_only s x) (by rw [advance_wave]) (by rw [advance_wave]) u p o l

/-- The members of a group's wave are live and ready. -/
theorem Alone.ready {s : State} {i : Instr} {r : Run} {w : WaveId} {ms : List Nat} (h : Alone s i r w ms) :
    ∀ l ∈ ms, (s.thread (w.thread l)).live = true ∧ (s.thread (w.thread l)).wait = .ready := by
  intro l hl
  have hw := h.waves
  unfold State.groupWaves at hw
  dsimp only at hw
  have hm : ∃ g, (g, ms) ∈ [(w, ms)] ∧ g = w := ⟨w, List.mem_cons_self .., rfl⟩
  rw [← hw] at hm
  obtain ⟨g, hm, rfl⟩ := hm
  simp only [List.mem_map] at hm
  obtain ⟨v, _, e⟩ := hm
  obtain ⟨rfl, rfl⟩ := Prod.mk.inj e
  have := (mem_sortN _ _).mp hl
  simp only [List.mem_map, List.mem_filter, decide_eq_true_eq] at this
  obtain ⟨t, ⟨⟨_, hr⟩, rfl⟩, rfl⟩ := this
  simp only [State.isReady, Bool.and_eq_true, decide_eq_true_eq] at hr
  exact ⟨hr.1.2, hr.2⟩

theorem advance_calm {s : State} {i : Instr} {r : Run} {w : WaveId} {ms : List Nat} (h : Alone s i r w ms) :
    ((s.advance (s.site i r w ms)).wave w).deadlocked = false := by
  have hc : ((s.openInterval w).wave w).deadlocked = false := by
    rw [openInterval_wave]; exact h.calm
  have key : (((s.openInterval w).updThreads w ms (goOn (s.site i r w ms) s.cycle)).wave w).deadlocked = false := by
    refine calm_updThreads _ _ _ _ hc (goOn_goOn _ _) ?_
    intro l hl
    have := h.ready l hl
    rw [openInterval_thread]
    unfold Goer goOn
    cases e : (s.thread (w.thread l)).handler with
    | true => exact .inl ⟨rfl, rfl⟩
    | false => exact .inr ⟨this.1, rfl, by simp [this.2]⟩
  rcases advance_eq s (s.site i r w ms) with e | e <;> rw [e]
  · exact key
  · have : (s.site i r w ms).wid = w := rfl
    rw [this, wave_updWave_same]
    exact (deadlocked_congr rfl).trans key

/-- An instruction that a wave completes is retired. -/
theorem outcome_done {s T : State} {i : Instr} {r : Run} {w : WaveId} {ms : List Nat} {x : Iss} (h : Alone s i r w ms)
    (hs : T.cores = s.cores) : s.outcome i r w ms x (.done T) = T.retire i s.cur.1 s.cur.2 r [(w, ms)] [] := by
  have : (T.slot s.cur.1 s.cur.2).pend = none := by rw [slot_congr hs]; exact h.free
  simp [State.outcome, State.settled, this]

/-- Setting predicates of participating lanes leaves everything of a thread but its predicates. -/
def PredsOnly (t u : Thread) : Prop := u = { t with preds := u.preds }

theorem setPred_only (t : Thread) (p : Nat) (v : Bool) : PredsOnly t (t.setPred p v) := by
  unfold PredsOnly Thread.setPred; split <;> rfl

theorem setPreds_only (s : State) (w : WaveId) (p : Nat) (vals : List (Nat × Bool)) : OnWave s (s.setPreds w p vals) w :=
  OnWave.foldl _ _ (fun _ _ _ => OnWave.of_updThread ..) s

theorem setPreds_wave (s : State) (w : WaveId) (p : Nat) (vals : List (Nat × Bool)) :
    (s.setPreds w p vals).wave w = { s.wave w with threads := ((s.setPreds w p vals).wave w).threads } := by
  unfold State.setPreds
  induction vals generalizing s with
  | nil => rfl
  | cons a t ih => simp only [List.foldl_cons]; rw [ih, wave_updThread]

theorem setPreds_thread (s : State) (w : WaveId) (p : Nat) (vals : List (Nat × Bool)) (u : ThreadId) :
    PredsOnly (s.thread u) ((s.setPreds w p vals).thread u) := by
  unfold State.setPreds
  induction vals generalizing s with
  | nil => rfl
  | cons a t ih =>
    simp only [List.foldl_cons]
    have h := ih (s.updThread (w.thread a.1) fun t => t.setPred p a.2)
    have h1 : PredsOnly (s.thread u) ((s.updThread (w.thread a.1) fun t => t.setPred p a.2).thread u) := by
      by_cases e : u = w.thread a.1
      · subst e; rw [thread_updThread_same]; exact setPred_only ..
      · rw [thread_updThread_ne _ _ e]; rfl
    unfold PredsOnly at *
    rw [h, h1]

theorem setPreds_calm (s : State) (w : WaveId) (p : Nat) (vals : List (Nat × Bool))
    (hc : (s.wave w).deadlocked = false)
    (hr : ∀ v ∈ vals, (s.thread (w.thread v.1)).live = true ∧ (s.thread (w.thread v.1)).wait = .ready) :
    ((s.setPreds w p vals).wave w).deadlocked = false := by
  unfold State.setPreds
  induction vals generalizing s with
  | nil => exact hc
  | cons a t ih =>
    simp only [List.foldl_cons]
    refine ih _ ?_ ?_
    · refine calm_updThread s w a.1 _ hc ?_
      have := hr a (List.mem_cons_self ..)
      have e := setPred_only (s.thread (w.thread a.1)) p a.2
      unfold PredsOnly at e
      unfold Goer
      rw [e]
      cases hh : (s.thread (w.thread a.1)).handler with
      | true => exact .inl ⟨rfl, rfl⟩
      | false => exact .inr ⟨this.1, rfl, by simp [this.2]⟩
    · intro v hv
      have := hr v (List.mem_cons_of_mem _ hv)
      by_cases e : w.thread v.1 = w.thread a.1
      · have h2 := setPred_only (s.thread (w.thread v.1)) p a.2
        unfold PredsOnly at h2
        rw [e, thread_updThread_same, ← e, h2]
        exact this
      · rw [thread_updThread_ne _ _ e]; exact this

/-- The predicate `p` of a lane after some lanes have set it. -/
theorem setPreds_preds (s : State) (w : WaveId) (p : Nat) (vals : List (Nat × Bool)) (l : Nat)
    (h : l ∉ vals.map (·.1)) : (s.setPreds w p vals).thread (w.thread l) = s.thread (w.thread l) := by
  unfold State.setPreds
  induction vals generalizing s with
  | nil => rfl
  | cons a t ih =>
    simp only [List.map_cons, List.mem_cons, not_or] at h
    simp only [List.foldl_cons]
    rw [ih _ h.2, thread_updThread_ne]
    exact fun e => h.1 (congrArg ThreadId.lane e)

theorem setPred_setPred (t : Thread) (p : Nat) (b : Bool) : (t.setPred p b).setPred p b = t.setPred p b := by
  unfold Thread.setPred
  split
  · rfl
  · cases b <;> simp [BitVec.or_assoc, BitVec.and_assoc]

theorem setPreds_lane (s : State) (w : WaveId) (p : Nat) (f : Nat → Bool) (ls : List Nat) (l : Nat) :
    (s.setPreds w p (ls.map fun l => (l, f l))).thread (w.thread l) =
      if l ∈ ls then (s.thread (w.thread l)).setPred p (f l) else s.thread (w.thread l) := by
  unfold State.setPreds
  induction ls generalizing s with
  | nil => simp
  | cons a t ih =>
    simp only [List.map_cons, List.foldl_cons, ih]
    by_cases e : l = a
    · subst e; simp [setPred_setPred]
    · have : w.thread l ≠ w.thread a := fun h => e (congrArg ThreadId.lane h)
      simp [thread_updThread_ne _ _ this, e]

/-- A predicate reads as it has been set: `p0` is always true, and a number above 15 names none. -/
theorem setPred_pred (t : Thread) (p : Nat) (v : Bool) (q : Nat) (hp : 0 < p ∧ p < 16) :
    (t.setPred p v).pred q = if q = p then v else t.pred q := by
  have h0 : p ≠ 0 := by omega
  unfold Thread.setPred Thread.pred
  simp only [h0, if_false]
  by_cases hq : q < 16
  · by_cases e : q = p
    · subst e
      cases v <;> simp [h0, hp.2]
    · by_cases h : q < p
      · cases v <;> simp [e, hq, h]
      · have : q - p ≠ 0 := by omega
        cases v <;> simp [e, hq, h, this]
  · have e : q ≠ p := by omega
    have h1 : ∀ b : BitVec 16, b.getLsbD q = false := fun b => BitVec.getLsbD_of_ge b q (by omega)
    simp [h1, e]

theorem prepared_only (s s1 : State) (x : Iss) (u : Use) : OnWave s1 (s.prepared s1 x u) x.wid := by
  unfold State.prepared
  split
  · exact (setUrd_only ..).trans (OnWave.of_forgetWaits ..)
  · exact OnWave.of_forgetWaits ..

theorem prepared_wave (s s1 : State) (x : Iss) (u : Use) : (s.prepared s1 x u).wave x.wid =
    { s1.wave x.wid with
      wstat := (s1.wave x.wid).wstat ||| (if u.readsUnmapped (s.wave x.wid) then 1#32 else 0#32) } := by
  unfold State.prepared
  split
  · have e : ((s1.setUrd x.wid).forgetWaits x.wid x.lanes).wave x.wid = (s1.setUrd x.wid).wave x.wid :=
      wave_congr rfl _
    rw [e]; unfold State.setUrd; rw [wave_updWave_same]; rfl
  · have e : (s1.forgetWaits x.wid x.lanes).wave x.wid = s1.wave x.wid := wave_congr rfl _
    rw [e]; simp

/-- An instruction that writes registers is carried out for one wave: `g` is what it does besides (the predicates). -/
theorem issue_finish {s s1 : State} {i : Instr} {r : Run} {w : WaveId} {ms : List Nat} (h : Alone s i r w ms)
    {u : Use} (hd : s.decodeTrap i u.vnames r.group.pc w ms = none)
    (hl : (s.site i r w ms).lanes ≠ []) (hr : u.Ready (s.wave w)) (hq : u.NoQueue)
    (ht : u.Rows (s.advance (s.site i r w ms)) w s1) (g : State → State) (vals : List (Nat × Nat)) (flags : Nat)
    (body : Iss → (Nat → Nat → Nat) → State → WOut)
    (hb : body (s.site i r w ms) (s.value w u []) (s.prepared s1 (s.site i r w ms) u) =
      (g (s.prepared s1 (s.site i r w ms) u)).finish (s.site i r w ms) u (s.site i r w ms).lanes vals flags)
    (hg1 : OnWave (s.prepared s1 (s.site i r w ms) u) (g (s.prepared s1 (s.site i r w ms) u)) w)
    (hg2 : (g (s.prepared s1 (s.site i r w ms) u)).wave w = { (s.prepared s1 (s.site i r w ms) u).wave w with
      threads := ((g (s.prepared s1 (s.site i r w ms) u)).wave w).threads })
    (hg3 : ((s.prepared s1 (s.site i r w ms) u).wave w).deadlocked = false →
      ((g (s.prepared s1 (s.site i r w ms) u)).wave w).deadlocked = false) :
    ∃ t R, s.issueWith i u.vnames (fun x s => s.withOperands x u fun vals s => body x vals s) = t ∧
      R = ((g (s.prepared s1 (s.site i r w ms) u)).clearLast (s.site i r w ms) u (s.site i r w ms).lanes).writeDst w u vals ∧
      OnlyWave s1 t w s.cur.1 s.cur.2 ∧
      t.wave w = { (R.wave w).freeRows with
        wstat := (t.wave w).wstat, fstat := (s.wave w).fstat ||| BitVec.ofNat 32 flags, threads := (t.wave w).threads } ∧
      (t.wave w).wstat ||| 2#32 =
        (s.wave w).wstat ||| (if u.readsUnmapped (s.wave w) then 1#32 else 0#32) ||| 2#32 ∧
      (∀ l, Retired ((g (s.prepared s1 (s.site i r w ms) u)).thread (w.thread l)) (t.thread (w.thread l))) := by
  generalize hx : s.site i r w ms = x at *
  have hw : x.wid = w := by rw [← hx]; rfl
  subst hw
  have a0 := advance_wave s x
  have av : ((s.advance x).wave x.wid).vregs = (s.wave x.wid).vregs := by rw [a0]
  have ase : ((s.advance x).wave x.wid).sEmpty = (s.wave x.wid).sEmpty := by rw [a0]
  have asc : ((s.advance x).wave x.wid).scalars = (s.wave x.wid).scalars := by rw [a0]
  have af : ((s.advance x).wave x.wid).fstat = (s.wave x.wid).fstat := by rw [a0]
  have aw : ((s.advance x).wave x.wid).wstat = (s.wave x.wid).wstat := by rw [a0]
  have hm := ht.maps
  have m1 := hm.wave x.wid
  unfold MapOnly at m1
  generalize hP : s.prepared s1 x u = P at *
  have pw := prepared_wave s s1 x u
  have po := prepared_only s s1 x u
  rw [hP] at pw po
  -- calm
  have c0 : ((s.advance x).wave x.wid).deadlocked = false := by
    have := advance_calm h; rwa [hx] at this
  have c1 : (P.wave x.wid).deadlocked = false := by
    rw [pw]
    refine (deadlocked_congr (w := (s.advance x).wave x.wid) ?_).trans c0
    show (s1.wave x.wid).threads = _
    rw [m1]
  have c2 := hg3 c1
  -- the issue
  have hi := issueWith_one h u.vnames (fun x s => s.withOperands x u fun vals s => body x vals s) hd (by rw [hx]; exact hl)
  rw [hx] at hi
  have hwo := withOperands_ready (s := s.advance x) (t := s1) (x := x) (u := u) (fun vals s => body x vals s)
    (hr.congr av ase) hq ht
  have hval : (s.advance x).value x.wid u [] = s.value x.wid u [] := by
    funext o l; exact advance_value s x u [] o l
  have hpr : ((if u.readsUnmapped ((s.advance x).wave x.wid) then s1.setUrd x.wid else s1).forgetWaits x.wid x.lanes) = P := by
    rw [readsUnmapped_congr u av, ← hP]; rfl
  rw [hval, hpr, hb, finish_regs _ _ _ _ hq] at hwo
  rw [hwo] at hi
  generalize hG : g P = G at *
  refine ⟨_, _, hi, rfl, ?_⟩
  generalize hR : (G.clearLast x u x.lanes).writeDst x.wid u vals = R
  have ro : OnWave G R x.wid := by
    rw [← hR]; exact (clearLast_only ..).trans (writeDst_only ..)
  generalize hTT : (R.orFstat x.wid (BitVec.ofNat 32 flags)).updWave x.wid Wave.freeRows = T
  have tw : T.wave x.wid = { (R.wave x.wid).freeRows with fstat := (R.wave x.wid).fstat ||| BitVec.ofNat 32 flags } := by
    rw [← hTT, wave_updWave_same]; unfold State.orFstat; rw [wave_updWave_same]; rfl
  have to_ : OnWave s1 T x.wid := by
    rw [← hTT]
    exact po.trans (hg1.trans (ro.trans ((orFstat_only ..).trans (OnWave.of_updWave ..))))
  -- the registers' write touches nothing else of the wave
  have rw_ : ∃ sc, R.wave x.wid = { G.wave x.wid with scalars := sc, vregs := (R.wave x.wid).vregs } := by
    have cl := (clearLast_wave G x u x.lanes).1
    unfold MapOnly at cl
    rw [← hR]
    unfold State.writeDst
    cases u.dst with
    | none => exact ⟨_, cl⟩
    | some d =>
      dsimp only
      by_cases ha : nth 0 d.codes 0 < 768
      · have := (writeRegs_vec (G.clearLast x u x.lanes) x.wid d.ty d.n (nth 0 d.codes 0) vals ha).1
        unfold MapOnly at this
        rw [this, cl]
        exact ⟨_, rfl⟩
      · cases vals with
        | cons v vs =>
          have := (writeRegs_sca (G.clearLast x u x.lanes) x.wid d.ty d.n (nth 0 d.codes 0) v vs (by omega)).1
          unfold ScalarsOnly at this
          rw [this, cl]
          exact ⟨_, rfl⟩
        | nil =>
          have e : ((G.clearLast x u x.lanes).writeRegs x.wid d.ty d.n (nth 0 d.codes 0) []).wave x.wid =
              (G.clearLast x u x.lanes).wave x.wid := by
            unfold State.writeRegs
            generalize List.range d.n = ns
            generalize G.clearLast x u x.lanes = S
            induction ns generalizing S with
            | nil => rfl
            | cons a t ih =>
              simp only [List.foldl_cons]
              rw [ih, wave_updWave_same]
              simp [ha]
          rw [e, cl]
          exact ⟨_, rfl⟩
  obtain ⟨sc, rw_⟩ := rw_
  have rth : (R.wave x.wid).threads = (G.wave x.wid).threads := by rw [rw_]
  have rfs : (R.wave x.wid).fstat = (s.wave x.wid).fstat := by
    rw [rw_]; show (G.wave x.wid).fstat = _; rw [hg2]; show (P.wave x.wid).fstat = _; rw [pw]
    show (s1.wave x.wid).fstat = _; rw [m1]; exact af
  have rws : (R.wave x.wid).wstat =
      (s.wave x.wid).wstat ||| (if u.readsUnmapped (s.wave x.wid) then 1#32 else 0#32) := by
    rw [rw_]; show (G.wave x.wid).wstat = _; rw [hg2]; show (P.wave x.wid).wstat = _; rw [pw]
    show (s1.wave x.wid).wstat ||| _ = _; rw [m1]; show ((s.advance x).wave x.wid).wstat ||| _ = _; rw [aw]
  have tth : (T.wave x.wid).threads = (G.wave x.wid).threads := by rw [tw]; exact rth
  have cT : (T.wave x.wid).deadlocked = false := (deadlocked_congr tth).trans c2
  have hcores : T.cores = s.cores := by
    rw [to_.cores, hm.rest]; exact (advance_only s x).cores
  rw [outcome_done h hcores]
  obtain ⟨q1, q2, q3, q4⟩ := retire_one T i s.cur.1 s.cur.2 r x.wid ms cT h.ours
  refine ⟨(to_.only _ _).then_only q1, ?_, ?_, ?_⟩
  · rw [q2, tw]
    show _ = _
    rw [rfs]
  · rw [q3, tw]
    show (R.wave x.wid).wstat ||| _ = _
    rw [rws]
  · intro l
    have e : T.thread (x.wid.thread l) = G.thread (x.wid.thread l) := by
      show mget _ (T.wave x.wid).threads l = mget _ (G.wave x.wid).threads l
      rw [tth]
    rw [← e]; exact q4 _

/-! ### Results in registers -/

theorem mask_bit (ls : List Nat) (l : Nat) (h : l ∈ ls) (hl : l < 64) : (laneMask ls).getLsbD l = true := by
  have key : ∀ (ls : List Nat) (m : BitVec 64), m.getLsbD l = true ∨ l ∈ ls →
      (ls.foldl (fun m l => m ||| laneBit l) m).getLsbD l = true := by
    intro ls
    induction ls with
    | nil => intro m h; simpa using h
    | cons a t ih =>
      intro m h
      simp only [List.foldl_cons]
      apply ih
      rcases h with h | h
      · left; simp [h]
      · rcases List.mem_cons.mp h with rfl | h
        · left
          simp only [BitVec.getLsbD_or, laneBit, BitVec.getLsbD_ofNat, hl, Nat.testBit_two_pow_self]
          simp
        · exact .inr h
  exact key ls 0 (.inr h)

theorem mask_ne_zero (ls : List Nat) (l : Nat) (h : l ∈ ls) (hl : l < 64) (m : BitVec 64) : m ||| laneMask ls ≠ 0 := by
  intro e
  have := congrArg (fun b : BitVec 64 => b.getLsbD l) e
  simp [mask_bit ls l h hl] at this

theorem foldl_mput_get (f : Nat → Word) (ls : List Nat) (m : Map Word) (l : Nat) :
    mget 0 ((ls.map fun l => (l, f l)).foldl (fun m v => mput m v.1 v.2) m) l = if l ∈ ls then f l else mget 0 m l := by
  induction ls generalizing m with
  | nil => simp
  | cons a t ih =>
    simp only [List.map_cons, List.foldl_cons, ih]
    by_cases e : l = a
    · subst e; simp
    · simp [mget_mput_ne _ _ _ e, e]

/-- The names of a wave when a result has been written to registers and the rows without live lanes have been freed. -/
theorem names_vec {G R : State} {x : Iss} {u : Use} {d : Dst} {b : Nat} {vals : List (Nat × Nat)} {ls : List Nat}
    (hd : u.dst = some d) (hb : d.codes = rangeFrom b d.n) (hn : 0 < d.n) (hlt : b < 768)
    (hR : R = (G.clearLast x u ls).writeDst x.wid u vals) (m : Nat) :
    ((R.wave x.wid).freeRows).vreg m =
      (if b ≤ m ∧ m < b + d.n then
        ((G.wave x.wid).vreg m).map fun r => (u.cleared ls m r).written (resultLanes d.ty d.n vals (m - b)) G.cycle
      else ((G.wave x.wid).vreg m).map (u.cleared ls m)).filter VReg.stays := by
  have hc : nth 0 d.codes 0 = b := by
    rw [hb]
    simp only [rangeFrom, nth]
    have : (List.range d.n) = 0 :: (List.range (d.n - 1)).map (· + 1) := by
      obtain ⟨k, hk⟩ : ∃ k, d.n = k + 1 := ⟨d.n - 1, by omega⟩
      rw [hk, List.range_succ_eq_map]; rfl
    rw [this]; simp
  rw [freeRows_vreg, hR]
  unfold State.writeDst
  simp only [hd, hc]
  have h1 := (writeRegs_vec (G.clearLast x u ls) x.wid d.ty d.n b vals hlt).2 m
  have h2 := (clearLast_wave G x u ls).2 m
  have h3 : (G.clearLast x u ls).cycle = G.cycle := rfl
  rw [h1, h2, h3]
  congr 1
  split
  · cases (G.wave x.wid).vreg m <;> rfl
  · rfl

end Sys2Proof.Machine
end

