-- ==== Sys2Proof/Laws/Carry.lean ====
section
/-! SUPPORT. One wave carries out an instruction that writes registers or predicates: the common forms. -/

namespace Sys2Proof.Machine

open Sys2Proof

theorem prepared_thread {s s1 : State} {x : Iss} {u : Use} (h : MapsOnly (s.advance x) s1) (l : Nat) :
    (s.prepared s1 x u).thread (x.wid.thread l) = (s.advance x).thread (x.wid.thread l) := by
  have e : ((s.prepared s1 x u).wave x.wid).threads = ((s.advance x).wave x.wid).threads := by
    rw [prepared_wave]
    show (s1.wave x.wid).threads = _
    have := h.wave x.wid
    unfold MapOnly at this
    rw [this]
  show mget _ ((s.prepared s1 x u).wave x.wid).threads l = mget _ ((s.advance x).wave x.wid).threads l
  rw [e]

theorem prepared_vregs (s s1 : State) (x : Iss) (u : Use) :
    ((s.prepared s1 x u).wave x.wid).vregs = (s1.wave x.wid).vregs := by rw [prepared_wave]

theorem prepared_scalars {s s1 : State} {x : Iss} {u : Use} (h : MapsOnly (s.advance x) s1) :
    ((s.prepared s1 x u).wave x.wid).scalars = (s.wave x.wid).scalars := by
  rw [prepared_wave]
  show (s1.wave x.wid).scalars = _
  have := h.wave x.wid
  unfold MapOnly at this
  rw [this]
  show ((s.advance x).wave x.wid).scalars = _
  rw [advance_wave]

/-- What stays of a wave when its instruction has been carried out. -/
theorem keeps_of {s s1 R t : State} {x : Iss} {u : Use} {fl : Nat} (h : MapsOnly (s.advance x) s1)
    (hR : ∃ sc vr th, R.wave x.wid = { (s.prepared s1 x u).wave x.wid with scalars := sc, vregs := vr, threads := th })
    (ht : t.wave x.wid = { (R.wave x.wid).freeRows with
      wstat := (t.wave x.wid).wstat, fstat := (s.wave x.wid).fstat ||| BitVec.ofNat 32 fl
      threads := (t.wave x.wid).threads }) : KeepsWave s t x := by
  obtain ⟨sc, vr, th, hR⟩ := hR
  have m := h.wave x.wid
  unfold MapOnly at m
  have a := advance_wave s x
  unfold KeepsWave
  generalize (t.wave x.wid).wstat = ws at *
  generalize (t.wave x.wid).threads = tt at *
  rw [ht, hR, prepared_wave]
  unfold Wave.freeRows
  dsimp only
  rw [m]
  dsimp only
  rw [a]

/-- Memory and the registers of other waves stay through the issue and the end of an instruction. -/
theorem rest_of {s s1 t : State} {x : Iss} {c k : Nat} (h : MapsOnly (s.advance x) s1) (ho : OnlyWave s1 t x.wid c k) :
    (∀ a, t.memByte a = s.memByte a) ∧ ∀ v, v ≠ x.wid → t.wave v = { s.wave v with vregs := (t.wave v).vregs } ∧
      ∀ n l, (t.wave v).vlane n l = (s.wave v).vlane n l := by
  have a := advance_only s x
  refine ⟨fun b => memByte_congr ?_ b, fun v hv => ?_⟩
  · rw [ho.rest, h.rest, a.rest]
  · have m := h.wave v
    unfold MapOnly at m
    rw [a.wave v hv] at m
    rw [ho.wave v hv]
    exact ⟨m, fun n l => by rw [h.value, a.wave v hv]⟩

/-- What stays of a thread through the issue and the end of an instruction. -/
theorem threads_of {s s1 t : State} {i : Instr} {r : Run} {w : WaveId} {ms : List Nat} {u : Use}
    (ha : Alone s i r w ms) (h : MapsOnly (s.advance (s.site i r w ms)) s1)
    (ht : ∀ l, Retired ((s.prepared s1 (s.site i r w ms) u).thread (w.thread l)) (t.thread (w.thread l))) :
    KeepsThreads s t w ∧ WentOn t (s.site i r w ms) := by
  have key : ∀ l, (s.prepared s1 (s.site i r w ms) u).thread (w.thread l) =
      if l ∈ ms then goOn (s.site i r w ms) s.cycle (s.thread (w.thread l)) else s.thread (w.thread l) := by
    intro l
    have e1 := prepared_thread (u := u) h l
    have e2 := advance_thread s (s.site i r w ms) l
    exact e1.trans e2
  constructor
  · intro l
    have h1 := (ht l).1
    rw [key] at h1
    rw [h1]
    split <;> rfl
  · intro l hl
    obtain ⟨h1, h2⟩ := ht l
    have hl' : l ∈ ms := hl
    rw [key, if_pos hl'] at h1 h2
    have rd := ha.ready l hl'
    refine ⟨?_, ?_⟩
    · show (t.thread (w.thread l)).pc = _
      rw [h1]; rfl
    · have : (goOn (s.site i r w ms) s.cycle (s.thread (w.thread l))).wait = .ready := rd.2
      rw [this] at h2
      exact h2 (by simp)

/-- An instruction that gives each participating lane a result. -/
theorem carry_lanes {s s1 : State} {i : Instr} {r : Run} {w : WaveId} {ms : List Nat} {u : Use}
    (h : Runs s s1 i r w ms u) {d : Dst} {b : Nat} (hd : u.dst = some d)
    (hb : d.codes = rangeFrom b d.n) (hn : 0 < d.n) (hlt : b + d.n ≤ 768) (res : Nat → Nat) (fl : Nat)
    (body : Iss → (Nat → Nat → Nat) → State → WOut)
    (hbody : body (s.site i r w ms) (s.value w u []) (s.prepared s1 (s.site i r w ms) u) =
      (s.prepared s1 (s.site i r w ms) u).finish (s.site i r w ms) u (s.site i r w ms).lanes
        ((s.site i r w ms).lanes.map fun l => (l, res l)) fl) :
    ∃ t, s.issueWith i u.vnames (fun x s => s.withOperands x u fun vals s => body x vals s) = t ∧
      Finishes s s1 t (s.site i r w ms) s.cur.1 s.cur.2 u fl ∧ WentOn t (s.site i r w ms) ∧ KeepsThreads s t w ∧
      WroteLanes s s1 t (s.site i r w ms) u d.ty b d.n res := by
  obtain ⟨t, R, e1, e2, e3, e4, e5, e6⟩ := issue_finish h.alone h.legal h.some h.ready h.plain h.rows id _ fl body
    hbody (OnWave.refl ..) rfl (fun h => h)
  have hm := h.rows.maps
  generalize hx : s.site i r w ms = x at *
  have hw : x.wid = w := by rw [← hx]; rfl
  subst hw
  simp only [id] at *
  have hth := threads_of h.alone (u := u) (by rw [hx]; exact hm) (by rw [hx]; exact e6)
  rw [hx] at hth
  generalize hP : s.prepared s1 x u = P at *
  have hvr : (P.wave x.wid).vregs = (s1.wave x.wid).vregs := by rw [← hP]; exact prepared_vregs ..
  have hsc : (P.wave x.wid).scalars = (s.wave x.wid).scalars := by rw [← hP]; exact prepared_scalars hm
  have hc : nth 0 d.codes 0 < 768 := by
    rw [hb]
    have : (List.range d.n) = 0 :: (List.range (d.n - 1)).map (· + 1) := by
      obtain ⟨k, hk⟩ : ∃ k, d.n = k + 1 := ⟨d.n - 1, by omega⟩
      rw [hk, List.range_succ_eq_map]; rfl
    simp only [rangeFrom, nth, this]
    simp; omega
  have hRw : ∃ sc vr th, R.wave x.wid = { P.wave x.wid with scalars := sc, vregs := vr, threads := th } := by
    have c1 := (clearLast_wave P x u x.lanes).1
    have c2 := (writeRegs_vec (P.clearLast x u x.lanes) x.wid d.ty d.n (nth 0 d.codes 0)
      (x.lanes.map fun l => (l, res l)) hc).1
    have c3 : R.wave x.wid = ((P.clearLast x u x.lanes).writeRegs x.wid d.ty d.n (nth 0 d.codes 0)
      (x.lanes.map fun l => (l, res l))).wave x.wid := by rw [e2]; simp [State.writeDst, hd]
    rw [← c3] at c2
    unfold MapOnly at c1 c2
    exact ⟨_, _, _, by rw [c2, c1]⟩
  have hsR : (R.wave x.wid).scalars = (P.wave x.wid).scalars := by
    have c1 := (clearLast_wave P x u x.lanes).1
    have c2 := (writeRegs_vec (P.clearLast x u x.lanes) x.wid d.ty d.n (nth 0 d.codes 0)
      (x.lanes.map fun l => (l, res l)) hc).1
    have c3 : R.wave x.wid = ((P.clearLast x u x.lanes).writeRegs x.wid d.ty d.n (nth 0 d.codes 0)
      (x.lanes.map fun l => (l, res l))).wave x.wid := by rw [e2]; simp [State.writeDst, hd]
    rw [← c3] at c2
    unfold MapOnly at c1 c2
    rw [c2, c1]
  have nm : ∀ m, (t.wave x.wid).vreg m =
      (if b ≤ m ∧ m < b + d.n then
        ((s1.wave x.wid).vreg m).map fun q => (u.cleared x.lanes m q).written
          (resultLanes d.ty d.n (x.lanes.map fun l => (l, res l)) (m - b)) P.cycle
      else ((s1.wave x.wid).vreg m).map (u.cleared x.lanes m)).filter VReg.stays := by
    intro m
    have n1 := names_vec (G := P) (R := R) hd hb hn (by omega) e2 m
    have n2 : (t.wave x.wid).vreg m = ((R.wave x.wid).freeRows).vreg m := by rw [e4]; rfl
    have n3 : (P.wave x.wid).vreg m = (s1.wave x.wid).vreg m := by simp [Wave.vreg, hvr]
    rw [n2, n1, n3]
  have mapped := h.rows.mapped
  have wr : ∀ j < d.n, (∃ l ∈ x.lanes, l < 64) → ∀ l, (t.wave x.wid).vlane (b + j) l =
      if l ∈ x.lanes then nth 0 (resultWords d.ty d.n (res l)) j else (s1.wave x.wid).vlane (b + j) l := by
    intro j hj hex l
    obtain ⟨l0, hl0, hl64⟩ := hex
    have hmap : (s1.wave x.wid).vreg (b + j) ≠ none := by
      refine mapped (b + j) ?_ (by omega)
      simp only [Use.dsts, hd, hb, rangeFrom, List.map_map]
      exact List.mem_map.mpr ⟨j, List.mem_range.mpr hj, rfl⟩
    have hin : b ≤ b + j ∧ b + j < b + d.n := by omega
    have hj' : b + j - b = j := by omega
    have n := nm (b + j)
    rw [if_pos hin, hj'] at n
    cases hv : (s1.wave x.wid).vreg (b + j) with
    | none => exact absurd hv hmap
    | some q =>
      rw [hv] at n
      simp only [Option.map_some] at n
      have hmask : (resultLanes d.ty d.n (x.lanes.map fun l => (l, res l)) j).map (·.1) = x.lanes := by
        unfold resultLanes
        rw [List.map_map, List.map_map]
        show List.map (fun l => l) x.lanes = x.lanes
        simp
      have hst : ((u.cleared x.lanes (b + j) q).written
          (resultLanes d.ty d.n (x.lanes.map fun l => (l, res l)) j) P.cycle).stays = true := by
        unfold VReg.stays VReg.written
        rw [hmask]
        have := mask_ne_zero x.lanes l0 hl0 hl64 (u.cleared x.lanes (b + j) q).live
        rw [Bool.or_eq_true]
        exact .inl (decide_eq_true this)
      simp only [Option.filter, hst, if_true] at n
      have hl : (u.cleared x.lanes (b + j) q).lanes = q.lanes := by unfold Use.cleared; split <;> rfl
      simp only [Wave.vlane, n, hv, VReg.written, hl, resultLanes, List.map_map, Function.comp_def]
      exact foldl_mput_get (fun l => nth 0 (resultWords d.ty d.n (res l)) j) x.lanes q.lanes l
  refine ⟨t, e1, ⟨e3, (rest_of hm e3).1, (rest_of hm e3).2, keeps_of hm (by rw [hP]; exact hRw) e4, by rw [e4], e5⟩, hth.2, hth.1, ⟨?_, ?_, ?_, ?_⟩⟩
  · intro l hl h64 j hj
    rw [wr j hj ⟨l, hl, h64⟩ l, if_pos hl]
  · intro hex l hl j hj
    rw [wr j hj hex l, if_neg hl]
  · intro m hm'
    rw [nm m, if_neg hm']
  · have : (t.wave x.wid).scalars = (R.wave x.wid).scalars := by rw [e4]; rfl
    rw [this, hsR, hsc]

/-- An instruction that gives the wave a scalar result. -/
theorem carry_scalar {s s1 : State} {i : Instr} {r : Run} {w : WaveId} {ms : List Nat} {u : Use}
    (h : Runs s s1 i r w ms u) {d : Dst} {b : Nat} (hd : u.dst = some d)
    (hb : d.codes = rangeFrom (768 + b) d.n) (hn : 0 < d.n) (l res fl : Nat)
    (body : Iss → (Nat → Nat → Nat) → State → WOut)
    (hbody : body (s.site i r w ms) (s.value w u []) (s.prepared s1 (s.site i r w ms) u) =
      (s.prepared s1 (s.site i r w ms) u).finish (s.site i r w ms) u (s.site i r w ms).lanes [(l, res)] fl) :
    ∃ t, s.issueWith i u.vnames (fun x s => s.withOperands x u fun vals s => body x vals s) = t ∧
      Finishes s s1 t (s.site i r w ms) s.cur.1 s.cur.2 u fl ∧ WentOn t (s.site i r w ms) ∧ KeepsThreads s t w ∧
      WroteScalars s s1 t (s.site i r w ms) u d.ty b d.n res := by
  obtain ⟨t, R, e1, e2, e3, e4, e5, e6⟩ := issue_finish h.alone h.legal h.some h.ready h.plain h.rows id _ fl body
    hbody (OnWave.refl ..) rfl (fun h => h)
  have hm := h.rows.maps
  generalize hx : s.site i r w ms = x at *
  have hw : x.wid = w := by rw [← hx]; rfl
  subst hw
  simp only [id] at *
  have hth := threads_of h.alone (u := u) (by rw [hx]; exact hm) (by rw [hx]; exact e6)
  rw [hx] at hth
  generalize hP : s.prepared s1 x u = P at *
  have hvr : (P.wave x.wid).vregs = (s1.wave x.wid).vregs := by rw [← hP]; exact prepared_vregs ..
  have hsc : (P.wave x.wid).scalars = (s.wave x.wid).scalars := by rw [← hP]; exact prepared_scalars hm
  have hc : nth 0 d.codes 0 = 768 + b := by
    rw [hb]
    have : (List.range d.n) = 0 :: (List.range (d.n - 1)).map (· + 1) := by
      obtain ⟨k, hk⟩ : ∃ k, d.n = k + 1 := ⟨d.n - 1, by omega⟩
      rw [hk, List.range_succ_eq_map]; rfl
    simp only [rangeFrom, nth, this]
    simp
  have c1 := (clearLast_wave P x u x.lanes)
  have c2 := writeRegs_sca (P.clearLast x u x.lanes) x.wid d.ty d.n (768 + b) (l, res) [] (by omega)
  have c3 : R.wave x.wid = ((P.clearLast x u x.lanes).writeRegs x.wid d.ty d.n (768 + b) [(l, res)]).wave x.wid := by
    rw [e2]; simp [State.writeDst, hd, hc]
  rw [← c3] at c2
  obtain ⟨c1, c1'⟩ := c1
  obtain ⟨c2, c2'⟩ := c2
  unfold MapOnly at c1
  unfold ScalarsOnly at c2
  have h1 : 768 + b - 768 = b := by omega
  refine ⟨t, e1, ⟨e3, (rest_of hm e3).1, (rest_of hm e3).2, keeps_of hm (by rw [hP]; exact ⟨_, _, _, by rw [c2, c1]⟩) e4, by rw [e4], e5⟩, hth.2, hth.1, ⟨?_, ?_⟩⟩
  · intro m
    have n2 : (t.wave x.wid).scalar m = (R.wave x.wid).scalar m := by rw [e4]; rfl
    have n3 : ((P.clearLast x u x.lanes).wave x.wid).scalar m = (s.wave x.wid).scalar m := by
      rw [c1]; simp [Wave.scalar, hsc]
    rw [n2, c2' m, h1, n3]
  · intro m _
    have n2 : (t.wave x.wid).vreg m = ((R.wave x.wid).freeRows).vreg m := by rw [e4]; rfl
    have n3 : (R.wave x.wid).vreg m = ((P.clearLast x u x.lanes).wave x.wid).vreg m := by rw [c2]; rfl
    rw [n2, freeRows_vreg, n3, c1' m]
    simp [Wave.vreg, hvr]

/-- An instruction that gives each participating lane a predicate. -/
theorem carry_preds {s s1 : State} {i : Instr} {r : Run} {w : WaveId} {ms : List Nat} {u : Use}
    (h : Runs s s1 i r w ms u) (hd : u.dst = none) (p : Nat) (f : Nat → Bool) (fl : Nat)
    (body : Iss → (Nat → Nat → Nat) → State → WOut) (vals : List (Nat × Nat))
    (hbody : body (s.site i r w ms) (s.value w u []) (s.prepared s1 (s.site i r w ms) u) =
      ((s.prepared s1 (s.site i r w ms) u).setPreds w p ((s.site i r w ms).lanes.map fun l => (l, f l))).finish
        (s.site i r w ms) u (s.site i r w ms).lanes vals fl) :
    ∃ t, s.issueWith i u.vnames (fun x s => s.withOperands x u fun vals s => body x vals s) = t ∧
      Finishes s s1 t (s.site i r w ms) s.cur.1 s.cur.2 u fl ∧ WentOn t (s.site i r w ms) ∧ SetsPreds s t (s.site i r w ms) p f ∧
      WroteNone s s1 t (s.site i r w ms) u := by
  have hm := h.rows.maps
  have key : ∀ l, (s.prepared s1 (s.site i r w ms) u).thread (w.thread l) =
      if l ∈ ms then goOn (s.site i r w ms) s.cycle (s.thread (w.thread l)) else s.thread (w.thread l) := by
    intro l
    exact (prepared_thread (u := u) hm l).trans (advance_thread s (s.site i r w ms) l)
  have sub : ∀ l ∈ (s.site i r w ms).lanes, l ∈ ms := by
    intro l hl
    exact (List.mem_filter.mp hl).1
  obtain ⟨t, R, e1, e2, e3, e4, e5, e6⟩ := issue_finish h.alone h.legal h.some h.ready h.plain h.rows
    (fun s' => s'.setPreds w p ((s.site i r w ms).lanes.map fun l => (l, f l))) vals fl body
    hbody (setPreds_only ..) (setPreds_wave ..) (fun hc => setPreds_calm _ _ _ _ hc (by
      intro v hv
      obtain ⟨l, hl, rfl⟩ := List.mem_map.mp hv
      rw [key, if_pos (sub l hl)]
      exact h.alone.ready l (sub l hl)))
  have e6' : ∀ l, Retired (if l ∈ (s.site i r w ms).lanes then
      ((s.prepared s1 (s.site i r w ms) u).thread (w.thread l)).setPred p (f l)
      else (s.prepared s1 (s.site i r w ms) u).thread (w.thread l)) (t.thread (w.thread l)) := by
    intro l; have := e6 l; rwa [setPreds_lane] at this
  have rdy := h.alone.ready
  generalize hx : s.site i r w ms = x at *
  have hw : x.wid = w := by rw [← hx]; rfl
  have hms : x.members = ms := by rw [← hx]; rfl
  subst hw
  generalize hP : s.prepared s1 x u = P at *
  have hvr : (P.wave x.wid).vregs = (s1.wave x.wid).vregs := by rw [← hP]; exact prepared_vregs ..
  have hsc : (P.wave x.wid).scalars = (s.wave x.wid).scalars := by rw [← hP]; exact prepared_scalars hm
  generalize hG : P.setPreds x.wid p (x.lanes.map fun l => (l, f l)) = G at *
  have gw : G.wave x.wid = { P.wave x.wid with threads := (G.wave x.wid).threads } := by rw [← hG]; exact setPreds_wave ..
  obtain ⟨c1, c1'⟩ := clearLast_wave G x u x.lanes
  have c3 : R.wave x.wid = (G.clearLast x u x.lanes).wave x.wid := by rw [e2]; simp [State.writeDst, hd]
  unfold MapOnly at c1
  refine ⟨t, e1, ⟨e3, (rest_of hm e3).1, (rest_of hm e3).2, keeps_of hm (by rw [hP]; exact ⟨_, _, _, by rw [c3, c1, gw]⟩) e4, by rw [e4], e5⟩, ?_,
    ⟨?_, ?_, ?_⟩, ⟨?_, ?_⟩⟩
  · intro l hl
    rw [hms] at hl
    obtain ⟨h1, h2⟩ := e6' l
    have hp := setPred_only (P.thread (x.wid.thread l)) p (f l)
    unfold PredsOnly at hp
    rw [key, if_pos hl] at *
    have rd := rdy l hl
    refine ⟨?_, ?_⟩
    · rw [h1]; split
      · rw [hp]; rfl
      · rfl
    · have : (if l ∈ x.lanes then (goOn x s.cycle (s.thread (x.wid.thread l))).setPred p (f l)
          else goOn x s.cycle (s.thread (x.wid.thread l))).wait = .ready := by
        split
        · rw [hp]; exact rd.2
        · exact rd.2
      rw [this] at h2
      exact h2 (by simp)
  · intro l
    obtain ⟨h1, _⟩ := e6' l
    have hp := setPred_only (P.thread (x.wid.thread l)) p (f l)
    unfold PredsOnly at hp
    rw [key] at *
    rw [h1]
    split
    · rw [hp]; split <;> rfl
    · split <;> rfl
  · intro l hl h0 h16
    obtain ⟨h1, _⟩ := e6' l
    rw [if_pos hl] at h1
    rw [h1]
    show ((P.thread (x.wid.thread l)).setPred p (f l)).pred p = f l
    rw [setPred_pred _ _ _ _ ⟨h0, h16⟩, if_pos rfl]
  · intro l q hq
    obtain ⟨h1, _⟩ := e6' l
    rw [h1]
    have base : (P.thread (x.wid.thread l)).pred q = (s.thread (x.wid.thread l)).pred q := by
      rw [key]; split <;> rfl
    show (if l ∈ x.lanes then (P.thread (x.wid.thread l)).setPred p (f l) else P.thread (x.wid.thread l)).pred q = _
    split
    · rename_i hl
      rw [← base]
      rcases hq with hq | hq | hq
      · exact absurd hl hq
      · by_cases hp : 0 < p ∧ p < 16
        · rw [setPred_pred _ _ _ _ hp, if_neg hq]
        · by_cases h0 : p = 0
          · simp [Thread.setPred, h0]
          · have hge : 16 ≤ p := by omega
            have hz : (1#16 <<< p) = 0#16 := by
              apply BitVec.eq_of_getLsbD_eq
              intro i hi
              simp only [BitVec.getLsbD_shiftLeft]
              have : i < p := by omega
              simp [this]
            unfold Thread.setPred Thread.pred
            have e : ~~~0#16 = BitVec.allOnes 16 := by decide
            rw [if_neg h0, hz, e, BitVec.and_allOnes]
            cases f l <;> simp
      · simp [Thread.setPred, hq]
    · exact base
  · have : (t.wave x.wid).scalars = (R.wave x.wid).scalars := by rw [e4]; rfl
    rw [this, c3, c1, gw]; exact hsc
  · intro m _
    have n2 : (t.wave x.wid).vreg m = ((R.wave x.wid).freeRows).vreg m := by rw [e4]; rfl
    rw [n2, freeRows_vreg, c3, c1' m, gw]
    simp [Wave.vreg, hvr]

/-- An instruction without register operands, whose meaning gives `T` from the state in which the members have gone on. -/
theorem carry_bare {s T : State} {i : Instr} {r : Run} {w : WaveId} {ms : List Nat} (h : Alone s i r w ms)
    {names : List (Nat × Nat)} {body : Iss → State → WOut} (hd : s.decodeTrap i names r.group.pc w ms = none)
    (hl : (s.site i r w ms).lanes ≠ [])
    (hb : body (s.site i r w ms) (s.advance (s.site i r w ms)) = .done T)
    (hT : OnWave (s.advance (s.site i r w ms)) T w) (hc : (T.wave w).deadlocked = false) :
    ∃ t, s.issueWith i names body = t ∧ OnlyWave s t w s.cur.1 s.cur.2 ∧
      t.wave w = { T.wave w with wstat := (t.wave w).wstat, threads := (t.wave w).threads } ∧
      (t.wave w).wstat ||| 2#32 = (T.wave w).wstat ||| 2#32 ∧
      ∀ l, Retired (T.thread (w.thread l)) (t.thread (w.thread l)) := by
  have hi := issueWith_one h names body hd hl
  have ha := advance_only s (s.site i r w ms)
  have hcores : T.cores = s.cores := by rw [hT.cores]; exact ha.cores
  rw [hb, outcome_done h hcores] at hi
  obtain ⟨q1, q2, q3, q4⟩ := retire_one T i s.cur.1 s.cur.2 r w ms hc h.ours
  exact ⟨_, hi, ((ha.trans hT).only _ _).then_only q1, q2, q3, fun l => q4 _⟩

end Sys2Proof.Machine
end

