-- ==== Sys2Proof/Laws/Memory.lean ====
section
/-! SUPPORT. The laws of home memory: what a write leaves, and that every memory operation keeps the canonical form. -/

namespace Sys2Proof.Machine

open Sys2Proof

/-- A memory in the form has nothing below the bound of the form. -/
theorem Memory.get_below {lo : Nat} {m : List Host.Cell} (h : Memory.wfFrom lo m = true) {a : Nat} (ha : a < lo) :
    Memory.get m a = Memory.fill := by
  induction m generalizing lo with
  | nil => rfl
  | cons p t ih =>
    obtain ⟨k, b⟩ := p
    simp only [Memory.wfFrom, Bool.and_eq_true, decide_eq_true_eq] at h
    obtain ⟨⟨h1, _⟩, h3⟩ := h
    have hk : a ≠ k := by omega
    rw [Memory.get, if_neg hk]
    exact ih h3 (by omega)

/-- The form holds from any lower bound. -/
theorem Memory.wfFrom_mono {lo hi : Nat} {m : List Host.Cell} (h : Memory.wfFrom hi m = true) (hl : lo ≤ hi) :
    Memory.wfFrom lo m = true := by
  cases m with
  | nil => rfl
  | cons p t =>
    obtain ⟨k, b⟩ := p
    simp only [Memory.wfFrom, Bool.and_eq_true, decide_eq_true_eq] at *
    exact ⟨⟨by omega, h.1.2⟩, h.2⟩

/-- A write keeps the form above a bound that its address meets. -/
theorem Memory.put_wfFrom {lo : Nat} {m : List Host.Cell} (h : Memory.wfFrom lo m = true) {a : Nat} (ha : lo ≤ a) (b : Byte) :
    Memory.wfFrom lo (Memory.put m a b) = true := by
  induction m generalizing lo with
  | nil =>
    unfold Memory.put
    split
    · rfl
    · rename_i hb
      simp [Memory.wfFrom, ha, hb]
  | cons p t ih =>
    obtain ⟨k, c⟩ := p
    simp only [Memory.wfFrom, Bool.and_eq_true, decide_eq_true_eq] at h
    obtain ⟨⟨h1, h2⟩, h3⟩ := h
    unfold Memory.put
    split
    · rename_i hlt
      split
      · simp [Memory.wfFrom, h1, h2, h3]
      · rename_i hb
        simp only [Memory.wfFrom, Bool.and_eq_true, decide_eq_true_eq]
        exact ⟨⟨ha, hb⟩, ⟨by omega, h2⟩, h3⟩
    · split
      · rename_i hk
        subst hk
        split
        · exact Memory.wfFrom_mono h3 (by omega)
        · rename_i hb
          simp only [Memory.wfFrom, Bool.and_eq_true, decide_eq_true_eq]
          exact ⟨⟨ha, hb⟩, h3⟩
      · simp only [Memory.wfFrom, Bool.and_eq_true, decide_eq_true_eq]
        exact ⟨⟨h1, h2⟩, ih h3 (by omega)⟩

/-- A write keeps the canonical form. -/
theorem Memory.put_wf {m : List Host.Cell} (h : Memory.wf m = true) (a : Nat) (b : Byte) :
    Memory.wf (Memory.put m a b) = true := Memory.put_wfFrom h (Nat.zero_le a) b

/-- A byte reads as it was written, and every other byte as before. -/
theorem Memory.get_put {m : List Host.Cell} (h : Memory.wf m = true) (a c : Nat) (b : Byte) :
    Memory.get (Memory.put m a b) c = if c = a then b else Memory.get m c := by
  suffices ∀ lo, Memory.wfFrom lo m = true → Memory.get (Memory.put m a b) c = if c = a then b else Memory.get m c from
    this 0 h
  induction m with
  | nil =>
    intro lo _
    unfold Memory.put
    by_cases hc : c = a
    · subst hc; split <;> simp_all [Memory.get]
    · split <;> simp [Memory.get, hc]
  | cons p t ih =>
    obtain ⟨k, v⟩ := p
    intro lo hw
    have hw' := hw
    simp only [Memory.wfFrom, Bool.and_eq_true, decide_eq_true_eq] at hw
    obtain ⟨⟨_, _⟩, h3⟩ := hw
    have ht : ∀ x, x < k + 1 → Memory.get t x = Memory.fill := fun x hx => Memory.get_below h3 hx
    have iht := ih (Memory.wfFrom_mono h3 (Nat.zero_le _)) (k + 1) h3
    unfold Memory.put
    by_cases hc : c = a
    · subst hc
      rw [if_pos rfl]
      split
      · rename_i hlt
        split
        · rename_i hb
          have : c ≠ k := by omega
          rw [Memory.get, if_neg this, hb]
          exact ht c (by omega)
        · simp [Memory.get]
      · split
        · rename_i hk
          subst hk
          split
          · rename_i hb; rw [hb]; exact ht c (by omega)
          · simp [Memory.get]
        · rename_i hk
          rw [Memory.get, if_neg hk, iht, if_pos rfl]
    · rw [if_neg hc]
      split
      · split
        · rfl
        · rw [Memory.get, if_neg hc]
      · split
        · rename_i hk
          subst hk
          split
          · rw [Memory.get, if_neg hc]
          · rw [Memory.get, if_neg hc, Memory.get, if_neg hc]
        · rw [Memory.get, Memory.get, iht, if_neg hc]

/-! ### On the state -/

/-- The memory of a state is in the canonical form. -/
def State.memWf (s : State) : Prop := Memory.wf s.mem = true

theorem memByte_setMemByte {s : State} (h : s.memWf) (a c : Nat) (b : Byte) :
    (s.setMemByte a b).memByte c = if c = a then b else s.memByte c := Memory.get_put h a c b

theorem setMemByte_memWf {s : State} (h : s.memWf) (a : Nat) (b : Byte) : (s.setMemByte a b).memWf := Memory.put_wf h a b

theorem setMemBytes_memWf (bs : List Byte) : ∀ {s : State}, s.memWf → ∀ a, (s.setMemBytes a bs).memWf := by
  induction bs with
  | nil => intro s h _; exact h
  | cons b t ih => intro s h a; exact ih (setMemByte_memWf h a b) (a + 1)

/-- Bytes outside a write read as before, and those inside as written. -/
theorem memByte_setMemBytes (bs : List Byte) : ∀ {s : State}, s.memWf → ∀ a c,
    (s.setMemBytes a bs).memByte c = if a ≤ c ∧ c < a + bs.length then bs.getD (c - a) 0 else s.memByte c := by
  induction bs with
  | nil =>
    intro s _ a c
    have : ¬ (a ≤ c ∧ c < a + 0) := by omega
    simp only [List.length_nil, if_neg this]
    rfl
  | cons b t ih =>
    intro s h a c
    show ((s.setMemByte a b).setMemBytes (a + 1) t).memByte c = _
    rw [ih (setMemByte_memWf h a b), memByte_setMemByte h]
    simp only [List.length_cons]
    by_cases h1 : c = a
    · subst h1
      have : ¬ (c + 1 ≤ c ∧ c < c + 1 + t.length) := by omega
      rw [if_neg this, if_pos rfl, if_pos (by omega)]
      simp
    · rw [if_neg h1]
      by_cases h2 : a + 1 ≤ c ∧ c < a + 1 + t.length
      · rw [if_pos h2, if_pos (by omega)]
        have : c - a = c - (a + 1) + 1 := by omega
        rw [this]
        simp
      · rw [if_neg h2, if_neg (by omega)]

theorem hostWrite_memWf {s : State} (h : s.memWf) (a : Nat) (bs : List Byte) : (s.hostWrite a bs).memWf := by
  unfold State.hostWrite
  split
  · exact setMemBytes_memWf bs h a
  · exact h

/-- A memory that every write of a fold keeps in the form is in the form. -/
theorem memWf_foldl {α : Type} (f : State → α → State) (hf : ∀ s x, s.memWf → (f s x).memWf) (l : List α) :
    ∀ {s : State}, s.memWf → (l.foldl f s).memWf := by
  induction l with
  | nil => intro s h; exact h
  | cons x t ih => intro s h; exact ih (hf s x h)

/-- Equal memories have the form together. -/
theorem memWf_congr {s t : State} (h : t.mem = s.mem) (hs : s.memWf) : t.memWf := by
  unfold State.memWf at *; rw [h]; exact hs

/-- A byte written at its home, in whatever space. -/
theorem setHomeByte_memWf {s : State} (h : s.memWf) (l : Loc) (v : Byte) : (s.setHomeByte l v).memWf := by
  unfold State.setHomeByte
  split
  · exact setMemByte_memWf h _ _
  · exact h
  · exact h
  · exact h

theorem setHomeBytes_memWf (bs : List Byte) : ∀ {s : State}, s.memWf → ∀ l, (s.setHomeBytes l bs).memWf := by
  induction bs with
  | nil => intro s h _; exact h
  | cons b t ih => intro s h l; exact ih (setHomeByte_memWf h l b) (l.plus 1)

/-- The bytes of a program placed in memory keep the form. -/
theorem placeWord_memWf {s : State} (h : s.memWf) (bytes : List Byte) : (s.placeWord bytes).memWf := by
  refine memWf_congr ?_ (setMemBytes_memWf ((bytes ++ List.replicate 32 (0 : Byte)).take 32) h 0)
  unfold State.placeWord
  simp only [updCore_mem, updSlot_mem, updBlk_mem, updLaunch_mem, updCtx_mem]

theorem withFetchWord_memWf {s : State} (h : s.memWf) (nbits w : Nat) : (s.withFetchWord nbits w).memWf :=
  placeWord_memWf h _

end Sys2Proof.Machine
end

