-- ==== Sys2Proof/Laws/PerInstr.lean ====
section
/-! SUPPORT. A law of every instruction as syntax: the opcode and the fields of a well-formed instruction select it, and no other, in the decoder's tables (spec/02_encoding.md R44 to R50, R67). A step that no word encodes is never well formed. -/

namespace Sys2Proof.Laws.Chosen

open Sys2Proof Sys2Proof.Machine

/-- The opcode and the fields of an instruction select it in the table of its format; none for a step without words. -/
def selects (i : Instr) : Prop :=
  match i.opcode, i.form with
  | some (m, f), .fa x => fmtOf m.toNat = some .a64 ∧ instrA m.toNat f.toNat x = some i
  | some (m, f), .fc x => fmtOf m.toNat = some .c96 ∧ instrC m.toNat f.toNat x = some i
  | some (m, f), .fk x => fmtOf m.toNat = some .k96 ∧ instrK m.toNat f.toNat x = some i
  | some (m, f), .fm x => fmtOf m.toNat = some .m128 ∧ instrM m.toNat f.toNat x = some i
  | _, _ => False

/-- A well-formed instruction is selected by its own opcode and fields. -/
def Statement (i : Instr) : Prop := i.wf = true → selects i

/-- The shape's own condition holds of a well-formed instruction. -/
theorem shape_ok {i : Instr} (h : i.wf = true) : ∃ sh, i.shape = some sh ∧ sh.ok = true := by
  unfold Instr.wf at h
  split at h
  · rename_i sh _ e _
    refine ⟨sh, e, ?_⟩
    simp only [Bool.and_eq_true] at h
    exact h.1.1.1.1.1.1
  · exact absurd h (by simp)

/-- A bit of `MOD` is a bit of its number. -/
theorem mod_bit (h : Head) (k : Nat) : h.md.getLsbD k = h.m.testBit k := rfl

/-- Choosing by a `MOD` bit. -/
theorem pick {b c : Bool} {i j : Instr} {maj : Nat} {f : Fmt} (hf : fmtOf maj = some f) (h : b = c) :
    fmtOf maj = some f ∧ (if b then some i else some j) = some (if c then i else j) := by
  subst h; exact ⟨hf, by cases b <;> rfl⟩

theorem bra (x : FK) : Statement (.bra x) := fun _ => ⟨rfl, rfl⟩
theorem call (x : FK) : Statement (.call x) := fun _ => ⟨rfl, rfl⟩
theorem trap (x : FK) : Statement (.trap x) := fun _ => ⟨rfl, rfl⟩
theorem brx (x : FA) : Statement (.brx x) := fun _ => ⟨rfl, rfl⟩
theorem ret (x : FA) : Statement (.ret x) := fun _ => ⟨rfl, rfl⟩
theorem exit (x : FA) : Statement (.exit x) := fun _ => ⟨rfl, rfl⟩
theorem exitChain (x : FA) : Statement (.exitChain x) := fun _ => ⟨rfl, rfl⟩
theorem eret (x : FA) : Statement (.eret x) := fun _ => ⟨rfl, rfl⟩
theorem brkpt (x : FA) : Statement (.brkpt x) := fun _ => ⟨rfl, rfl⟩
theorem nop (x : FA) : Statement (.nop x) := fun _ => ⟨rfl, rfl⟩
theorem yield (x : FA) : Statement (.yield x) := fun _ => ⟨rfl, rfl⟩
theorem sleep (x : FA) : Statement (.sleep x) := fun _ => ⟨rfl, rfl⟩
theorem cvg (x : FA) : Statement (.cvg x) := fun _ => ⟨rfl, rfl⟩
theorem stage (x : FK) : Statement (.stage x) := fun _ => ⟨rfl, rfl⟩
theorem rls (x : FA) : Statement (.rls x) := fun _ => ⟨rfl, rfl⟩
theorem rdsr (x : FA) : Statement (.rdsr x) := fun _ => ⟨rfl, rfl⟩
theorem wrsr (x : FA) : Statement (.wrsr x) := fun _ => ⟨rfl, rfl⟩
theorem pand (x : FA) : Statement (.pand x) := fun _ => ⟨rfl, rfl⟩
theorem por (x : FA) : Statement (.por x) := fun _ => ⟨rfl, rfl⟩
theorem pxor (x : FA) : Statement (.pxor x) := fun _ => ⟨rfl, rfl⟩
theorem pnot (x : FA) : Statement (.pnot x) := fun _ => ⟨rfl, rfl⟩
theorem pmov (x : FA) : Statement (.pmov x) := fun _ => ⟨rfl, rfl⟩
theorem pmovToScalar (x : FA) : Statement (.pmovToScalar x) := fun _ => ⟨rfl, rfl⟩
theorem pmovFromScalar (x : FA) : Statement (.pmovFromScalar x) := fun _ => ⟨rfl, rfl⟩
theorem sadd (x : FA) : Statement (.sadd x) := fun _ => ⟨rfl, rfl⟩
theorem ssub (x : FA) : Statement (.ssub x) := fun _ => ⟨rfl, rfl⟩
theorem smul (x : FA) : Statement (.smul x) := fun _ => ⟨rfl, rfl⟩
theorem smulh (x : FA) : Statement (.smulh x) := fun _ => ⟨rfl, rfl⟩
theorem sand (x : FA) : Statement (.sand x) := fun _ => ⟨rfl, rfl⟩
theorem sor (x : FA) : Statement (.sor x) := fun _ => ⟨rfl, rfl⟩
theorem sxor (x : FA) : Statement (.sxor x) := fun _ => ⟨rfl, rfl⟩
theorem sshl (x : FA) : Statement (.sshl x) := fun _ => ⟨rfl, rfl⟩
theorem sshr (x : FA) : Statement (.sshr x) := fun _ => ⟨rfl, rfl⟩
theorem smin (x : FA) : Statement (.smin x) := fun _ => ⟨rfl, rfl⟩
theorem smax (x : FA) : Statement (.smax x) := fun _ => ⟨rfl, rfl⟩
theorem smov (x : FA) : Statement (.smov x) := fun _ => ⟨rfl, rfl⟩
theorem sffs (x : FA) : Statement (.sffs x) := fun _ => ⟨rfl, rfl⟩
theorem spopc (x : FA) : Statement (.spopc x) := fun _ => ⟨rfl, rfl⟩
theorem scmp (x : FA) : Statement (.scmp x) := fun _ => ⟨rfl, rfl⟩
theorem smovx (x : FA) : Statement (.smovx x) := fun h => by
  obtain ⟨sh, e, ok⟩ := shape_ok h
  cases e
  simp only [Bool.and_eq_true, decide_eq_true_eq] at ok
  exact pick (c := false) rfl (by rw [mod_bit, ok.2]; rfl)
theorem smovxSt (x : FA) : Statement (.smovxSt x) := fun h => by
  obtain ⟨sh, e, ok⟩ := shape_ok h
  cases e
  simp only [Bool.and_eq_true, decide_eq_true_eq] at ok
  exact pick (c := true) rfl (by rw [mod_bit, ok.2]; rfl)
theorem sli (x : FK) : Statement (.sli x) := fun _ => ⟨rfl, rfl⟩
theorem ssel (x : FC) : Statement (.ssel x) := fun _ => ⟨rfl, rfl⟩
theorem sbfx (x : FC) : Statement (.sbfx x) := fun _ => ⟨rfl, rfl⟩
theorem vadd (x : FA) : Statement (.vadd x) := fun _ => ⟨rfl, rfl⟩
theorem vsub (x : FA) : Statement (.vsub x) := fun _ => ⟨rfl, rfl⟩
theorem vmul (x : FA) : Statement (.vmul x) := fun _ => ⟨rfl, rfl⟩
theorem vmulh (x : FA) : Statement (.vmulh x) := fun _ => ⟨rfl, rfl⟩
theorem vmin (x : FA) : Statement (.vmin x) := fun _ => ⟨rfl, rfl⟩
theorem vmax (x : FA) : Statement (.vmax x) := fun _ => ⟨rfl, rfl⟩
theorem vabs (x : FA) : Statement (.vabs x) := fun _ => ⟨rfl, rfl⟩
theorem vneg (x : FA) : Statement (.vneg x) := fun _ => ⟨rfl, rfl⟩
theorem vand (x : FA) : Statement (.vand x) := fun _ => ⟨rfl, rfl⟩
theorem vor (x : FA) : Statement (.vor x) := fun _ => ⟨rfl, rfl⟩
theorem vxor (x : FA) : Statement (.vxor x) := fun _ => ⟨rfl, rfl⟩
theorem vnot (x : FA) : Statement (.vnot x) := fun _ => ⟨rfl, rfl⟩
theorem vshl (x : FA) : Statement (.vshl x) := fun _ => ⟨rfl, rfl⟩
theorem vshr (x : FA) : Statement (.vshr x) := fun _ => ⟨rfl, rfl⟩
theorem vpopc (x : FA) : Statement (.vpopc x) := fun _ => ⟨rfl, rfl⟩
theorem vclz (x : FA) : Statement (.vclz x) := fun _ => ⟨rfl, rfl⟩
theorem vcmp (x : FA) : Statement (.vcmp x) := fun _ => ⟨rfl, rfl⟩
theorem vmov (x : FA) : Statement (.vmov x) := fun _ => ⟨rfl, rfl⟩
theorem vmovx (x : FA) : Statement (.vmovx x) := fun h => by
  obtain ⟨sh, e, ok⟩ := shape_ok h
  cases e
  simp only [Bool.and_eq_true, decide_eq_true_eq] at ok
  exact pick (c := false) rfl (by rw [mod_bit, ok.2]; rfl)
theorem vmovxSt (x : FA) : Statement (.vmovxSt x) := fun h => by
  obtain ⟨sh, e, ok⟩ := shape_ok h
  cases e
  simp only [Bool.and_eq_true, decide_eq_true_eq] at ok
  exact pick (c := true) rfl (by rw [mod_bit, ok.2]; rfl)
theorem vmad (x : FC) : Statement (.vmad x) := fun _ => ⟨rfl, rfl⟩
theorem vsel (x : FC) : Statement (.vsel x) := fun _ => ⟨rfl, rfl⟩
theorem vbfx (x : FC) : Statement (.vbfx x) := fun _ => ⟨rfl, rfl⟩
theorem vbfi (x : FC) : Statement (.vbfi x) := fun _ => ⟨rfl, rfl⟩
theorem vfadd (x : FA) : Statement (.vfadd x) := fun _ => ⟨rfl, rfl⟩
theorem vfsub (x : FA) : Statement (.vfsub x) := fun _ => ⟨rfl, rfl⟩
theorem vfmul (x : FA) : Statement (.vfmul x) := fun _ => ⟨rfl, rfl⟩
theorem vfmin (x : FA) : Statement (.vfmin x) := fun _ => ⟨rfl, rfl⟩
theorem vfmax (x : FA) : Statement (.vfmax x) := fun _ => ⟨rfl, rfl⟩
theorem vfabs (x : FA) : Statement (.vfabs x) := fun _ => ⟨rfl, rfl⟩
theorem vfneg (x : FA) : Statement (.vfneg x) := fun _ => ⟨rfl, rfl⟩
theorem vfcmp (x : FA) : Statement (.vfcmp x) := fun _ => ⟨rfl, rfl⟩
theorem vfclass (x : FA) : Statement (.vfclass x) := fun _ => ⟨rfl, rfl⟩
theorem vfrnd (x : FA) : Statement (.vfrnd x) := fun _ => ⟨rfl, rfl⟩
theorem vffma (x : FC) : Statement (.vffma x) := fun _ => ⟨rfl, rfl⟩
theorem vffms (x : FC) : Statement (.vffms x) := fun _ => ⟨rfl, rfl⟩
theorem vffnma (x : FC) : Statement (.vffnma x) := fun _ => ⟨rfl, rfl⟩
theorem vffnms (x : FC) : Statement (.vffnms x) := fun _ => ⟨rfl, rfl⟩
theorem vcvt (x : FC) : Statement (.vcvt x) := fun _ => ⟨rfl, rfl⟩
theorem vpack (x : FC) : Statement (.vpack x) := fun h => by
  obtain ⟨sh, e, ok⟩ := shape_ok h
  cases e
  have hq : decide (x.hd.ty = .q4) = false := by
    simp only [Bool.and_eq_true, Bool.or_eq_true, decide_eq_true_eq] at ok
    rcases ok.1.1.1 with ((e | e) | e) | e <;> rw [e] <;> rfl
  exact ⟨rfl, if_neg (of_decide_eq_false hq)⟩
theorem vpackQ4 (x : FC) : Statement (.vpackQ4 x) := fun h => by
  obtain ⟨sh, e, ok⟩ := shape_ok h
  cases e
  simp only [Bool.and_eq_true, decide_eq_true_eq] at ok
  exact ⟨rfl, if_pos ok.1.1⟩
theorem vunpack (x : FC) : Statement (.vunpack x) := fun _ => ⟨rfl, rfl⟩
theorem vscl (x : FC) : Statement (.vscl x) := fun _ => ⟨rfl, rfl⟩
theorem lxor (x : FA) : Statement (.lxor x) := fun _ => ⟨rfl, rfl⟩
theorem lshf (x : FA) : Statement (.lshf x) := fun _ => ⟨rfl, rfl⟩
theorem lperm (x : FA) : Statement (.lperm x) := fun _ => ⟨rfl, rfl⟩
theorem lbc (x : FA) : Statement (.lbc x) := fun _ => ⟨rfl, rfl⟩
theorem lred (x : FA) : Statement (.lred x) := fun _ => ⟨rfl, rfl⟩
theorem lscan (x : FA) : Statement (.lscan x) := fun _ => ⟨rfl, rfl⟩
theorem lvote (x : FA) : Statement (.lvote x) := fun _ => ⟨rfl, rfl⟩
theorem vrcp (x : FA) : Statement (.vrcp x) := fun _ => ⟨rfl, rfl⟩
theorem vrsq (x : FA) : Statement (.vrsq x) := fun _ => ⟨rfl, rfl⟩
theorem vsqrt (x : FA) : Statement (.vsqrt x) := fun _ => ⟨rfl, rfl⟩
theorem vexp2 (x : FA) : Statement (.vexp2 x) := fun _ => ⟨rfl, rfl⟩
theorem vlog2 (x : FA) : Statement (.vlog2 x) := fun _ => ⟨rfl, rfl⟩
theorem vsin (x : FA) : Statement (.vsin x) := fun _ => ⟨rfl, rfl⟩
theorem vcos (x : FA) : Statement (.vcos x) := fun _ => ⟨rfl, rfl⟩
theorem vtanh (x : FA) : Statement (.vtanh x) := fun _ => ⟨rfl, rfl⟩
theorem vact (x : FA) : Statement (.vact x) := fun _ => ⟨rfl, rfl⟩
theorem atld (x : FM) : Statement (.atld x) := fun _ => ⟨rfl, rfl⟩
theorem vtopk (x : FC) : Statement (.vtopk x) := fun _ => ⟨rfl, rfl⟩
theorem vrng (x : FC) : Statement (.vrng x) := fun _ => ⟨rfl, rfl⟩
theorem mrsv (x : FA) : Statement (.mrsv x) := fun _ => ⟨rfl, rfl⟩
theorem mrel (x : FA) : Statement (.mrel x) := fun _ => ⟨rfl, rfl⟩
theorem cvset (x : FA) : Statement (.cvset x) := fun _ => ⟨rfl, rfl⟩
theorem mzero (x : FA) : Statement (.mzero x) := fun _ => ⟨rfl, rfl⟩
theorem mma (x : FM) : Statement (.mma x) := fun _ => ⟨rfl, rfl⟩
theorem mld (x : FM) : Statement (.mld x) := fun h => by
  obtain ⟨sh, e, ok⟩ := shape_ok h
  cases e
  have hb : x.hd.md.getLsbD 2 = false := by
    have h0 : x.hd.mf 2 2 = 0 := by
      simp only [mldOk, Bool.and_eq_true, decide_eq_true_eq] at ok
      exact ok.1.1.1.1.2
    have h1 : x.hd.m.testBit 2 = (x.hd.mf 2 2).testBit 0 := by simp [Head.mf, Head.m, field]
    rw [mod_bit, h1, h0]; rfl
  exact pick (c := false) rfl hb
theorem mldV (x : FM) : Statement (.mldV x) := fun h => by
  obtain ⟨sh, e, ok⟩ := shape_ok h
  cases e
  simp only [Bool.and_eq_true, decide_eq_true_eq] at ok
  exact pick (c := true) rfl (by rw [mod_bit, ok.1.1.1.2]; rfl)
theorem mst (x : FM) : Statement (.mst x) := fun _ => ⟨rfl, rfl⟩
theorem ld (x : FM) : Statement (.ld x) := fun _ => ⟨rfl, rfl⟩
theorem st (x : FM) : Statement (.st x) := fun _ => ⟨rfl, rfl⟩
theorem ldg (x : FM) : Statement (.ldg x) := fun _ => ⟨rfl, rfl⟩
theorem sts (x : FM) : Statement (.sts x) := fun _ => ⟨rfl, rfl⟩
theorem atom (x : FM) : Statement (.atom x) := fun _ => ⟨rfl, rfl⟩
theorem red (x : FM) : Statement (.red x) := fun _ => ⟨rfl, rfl⟩
theorem pref (x : FM) : Statement (.pref x) := fun _ => ⟨rfl, rfl⟩
theorem commit (x : FA) : Statement (.commit x) := fun h => by
  obtain ⟨sh, e, ok⟩ := shape_ok h
  cases e
  simp only [Bool.and_eq_true, decide_eq_true_eq] at ok
  exact pick (c := false) rfl (by rw [mod_bit]; exact Nat.testBit_lt_two_pow (Nat.lt_of_le_of_lt ok.2 (by decide)))
theorem commitChk (x : FA) : Statement (.commitChk x) := fun h => by
  obtain ⟨sh, e, ok⟩ := shape_ok h
  cases e
  simp only [Bool.and_eq_true, decide_eq_true_eq] at ok
  have hm : x.hd.m = 9 ∨ x.hd.m = 10 ∨ x.hd.m = 11 ∨ x.hd.m = 12 := by omega
  exact pick (c := true) rfl (by rw [mod_bit]; rcases hm with e | e | e | e <;> rw [e] <;> rfl)
theorem abort (x : FA) : Statement (.abort x) := fun _ => ⟨rfl, rfl⟩
theorem fence (x : FA) : Statement (.fence x) := fun _ => ⟨rfl, rfl⟩
theorem trec (x : FM) : Statement (.trec x) := fun _ => ⟨rfl, rfl⟩
theorem tset (x : FM) : Statement (.tset x) := fun _ => ⟨rfl, rfl⟩
theorem tget (x : FM) : Statement (.tget x) := fun _ => ⟨rfl, rfl⟩
theorem tlook (x : FA) : Statement (.tlook x) := fun _ => ⟨rfl, rfl⟩
theorem tins (x : FA) : Statement (.tins x) := fun _ => ⟨rfl, rfl⟩
theorem tdel (x : FA) : Statement (.tdel x) := fun _ => ⟨rfl, rfl⟩
theorem cpy (x : FM) : Statement (.cpy x) := fun _ => ⟨rfl, rfl⟩
theorem cpyt (x : FM) : Statement (.cpyt x) := fun _ => ⟨rfl, rfl⟩
theorem cseal (x : FA) : Statement (.cseal x) := fun _ => ⟨rfl, rfl⟩
theorem binit (x : FA) : Statement (.binit x) := fun _ => ⟨rfl, rfl⟩
theorem barv (x : FA) : Statement (.barv x) := fun _ => ⟨rfl, rfl⟩
theorem bexp (x : FA) : Statement (.bexp x) := fun _ => ⟨rfl, rfl⟩
theorem btest (x : FA) : Statement (.btest x) := fun _ => ⟨rfl, rfl⟩
theorem bdrop (x : FA) : Statement (.bdrop x) := fun _ => ⟨rfl, rfl⟩
theorem bwait (x : FC) : Statement (.bwait x) := fun _ => ⟨rfl, rfl⟩
theorem matom (x : FM) : Statement (.matom x) := fun _ => ⟨rfl, rfl⟩
theorem mred (x : FM) : Statement (.mred x) := fun _ => ⟨rfl, rfl⟩
theorem qbind (x : FA) : Statement (.qbind x) := fun h => by
  obtain ⟨sh, e, ok⟩ := shape_ok h
  cases e
  simp only [Shape.bare, Head.bare, Bool.and_eq_true, decide_eq_true_eq] at ok
  have h1 : x.hd.md.getLsbD 1 = false := by rw [mod_bit, ok.2]; rfl
  have h0 : x.hd.md.getLsbD 0 = false := by rw [mod_bit, ok.2]; rfl
  exact ⟨rfl, (if_neg (by rw [h1]; decide)).trans (if_neg (by rw [h0]; decide))⟩
theorem qbindInit (x : FA) : Statement (.qbindInit x) := fun h => by
  obtain ⟨sh, e, ok⟩ := shape_ok h
  cases e
  simp only [Bool.and_eq_true, decide_eq_true_eq] at ok
  have h1 : x.hd.md.getLsbD 1 = false := by rw [mod_bit, ok.2]; rfl
  have h0 : x.hd.md.getLsbD 0 = true := by rw [mod_bit, ok.2]; rfl
  exact ⟨rfl, (if_neg (by rw [h1]; decide)).trans (if_pos h0)⟩
theorem qbindOff (x : FA) : Statement (.qbindOff x) := fun h => by
  obtain ⟨sh, e, ok⟩ := shape_ok h
  cases e
  simp only [Bool.and_eq_true, decide_eq_true_eq] at ok
  have h1 : x.hd.md.getLsbD 1 = true := by rw [mod_bit, ok.2]; rfl
  exact ⟨rfl, if_pos h1⟩
theorem qstat (x : FA) : Statement (.qstat x) := fun _ => ⟨rfl, rfl⟩
theorem fmld (x : FM) : Statement (.fmld x) := fun _ => ⟨rfl, rfl⟩
theorem fperm (x : FM) : Statement (.fperm x) := fun _ => ⟨rfl, rfl⟩
theorem pwr (x : FM) : Statement (.pwr x) := fun _ => ⟨rfl, rfl⟩
theorem prd (x : FM) : Statement (.prd x) := fun _ => ⟨rfl, rfl⟩
theorem patom (x : FM) : Statement (.patom x) := fun _ => ⟨rfl, rfl⟩
theorem psigArv (x : FM) : Statement (.psigArv x) := fun h => by
  obtain ⟨sh, e, ok⟩ := shape_ok h
  cases e
  have hb : x.hd.md.getLsbD 5 = false := by
    have h0 : x.hd.mf 5 3 &&& 2 = x.hd.mf 5 3 := by
      simp only [portOk, Bool.and_eq_true, decide_eq_true_eq] at ok
      exact ok.1.1.1.1.2
    have h1 : x.hd.m.testBit 5 = (x.hd.mf 5 3).testBit 2 := by
      show _ = (x.hd.md.toNat >>> 3 % 2 ^ 3).testBit 2
      rw [Nat.testBit_mod_two_pow, Nat.testBit_shiftRight]; rfl
    rw [mod_bit, h1, ← h0, Nat.testBit_and]
    exact Bool.and_false _
  exact pick (c := false) rfl hb
theorem psigAdd (x : FM) : Statement (.psigAdd x) := fun h => by
  obtain ⟨sh, e, ok⟩ := shape_ok h
  cases e
  simp only [Bool.and_eq_true, decide_eq_true_eq] at ok
  exact pick (c := true) rfl ok.1.1.1.1.2
theorem pperm (x : FM) : Statement (.pperm x) := fun _ => ⟨rfl, rfl⟩
theorem pqst (x : FA) : Statement (.pqst x) := fun _ => ⟨rfl, rfl⟩
theorem launch (x : FA) : Statement (.launch x) := fun _ => ⟨rfl, rfl⟩
theorem yieldGrid (x : FA) : Statement (.yieldGrid x) := fun _ => ⟨rfl, rfl⟩
theorem slotSelect (core slot : Nat) : Statement (.slotSelect core slot) := fun h => absurd h Bool.false_ne_true
theorem groupAged (core entry : Nat) : Statement (.groupAged core entry) := fun h => absurd h Bool.false_ne_true
theorem fetchFill (core slot : Nat) : Statement (.fetchFill core slot) := fun h => absurd h Bool.false_ne_true
theorem sleepWake (blk wv lane : Nat) : Statement (.sleepWake blk wv lane) := fun h => absurd h Bool.false_ne_true
theorem requestAccept (core slot : Nat) : Statement (.requestAccept core slot) := fun h => absurd h Bool.false_ne_true
theorem producerResult (id : Nat) (err : Bool) : Statement (.producerResult id err) := fun h => absurd h Bool.false_ne_true
theorem reloadDone (blk wv name : Nat) : Statement (.reloadDone blk wv name) := fun h => absurd h Bool.false_ne_true
theorem commitComplete (id : Nat) : Statement (.commitComplete id) := fun h => absurd h Bool.false_ne_true
theorem abortComplete (id : Nat) : Statement (.abortComplete id) := fun h => absurd h Bool.false_ne_true
theorem filterWindowClose (level unit : Nat) : Statement (.filterWindowClose level unit) := fun h => absurd h Bool.false_ne_true
theorem faultRecordRelease (ctx tag : Nat) : Statement (.faultRecordRelease ctx tag) := fun h => absurd h Bool.false_ne_true
theorem pfreplyRetry (ctx tag : Nat) : Statement (.pfreplyRetry ctx tag) := fun h => absurd h Bool.false_ne_true
theorem pfreplyUnserviceable (ctx tag : Nat) : Statement (.pfreplyUnserviceable ctx tag) := fun h => absurd h Bool.false_ne_true
theorem ptcmdMap (ctx : Nat) : Statement (.ptcmdMap ctx) := fun h => absurd h Bool.false_ne_true
theorem ptcmdUnmap (ctx : Nat) : Statement (.ptcmdUnmap ctx) := fun h => absurd h Bool.false_ne_true
theorem unmapDone (ctx : Nat) : Statement (.unmapDone ctx) := fun h => absurd h Bool.false_ne_true
theorem copyLand (id piece : Nat) (err : Nat) : Statement (.copyLand id piece err) := fun h => absurd h Bool.false_ne_true
theorem copyComplete (id : Nat) : Statement (.copyComplete id) := fun h => absurd h Bool.false_ne_true
theorem batchComplete (id : Nat) : Statement (.batchComplete id) := fun h => absurd h Bool.false_ne_true
theorem barrierCredit (id : Nat) : Statement (.barrierCredit id) := fun h => absurd h Bool.false_ne_true
theorem barrierArrival (id : Nat) : Statement (.barrierArrival id) := fun h => absurd h Bool.false_ne_true
theorem wakeNotice (id : Nat) : Statement (.wakeNotice id) := fun h => absurd h Bool.false_ne_true
theorem bwaitTimeout (blk wv lane : Nat) : Statement (.bwaitTimeout blk wv lane) := fun h => absurd h Bool.false_ne_true
theorem clusterStuck (cluster : Nat) : Statement (.clusterStuck cluster) := fun h => absurd h Bool.false_ne_true
theorem atldInstall (blk bank : Nat) (err : Bool) : Statement (.atldInstall blk bank err) := fun h => absurd h Bool.false_ne_true
theorem matrixRequest (core : Nat) (bad : List Nat) : Statement (.matrixRequest core bad) := fun h => absurd h Bool.false_ne_true
theorem mstComplete (id : Nat) : Statement (.mstComplete id) := fun h => absurd h Bool.false_ne_true
theorem matrixRelease (core : Nat) : Statement (.matrixRelease core) := fun h => absurd h Bool.false_ne_true
theorem msAtomicPerform (id : Nat) : Statement (.msAtomicPerform id) := fun h => absurd h Bool.false_ne_true
theorem ringElementLand (id : Nat) : Statement (.ringElementLand id) := fun h => absurd h Bool.false_ne_true
theorem ringWake (id : Nat) : Statement (.ringWake id) := fun h => absurd h Bool.false_ne_true
theorem fpermPieceArrive (id piece err : Nat) : Statement (.fpermPieceArrive id piece err) := fun h => absurd h Bool.false_ne_true
theorem fpermComplete (id : Nat) : Statement (.fpermComplete id) := fun h => absurd h Bool.false_ne_true
theorem keepWaitingSend (id : Nat) : Statement (.keepWaitingSend id) := fun h => absurd h Bool.false_ne_true
theorem keepWaitingReceive (id : Nat) : Statement (.keepWaitingReceive id) := fun h => absurd h Bool.false_ne_true
theorem responseTimeout (id : Nat) : Statement (.responseTimeout id) := fun h => absurd h Bool.false_ne_true
theorem calendsLock (pos : BitVec 6) (time : BitVec 64) (ofs : BitVec 8) : Statement (.calendsLock pos time ofs) := fun h => absurd h Bool.false_ne_true
theorem lockLoss : Statement .lockLoss := fun h => absurd h Bool.false_ne_true
theorem almnextGo (value : BitVec 64) : Statement (.almnextGo value) := fun h => absurd h Bool.false_ne_true
theorem almanacSwitch : Statement .almanacSwitch := fun h => absurd h Bool.false_ne_true
theorem slotStart : Statement .slotStart := fun h => absurd h Bool.false_ne_true
theorem windowOpen (port : Nat) : Statement (.windowOpen port) := fun h => absurd h Bool.false_ne_true
theorem flitSend (port choice : Nat) : Statement (.flitSend port choice) := fun h => absurd h Bool.false_ne_true
theorem windowClose (port : Nat) : Statement (.windowClose port) := fun h => absurd h Bool.false_ne_true
theorem flitReceive (port : Nat) (raw : List Byte) (gone : List Nat) : Statement (.flitReceive port raw gone) := fun h => absurd h Bool.false_ne_true
theorem transitArrive (id : Nat) : Statement (.transitArrive id) := fun h => absurd h Bool.false_ne_true
theorem remoteEntryPerform (id : Nat) (err : Bool) : Statement (.remoteEntryPerform id err) := fun h => absurd h Bool.false_ne_true
theorem remoteAck (peer id : Nat) : Statement (.remoteAck peer id) := fun h => absurd h Bool.false_ne_true
theorem transitCredit (peer dest amount : Nat) : Statement (.transitCredit peer dest amount) := fun h => absurd h Bool.false_ne_true
theorem remoteFailure (id code pkg : Nat) : Statement (.remoteFailure id code pkg) := fun h => absurd h Bool.false_ne_true
theorem remoteTimeout (id : Nat) : Statement (.remoteTimeout id) := fun h => absurd h Bool.false_ne_true
theorem ppermComplete (id : Nat) : Statement (.ppermComplete id) := fun h => absurd h Bool.false_ne_true
theorem pevqWrite (value : BitVec 64) : Statement (.pevqWrite value) := fun h => absurd h Bool.false_ne_true
theorem lossOfLight (port lane peer : Nat) : Statement (.lossOfLight port lane peer) := fun h => absurd h Bool.false_ne_true
theorem lmapProposal (port peer : Nat) (lanes : BitVec 16) : Statement (.lmapProposal port peer lanes) := fun h => absurd h Bool.false_ne_true
theorem lmapAnswer (port peer : Nat) (lanes : BitVec 16) (seq : BitVec 32) : Statement (.lmapAnswer port peer lanes seq) := fun h => absurd h Bool.false_ne_true
theorem marginLow (port lane peer margin : Nat) : Statement (.marginLow port lane peer margin) := fun h => absurd h Bool.false_ne_true
theorem retrainDone (port lane peer margin : Nat) : Statement (.retrainDone port lane peer margin) := fun h => absurd h Bool.false_ne_true
theorem laneLockFail (port lane peer : Nat) : Statement (.laneLockFail port lane peer) := fun h => absurd h Bool.false_ne_true
theorem wqwrWrite (fn queue : Nat) (value : BitVec 32) : Statement (.wqwrWrite fn queue value) := fun h => absurd h Bool.false_ne_true
theorem wqctlWrite (fn queue : Nat) (value : BitVec 64) : Statement (.wqctlWrite fn queue value) := fun h => absurd h Bool.false_ne_true
theorem wqstatErrClear (fn queue : Nat) : Statement (.wqstatErrClear fn queue) := fun h => absurd h Bool.false_ne_true
theorem qfuncWrite (queue : Nat) (value : Byte) : Statement (.qfuncWrite queue value) := fun h => absurd h Bool.false_ne_true
theorem cfuncWrite (ctx : Nat) (value : Byte) : Statement (.cfuncWrite ctx value) := fun h => absurd h Bool.false_ne_true
theorem packetTake (queue : Nat) : Statement (.packetTake queue) := fun h => absurd h Bool.false_ne_true
theorem dependencyPoll (launch : Nat) : Statement (.dependencyPoll launch) := fun h => absurd h Bool.false_ne_true
theorem clusterPlace (launch : Nat) : Statement (.clusterPlace launch) := fun h => absurd h Bool.false_ne_true
theorem priorityPreempt (launch : Nat) : Statement (.priorityPreempt launch) := fun h => absurd h Bool.false_ne_true
theorem blockRelease (blk : Nat) : Statement (.blockRelease blk) := fun h => absurd h Bool.false_ne_true
theorem launchComplete (launch : Nat) : Statement (.launchComplete launch) := fun h => absurd h Bool.false_ne_true
theorem ctxctlPreempt (ctx : Nat) : Statement (.ctxctlPreempt ctx) := fun h => absurd h Bool.false_ne_true
theorem ctxctlRestore (ctx : Nat) : Statement (.ctxctlRestore ctx) := fun h => absurd h Bool.false_ne_true
theorem ctxctlReset (ctx : Nat) : Statement (.ctxctlReset ctx) := fun h => absurd h Bool.false_ne_true
theorem imageSeal (ctx : Nat) : Statement (.imageSeal ctx) := fun h => absurd h Bool.false_ne_true
theorem restoreDone (ctx : Nat) : Statement (.restoreDone ctx) := fun h => absurd h Bool.false_ne_true
theorem resetDone (ctx : Nat) : Statement (.resetDone ctx) := fun h => absurd h Bool.false_ne_true
theorem ctxpoolWrite (ctx : Nat) (size : Bool) (value : BitVec 64) : Statement (.ctxpoolWrite ctx size value) := fun h => absurd h Bool.false_ne_true
theorem ctxlogWrite (ctx : Nat) (value : BitVec 64) : Statement (.ctxlogWrite ctx value) := fun h => absurd h Bool.false_ne_true
theorem ctxlognWrite (ctx : Nat) (value : BitVec 64) : Statement (.ctxlognWrite ctx value) := fun h => absurd h Bool.false_ne_true
theorem tempSample (core : Nat) (temp : BitVec 8) : Statement (.tempSample core temp) := fun h => absurd h Bool.false_ne_true
theorem throttleStep (die : Nat) (pkgw : BitVec 16) : Statement (.throttleStep die pkgw) := fun h => absurd h Bool.false_ne_true
theorem droopEvent (die : Nat) : Statement (.droopEvent die) := fun h => absurd h Bool.false_ne_true
theorem coreFault (core : Nat) : Statement (.coreFault core) := fun h => absurd h Bool.false_ne_true
theorem packageReset (codes : List Nat) (badStacks badDies : List Nat) (linkFull : Bool) (pos : BitVec 6) (time : BitVec 64) : Statement (.packageReset codes badStacks badDies linkFull pos time) := fun h => absurd h Bool.false_ne_true
theorem startclrWrite (value : BitVec 32) : Statement (.startclrWrite value) := fun h => absurd h Bool.false_ne_true
theorem mbErase (flashError : Bool) : Statement (.mbErase flashError) := fun h => absurd h Bool.false_ne_true
theorem mbWrite (flashError : Bool) : Statement (.mbWrite flashError) := fun h => absurd h Bool.false_ne_true
theorem mbKeys : Statement .mbKeys := fun h => absurd h Bool.false_ne_true
theorem mbMeasure : Statement .mbMeasure := fun h => absurd h Bool.false_ne_true
theorem mbOpDone : Statement .mbOpDone := fun h => absurd h Bool.false_ne_true
theorem undervoltage (vin : Byte) : Statement (.undervoltage vin) := fun h => absurd h Bool.false_ne_true
theorem powerRestore (vin : Byte) : Statement (.powerRestore vin) := fun h => absurd h Bool.false_ne_true
theorem vfFlr (vf : Nat) : Statement (.vfFlr vf) := fun h => absurd h Bool.false_ne_true
theorem registerWrite (fn offset size : Nat) (value : BitVec 64) : Statement (.registerWrite fn offset size value) := fun h => absurd h Bool.false_ne_true
theorem laserFailure (port lane : Nat) : Statement (.laserFailure port lane) := fun h => absurd h Bool.false_ne_true
theorem laneLockLate (port lane peer : Nat) : Statement (.laneLockLate port lane peer) := fun h => absurd h Bool.false_ne_true
theorem eyeSample (port margin : Nat) : Statement (.eyeSample port margin) := fun h => absurd h Bool.false_ne_true

end Sys2Proof.Laws.Chosen
end

