-- ==== Sys2Proof/Tests/Slice0.lean ====
section
/-! SUPPORT. Tests: the well-formedness checks, words from the spec's encodings, single steps, and for each statement a state and operands that meet its hypotheses. Expected values are worked out from the spec's rules and examples. -/

namespace Sys2Proof.Tests

set_option maxRecDepth 100000
set_option Elab.async false

open Sys2Proof Sys2Proof.Machine Sys2Proof.Claims

/-! ### Small instructions -/

def hd (t : Ty) (md : Nat := 0) : Head := { eor := false, pg := 0, pn := false, ty := t, md := BitVec.ofNat 6 md }
def sr (c : Nat) : Src := { code := BitVec.ofNat 10 c, last := false, tie := false }
def fa (t : Ty) (d a b : Nat) (md : Nat := 0) : FA := { hd := hd t md, d := BitVec.ofNat 10 d, a := sr a, b := sr b, ext := none }
def fc (t : Ty) (d a b c : Nat) (md : Nat := 0) (xm : Nat := 0) : FC :=
  { hd := hd t md, d := BitVec.ofNat 10 d, a := sr a, b := sr b, c := sr c, xmod := BitVec.ofNat 20 xm, ext := none }
def fk (d a k : Nat) (md : Nat := 0) : FK :=
  { hd := hd .b32 md, d := BitVec.ofNat 10 d, a := sr a, b := sr 0, k := BitVec.ofNat 32 k }
def fm (t : Ty) (d a b c : Nat) (md : Nat := 0) (scope : Nat := 0) (ofs : Nat := 0) (tr : Nat := 0) : FM :=
  { hd := hd t md, d := BitVec.ofNat 10 d, a := sr a, b := sr b, c := sr c, xmod := 0, hint := 0, ord := 0
    scope := BitVec.ofNat 3 scope, tr := BitVec.ofNat 6 tr, ofs := BitVec.ofNat 32 ofs }

/-! ### A small state: one wave of two threads at an instruction -/

def w0 : WaveId := { blk := 0, wv := 0 }
def group0 : Entry :=
  { launch := 0, pc := pcOf 0, conv := true, members := [w0.thread 0, w0.thread 1], aged := false }
def run0 : Run := { group := group0, count := 0, staged := [] }
def reg0 (a b : Nat) : VReg :=
  { st := .full, lanes := [(0, BitVec.ofNat 32 a), (1, BitVec.ofNat 32 b)], live := 3, stamp := 0, reload := none }
/-- Vector registers v0 to v9 and scalars s0 to s4 hold small numbers; a handler is set. -/
def wave0 : Wave :=
  { Wave.placed .general 0 with
    scalars := [(0, 5), (2, 3), (4, 1), (10, 0x200), (11, 0x3F000000), (12, 0x40), (13, 0x80000000)]
    vregs := [(0, reg0 7 9), (1, reg0 2 3), (2, reg0 1 1), (3, reg0 0 0), (4, reg0 8 8), (5, reg0 0 0), (6, reg0 4 5),
              (7, reg0 0 0), (8, reg0 0x100 0x180), (9, reg0 0x3F000000 0x3F000000)]
    trapvec := 0x1000, threads := [(0, Thread.placed (pcOf 0) 0), (1, Thread.placed (pcOf 0) 0)] }
/-- Record 0: 256 elements of 4 bytes at address 0x1000 of this package. -/
def rec0 : BitVec 256 := BitVec.ofNat 256 (0x3F00000000001000 * 2 ^ 192 + 2 ^ 72 + 2 ^ 40 + 256 * 2 ^ 16)
def block0 : Block := { Block.placed 0 0 0 0 with waves := [(0, wave0)], recs := [(0, rec0)] }
def base : State :=
  { State.reset with
    blocks := [(0, block0)]
    cores := [(0, { Core.reset with slots := [(0, { Slot.reset with run := some run0 })] })]
    ctxs := [(0, { Ctx.reset with st := .run, pages := [(0, { entry := 0x1D, members := [], names := [] })] })]
    launches := [(0, Launch.ofDesc 0 0 0 openDesc)] }

/-! ### Hypotheses that a test decides -/

def okE {ε α : Type} : Except ε α → Bool
  | .ok _ => true
  | .error _ => false
def outE {ε α : Type} (d : α) : Except ε α → α
  | .ok a => a
  | .error _ => d
theorem ok_of {ε α : Type} {o : Except ε α} (d : α) (h : okE o = true) : o = .ok (outE d o) := by
  cases o with
  | ok a => rfl
  | error e => cases h

def isE {ε α : Type} [DecidableEq α] (o : Except ε α) (a : α) : Bool :=
  match o with
  | .ok b => decide (b = a)
  | .error _ => false
theorem is_of {ε α : Type} [DecidableEq α] {o : Except ε α} {a : α} (h : isE o a = true) : o = .ok a := by
  cases o with
  | ok b => rw [of_decide_eq_true h]
  | error e => cases h

def rowsR : RecOut → Nat
  | .ok n _ => n
  | .bad _ _ => 0
def stateR : RecOut → State
  | .ok _ s => s
  | .bad _ s => s
def okR : RecOut → Bool
  | .ok _ _ => true
  | .bad _ _ => false
theorem okR_of {o : RecOut} (h : okR o = true) : o = .ok (rowsR o) (stateR o) := by
  cases o with
  | ok n s => rfl
  | bad t s => cases h

def okRows : RowsOut → Bool
  | .ok _ => true
  | _ => false
def stateRows : RowsOut → State
  | .ok s => s
  | _ => State.reset
theorem okRows_of {o : RowsOut} (h : okRows o = true) : o = .ok (stateRows o) := by
  cases o with
  | ok s => rfl
  | hold => cases h
  | rfloor _ _ => cases h

def stateL : RelOut → State
  | .ok s => s
  | _ => State.reset
def okL : RelOut → Bool
  | .ok _ => true
  | _ => false
theorem okL_of {o : RelOut} (h : okL o = true) : o = .ok (stateL o) := by
  cases o with
  | ok s => rfl
  | wbovf => cases h
  | wait => cases h

theorem some_of {α : Type} {o : Option α} (d : α) (h : o.isSome = true) : o = some (o.getD d) := by
  cases o with
  | some a => rfl
  | none => cases h

def aloneB (s : State) (i : Instr) : Bool :=
  decide ((s.slot s.cur.1 s.cur.2).run = some run0) && decide ((s.slot s.cur.1 s.cur.2).pend = none) &&
    decide (s.groupWaves group0 = [(w0, [0, 1])]) && (!i.converges || decide (s.orderLoads w0 = s)) &&
    !(s.wave w0).deadlocked && !s.arriving w0

theorem alone_of {s : State} {i : Instr} (h : aloneB s i = true) : Alone s i run0 w0 [0, 1] := by
  unfold aloneB at h
  simp only [Bool.and_eq_true, decide_eq_true_eq, Bool.or_eq_true, Bool.not_eq_true'] at h
  obtain ⟨⟨⟨⟨⟨h1, h2⟩, h3⟩, h4⟩, h5⟩, h6⟩ := h
  refine ⟨h1, h2, h3, by decide, h6, fun hc => ⟨rfl, ?_⟩, h5⟩
  rcases h4 with h4 | h4
  · rw [h4] at hc; cases hc
  · exact h4

def readyB (w : Wave) (u : Use) : Bool :=
  (u.rds.all fun r => r.codes.all fun c => decide (w.scanRead c (u.tie c) = .fine)) &&
    (match u.dst with
     | some d => d.codes.all fun c => decide (w.scanWrite c = .fine)
     | none => true)

theorem ready_of {w : Wave} {u : Use} (h : readyB w u = true) : u.Ready w := by
  unfold readyB at h
  simp only [Bool.and_eq_true, List.all_eq_true, decide_eq_true_eq] at h
  refine ⟨h.1, fun d hd c hc => ?_⟩
  have := h.2
  rw [hd] at this
  simp only [List.all_eq_true, decide_eq_true_eq] at this
  exact this c hc

def plainB (u : Use) : Bool :=
  (u.rds.all fun r => (queueOf r.op).isNone) &&
    (match u.dst with
     | some d => (queueOf d.op).isNone
     | none => true)

theorem plain_of {u : Use} (h : plainB u = true) : u.NoQueue := by
  unfold plainB at h
  simp only [Bool.and_eq_true, List.all_eq_true, Option.isNone_iff_eq_none] at h
  refine ⟨h.1, fun d hd => ?_⟩
  have := h.2
  rw [hd] at this
  simpa using this

def issuesB (s : State) (i : Instr) (names : List (Nat × Nat)) : Bool :=
  aloneB s i && decide (s.decodeTrap i names (pcOf 0) w0 [0, 1] = none) && decide ((s.site i run0 w0 [0, 1]).lanes ≠ [])

theorem issues_of {s : State} {i : Instr} {names : List (Nat × Nat)} (h : issuesB s i names = true) :
    Issues s i run0 w0 [0, 1] names := by
  unfold issuesB at h
  simp only [Bool.and_eq_true, decide_eq_true_eq] at h
  exact ⟨alone_of h.1.1, h.1.2, h.2⟩

def runsB (s : State) (i : Instr) (u : Use) : Bool :=
  issuesB s i u.vnames && readyB (s.wave w0) u && plainB u &&
    (u.dsts.map (·.2)).all fun c => Nat.ble 768 c || ((s.wave w0).vreg c).isSome

/-- The state in which an instruction of the small state executes: every destination is mapped, so no row is needed. -/
abbrev step1 (s : State) (i : Instr) : State := s.advance (s.site i run0 w0 [0, 1])

theorem runs_of {s : State} {i : Instr} {u : Use} (h : runsB s i u = true) : Runs s (step1 s i) i run0 w0 [0, 1] u := by
  unfold runsB at h
  simp only [Bool.and_eq_true] at h
  obtain ⟨⟨⟨h1, h2⟩, h3⟩, h4⟩ := h
  have hi := issues_of h1
  have e : ((step1 s i).wave w0).vregs = (s.wave w0).vregs := by
    show ((s.advance (s.site i run0 w0 [0, 1])).wave (s.site i run0 w0 [0, 1]).wid).vregs = _
    rw [advance_wave s (s.site i run0 w0 [0, 1])]; rfl
  have ev (c : Nat) : ((step1 s i).wave w0).vreg c = (s.wave w0).vreg c := by unfold Wave.vreg; rw [e]
  refine ⟨hi.alone, hi.legal, hi.some, ready_of h2, plain_of h3, Use.Rows.of_mapped (fun c hc hlt => ?_) fun p hp => ?_⟩
  · rw [List.all_eq_true] at h4
    have := h4 c hc
    simp only [Bool.or_eq_true, Nat.ble_eq] at this
    rw [ev]
    rcases this with h | h
    · omega
    · intro e
      rw [e] at h
      cases h
  · unfold Wave.isSpilled
    rw [ev]
    exact (ready_of h2).unspilled p hp

def canTrapB (s : State) : Bool :=
  ((s.wave w0).threads.all fun p => decide (p.2.wait ≠ .converging)) &&
    ([0, 1].all fun l => !(s.thread (w0.thread l)).handler) && !(s.wave w0).intrap && decide ((s.wave w0).trapvec ≠ 0)

theorem canTrap_of {s : State} (h : canTrapB s = true) : CanTrap s w0 [0, 1] := by
  unfold canTrapB at h
  simp only [Bool.and_eq_true, List.all_eq_true, decide_eq_true_eq, Bool.not_eq_true'] at h
  obtain ⟨⟨⟨h1, h2⟩, h3⟩, h4⟩ := h
  exact ⟨h1, h2, h3, h4⟩

abbrev RunsAt (s : State) (i : Instr) (u : Use) : Prop := Runs s (step1 s i) i run0 w0 [0, 1] u
abbrev IssuesAt (s : State) (i : Instr) (names : List (Nat × Nat)) : Prop := Issues s i run0 w0 [0, 1] names
/-- The state in which an instruction of the small state executes, and the instruction's site. -/
abbrev siteOf (s : State) (i : Instr) : Iss := s.site i run0 w0 [0, 1]
abbrev prep (s : State) (i : Instr) (u : Use) : State := s.prepared (step1 s i) (siteOf s i) u

/-! ### Hypotheses of the statements are met -/

theorem witness_ScalarResults :
    let x := fa .s32 769 768 770
    ∃ row, scalarRow (.sadd x) = some row ∧ RunsAt base (.sadd x) row.1 ∧
      ∃ d, row.1.dst = some d ∧ d.op = .sca 1 :=
  ⟨_, rfl, runs_of (by decide +kernel), _, rfl, by decide⟩

theorem witness_VectorResults_integer :
    let x := fa .s32 2 0 1
    ∃ row, vectorRow (.vadd x) = some row ∧ RunsAt base (.vadd x) row.1 ∧
      ∃ d, row.1.dst = some d ∧ d.op = .vec 2 ∧ 2 + d.n ≤ 768 :=
  ⟨_, rfl, runs_of (by decide +kernel), _, rfl, by decide, by decide⟩

theorem witness_VectorResults_float :
    let x := fc .f32 2 0 1 4
    ∃ row, vectorRow (.vffma x) = some row ∧ RunsAt base (.vffma x) row.1 ∧
      ∃ d, row.1.dst = some d ∧ d.op = .vec 2 ∧ 2 + d.n ≤ 768 :=
  ⟨_, rfl, runs_of (by decide +kernel), _, rfl, by decide, by decide⟩

theorem witness_VectorResults_convert :
    let x := fc .f32 2 0 0 0 0 3
    ∃ row, vectorRow (.vcvt x) = some row ∧ RunsAt base (.vcvt x) row.1 ∧
      ∃ d, row.1.dst = some d ∧ d.op = .vec 2 ∧ 2 + d.n ≤ 768 :=
  ⟨_, rfl, runs_of (by decide +kernel), _, rfl, by decide, by decide⟩

theorem witness_CompareResults :
    (∃ p u f, compareRow (.vcmp (fa .s32 1 0 1)) = some (p, u, f) ∧ RunsAt base (.vcmp (fa .s32 1 0 1)) u) ∧
    (∃ p u f, compareRow (.vfcmp (fa .f32 15 0 1)) = some (p, u, f) ∧ RunsAt base (.vfcmp (fa .f32 15 0 1)) u) ∧
    RunsAt base (.scmp (fa .s32 1 768 770))
      { rds := [Rd.ss 1 (sr 768) .s32, Rd.ss 2 (sr 770) .s32], dst := none, k := 0 } :=
  ⟨⟨_, _, _, rfl, runs_of (by decide +kernel)⟩, ⟨_, _, _, rfl, runs_of (by decide +kernel)⟩, runs_of (by decide +kernel)⟩

theorem witness_SchedulingInstructions :
    IssuesAt base (.nop (fa .b32 0 0 0)) [] ∧ IssuesAt base (.cvg (fa .b32 0 0 0)) [] ∧
    IssuesAt base (.yield (fa .b32 0 0 0)) [] ∧
    RunsAt base (.sleep (fa .b32 0 768 0)) { rds := [Rd.ss 1 (sr 768) .n32], dst := none, k := 0 } :=
  ⟨issues_of (by decide +kernel), issues_of (by decide +kernel), issues_of (by decide +kernel), runs_of (by decide +kernel)⟩

theorem witness_JumpsAndCalls :
    IssuesAt base (.bra (fk 0 0 64)) [] ∧
    (RunsAt base (.call (fk 2 0 64)) { rds := [], dst := some (Dst.vd 2 .b64), k := 0 } ∧ Operand.ofCode 2 = .vec 2) ∧
    RunsAt base (.brx (fa .b32 0 4 0)) { rds := [Rd.pair 1 (sr 4) true], dst := none, k := 0 } ∧
    RunsAt base (.ret (fa .b32 0 770 0)) { rds := [Rd.pair 1 (sr 770) true], dst := none, k := 0 } :=
  ⟨issues_of (by decide +kernel), ⟨runs_of (by decide +kernel), by decide⟩, runs_of (by decide +kernel), runs_of (by decide +kernel)⟩

/-- The small state with its wave changed. -/
def withWave (f : Wave → Wave) : State := { base with blocks := [(0, { block0 with waves := [(0, f wave0)] })] }
/-- Both threads in the handler. -/
def trapped : State := withWave fun w =>
  { w with wstat := 2, epc := 0x40, threads := w.threads.map fun p => (p.1, { p.2 with handler := true }) }
/-- Predicate 1 holds in lane 0 only. -/
def oneLane : State := withWave fun w =>
  { w with threads := w.threads.map fun p => (p.1, { p.2 with preds := if p.1 = 0 then 2 else 0 }) }
def guarded1 (x : FA) : FA := { x with hd := { x.hd with pg := 1 } }

theorem witness_TrapsAndReturn :
    (IssuesAt base (.trap (fk 0 0 9)) [] ∧ CanTrap base w0 [0, 1]) ∧ IssuesAt base (.brkpt (fa .b32 0 5 0)) [] ∧
    IssuesAt trapped (.eret (fa .b32 0 0 0)) [] ∧
    ∀ l ∈ (siteOf trapped (.eret (fa .b32 0 0 0))).lanes, (trapped.thread (w0.thread l)).handler = true :=
  ⟨⟨issues_of (by decide +kernel), canTrap_of (by decide +kernel)⟩, issues_of (by decide +kernel),
    issues_of (by decide +kernel), by decide +kernel⟩

theorem witness_ExitEndsThreads :
    let i : Instr := .exit (guarded1 (fa .b32 0 0 0))
    IssuesAt oneLane i [] ∧ NoneConverging oneLane w0 ∧ ∃ l ∈ (oneLane.wave w0).liveLanes, l ∉ (siteOf oneLane i).lanes :=
  ⟨issues_of (by decide +kernel), by unfold NoneConverging; decide +kernel, 1, by decide +kernel, by decide +kernel⟩

theorem witness_ExitEndsThreads_last : ∀ i ∈ [Instr.exit (fa .b32 0 0 0), .exitChain (fa .b32 0 0 0)],
    IssuesAt base i [] ∧ (∀ l ∈ (base.wave w0).liveLanes, l ∈ (siteOf base i).lanes) ∧
      ∃ S, ((step1 base i).orderLoads w0).commit w0 1 = some S := by
  intro i hi
  simp only [List.mem_cons, List.not_mem_nil, or_false] at hi
  rcases hi with rfl | rfl <;> exact ⟨issues_of (by decide +kernel), by decide +kernel, _, some_of base (by decide +kernel)⟩

theorem witness_PredicateResults :
    (∃ x f, predRow (.pand (fa .b32 15 1 0)) = some (x, f) ∧ IssuesAt base (.pand (fa .b32 15 1 0)) []) ∧
    (RunsAt base (.pmovToScalar (fa .b32 770 1 0)) { rds := [], dst := some (Dst.sd 770 .b64), k := 0 } ∧
      Operand.ofCode 770 = .sca 2) ∧
    RunsAt base (.pmovFromScalar (fa .b32 1 770 0)) { rds := [Rd.ss 1 (sr 770) .b64], dst := none, k := 0 } :=
  ⟨⟨_, _, rfl, issues_of (by decide +kernel)⟩, ⟨runs_of (by decide +kernel), by decide⟩, runs_of (by decide +kernel)⟩

theorem witness_SpecialRegisters :
    (∀ n ∈ [0, 1, 4, 6, 8, 10, 11], RunsAt base (.rdsr (fa .b32 769 n 0)) { rds := [], dst := some (Dst.sd 769 .b32), k := 0 }) ∧
    (∀ n ∈ [3, 5, 7, 9], RunsAt base (.rdsr (fa .b64 770 n 0)) { rds := [], dst := some (Dst.sd 770 .b64), k := 0 }) ∧
    (∀ n ∈ [0, 1, 5, 6, 7, 8, 9, 10, 11],
      RunsAt base (.wrsr (fa .b32 0 n 768)) { rds := [Rd.ss 2 (sr 768) .b32], dst := none, k := 0 }) := by
  refine ⟨fun n hn => runs_of ?_, fun n hn => runs_of ?_, fun n hn => runs_of ?_⟩ <;>
    · revert n hn; decide +kernel

theorem witness_LaneExchanges : ∀ i ∈ [Instr.lxor (fa .b32 2 0 1), .lshf (fa .b32 2 0 63), .lperm (fa .b32 2 0 1), .lbc (fa .b32 2 0 768)],
    ∃ x rb src, exchangeRow i = some (x, rb, src) ∧
      RunsAt base i { rds := Rd.vs 1 x.a x.hd.ty :: rb, dst := some (Dst.vd x.d x.hd.ty), k := x.ext.getD 0 } ∧
      Operand.ofCode x.d = .vec 2 ∧ 2 + Ty.regs x.hd.ty ≤ 768 := by
  intro i hi
  simp only [List.mem_cons, List.not_mem_nil, or_false] at hi
  rcases hi with rfl | rfl | rfl | rfl <;>
    exact ⟨_, _, _, rfl, runs_of (by decide +kernel), by decide, by decide⟩

theorem witness_LaneReductions :
    RunsAt base (.lred (fa .s32 2 0 0)) (useV1 (fa .s32 2 0 0)) ∧
    RunsAt base (.lscan (fa .s32 2 0 0 16)) (useV1 (fa .s32 2 0 0 16)) ∧ Operand.ofCode 2 = .vec 2 ∧ 2 + Ty.regs .s32 ≤ 768 :=
  ⟨runs_of (by decide +kernel), runs_of (by decide +kernel), by decide, by decide⟩

theorem witness_LaneVotes :
    RunsAt base (.lvote (fa .b32 2 1 0 3)) { rds := [], dst := some (Dst.vd 2 .n32), k := 0 } ∧ Operand.ofCode 2 = .vec 2 ∧
    ∀ m ∈ [0, 1, 2], RunsAt base (.lvote (fa .b32 1 1 0 m)) { rds := [], dst := none, k := 0 } := by
  refine ⟨runs_of (by decide +kernel), by decide, fun n hn => runs_of ?_⟩
  revert n hn; decide +kernel

theorem witness_ActivationResults :
    RunsAt base (.vact (fa .f32 2 0 0)) (useV1 (fa .f32 2 0 0)) ∧
    (mget Bank.zero (base.blk 0).banks 0).loading = none ∧ Operand.ofCode 2 = .vec 2 ∧ 2 + Ty.regs .f32 ≤ 768 :=
  ⟨runs_of (by decide +kernel), rfl, by decide, by decide⟩

/-- The list's registers are mapped, or all UNMAPPED. -/
theorem witness_TopkInserts : ∀ d ∈ [4, 20],
    let x := fc .f32 d 0 1 0 1
    let i : Instr := .vtopk x
    let u : Use := { rds := [Rd.vs 1 x.a .f32, Rd.vs 2 x.b .n32, Rd.list x.d 4], dst := none, k := 0 }
    let list (l : Nat) := (List.range 4).map fun j => base.value w0 u [] 0 l / 2 ^ (32 * j) % 2 ^ 32
    let res (l : Nat) := topkLane .f32 2 (list l) (base.value w0 u [] 1 l) (base.value w0 u [] 2 l)
    let written := (List.range 4).filter fun j => (siteOf base i).lanes.any fun l => (mfind (res l).1 j).isSome
    let o := (prep base i u).obtainNew w0 (written.map fun j => (0, x.d.toNat + j))
    RunsAt base i u ∧ x.d.toNat + 4 ≤ 768 ∧ o = .ok (stateRows o) ∧
      (∀ p ∈ u.names, ((stateRows o).wave w0).isSpilled p.2 = false) ∧ written ≠ [] := by
  intro d hd
  simp only [List.mem_cons, List.not_mem_nil, or_false] at hd
  rcases hd with rfl | rfl <;>
    exact ⟨runs_of (by decide +kernel), by decide, okRows_of (by decide +kernel), by decide +kernel, by decide +kernel⟩

theorem witness_IndexedMoves :
    (let x := fa .b32 769 768 770
     let u : Use := { rds := [Rd.ss 2 x.b .n32], dst := none, k := 0 }
     let n := x.a.code.toNat - 768 + base.value w0 u [] 2 0
     IssuesAt base (.smovx x) [] ∧ u.Ready (base.wave w0) ∧ u.NoQueue ∧ n < 128 ∧
       (let v : Use := { rds := [Rd.indexed 1 (.sca n) x.a false false, Rd.ss 2 x.b .n32], dst := some (Dst.sd x.d .b32), k := 0 }
        v.Ready (base.wave w0) ∧ v.NoQueue) ∧ Operand.ofCode x.d = .sca 1) ∧
    (let x := fa .b32 769 768 770 1
     let u : Use := { rds := [Rd.ss 1 x.a .b32, Rd.ss 2 x.b .n32], dst := none, k := 0 }
     let n := x.d.toNat - 768 + base.value w0 u [] 2 0
     IssuesAt base (.smovxSt x) [] ∧ u.Ready (base.wave w0) ∧ u.NoQueue ∧ n < 128 ∧
       Use.Ready { rds := [Rd.ss 1 x.a .b32, Rd.ss 2 x.b .n32], dst := some (dstOf (.sca n) .b32 1 false), k := 0 }
         (base.wave w0)) ∧
    (∀ d ∈ [2, 20],
     let x := fa .b32 d 4 1
     let i : Instr := .vmovx x
     let u : Use := { rds := [Rd.vs 2 x.b .n32], dst := none, k := 0 }
     let n (l : Nat) := 4 + base.value w0 u [] 2 l
     let v : Use := { rds := ((sortN ((siteOf base i).lanes.map n)).map fun m => Rd.indexed 1 (.vec m) x.a false true) ++
                        [Rd.vs 2 x.b .n32], dst := some (Dst.vd x.d .b32), k := 0 }
     let o := (prep base i u).obtainNew w0 v.dsts
     IssuesAt base i ((0, d) :: (1, 4) :: u.vnames) ∧ Operand.ofCode x.d = .vec d ∧ u.Ready (base.wave w0) ∧ u.NoQueue ∧
       (∀ l ∈ (siteOf base i).lanes, n l < (base.launchOf 0).win ∧ n l < 768) ∧ v.Ready (base.wave w0) ∧
       o = .ok (stateRows o) ∧ ∀ p ∈ v.names, ((stateRows o).wave w0).isSpilled p.2 = false) ∧
    (∀ d ∈ [4, 20],
     let x := fa .b32 d 0 1 1
     let i : Instr := .vmovxSt x
     let u : Use := { rds := [Rd.vs 1 x.a .b32, Rd.vs 2 x.b .n32], dst := none, k := 0 }
     let n (l : Nat) := d + base.value w0 u [] 2 l
     let v : Use := { u with dst := some { op := .vec d, ty := .b32, n := 1, each := true
                                           codes := sortN ((siteOf base i).lanes.map n) } }
     let o := (prep base i { u with rds := [Rd.vs 2 x.b .n32] }).obtainNew w0 v.dsts
     IssuesAt base i ((0, d) :: u.vnames) ∧ u.NoQueue ∧
       (∀ l ∈ (siteOf base i).lanes, n l < (base.launchOf 0).win ∧ n l < 768) ∧ v.Ready (base.wave w0) ∧
       o = .ok (stateRows o) ∧ ∀ p ∈ v.names, ((stateRows o).wave w0).isSpilled p.2 = false) := by
  refine ⟨⟨issues_of (by decide +kernel), ready_of (by decide +kernel), plain_of (by decide +kernel), by decide +kernel,
    ⟨ready_of (by decide +kernel), plain_of (by decide +kernel)⟩, by decide⟩, ⟨issues_of (by decide +kernel), ready_of (by decide +kernel),
    plain_of (by decide +kernel), by decide +kernel, ready_of (by decide +kernel)⟩, ?_, ?_⟩
  · intro d hd
    simp only [List.mem_cons, List.not_mem_nil, or_false] at hd
    rcases hd with rfl | rfl <;>
      exact ⟨issues_of (by decide +kernel), by decide, ready_of (by decide +kernel), plain_of (by decide +kernel), by decide +kernel,
        ready_of (by decide +kernel), okRows_of (by decide +kernel), by decide +kernel⟩
  · intro d hd
    simp only [List.mem_cons, List.not_mem_nil, or_false] at hd
    rcases hd with rfl | rfl <;>
      exact ⟨issues_of (by decide +kernel), plain_of (by decide +kernel), by decide +kernel, ready_of (by decide +kernel),
        okRows_of (by decide +kernel), by decide +kernel⟩

theorem witness_StagingAndRelease :
    IssuesAt base (.stage (fk 0 4 5)) ((stageNames (fk 0 4 5)).map fun n => (1, n)) ∧
    IssuesAt base (.rls (fa .b32 0 4 2)) ((rangeFrom 4 2).map fun n => (1, n)) ∧
    (∀ n ∈ rangeFrom 4 2, (base.wave w0).isEmpty n = false) ∧
    (let i : Instr := .rls (guarded1 (fa .b32 0 4 2))
     IssuesAt oneLane i ((rangeFrom 4 2).map fun n => (1, n)) ∧ (∀ n ∈ rangeFrom 4 2, (oneLane.wave w0).isEmpty n = false) ∧
       ((oneLane.wave w0).vreg 4).any (fun v => decide (v.live &&& ~~~laneMask (siteOf oneLane i).lanes ≠ 0)) = true) :=
  ⟨issues_of (by decide +kernel), issues_of (by decide +kernel), by decide +kernel, issues_of (by decide +kernel), by decide +kernel⟩

/-- What opening record 0 gives an instruction of the small state, and the state in which it goes on. -/
abbrev opened (i : Instr) (u : Use) (ty : Ty) (a : Acc) : RecOut :=
  (prep base i u).openRecord (siteOf base i) 0 (base.record 0 0) ty a

/-- No access of the lanes is written to the race log. -/
def unloggedB (q : State) (a : Acc) (elem : Nat → Elem) (lanes : List Nat) : Bool :=
  lanes.all fun l =>
    match elem l with
    | .at_ ga =>
      match q.resolve (w0.thread l) ga a with
      | .ok p => decide (pageRace p.entry = 0) || (q.conflicts w0 p.loc.sec).isNone
      | .error _ => true
    | _ => true

theorem unlogged_of {q : State} {a : Acc} {elem : Nat → Elem} {lanes : List Nat} (h : unloggedB q a elem lanes = true) :
    Unlogged q w0 a elem lanes := by
  intro l hl ga p he hp
  have := List.all_eq_true.mp h l hl
  rw [he] at this
  dsimp only at this
  rw [hp] at this
  simpa only [Bool.or_eq_true, decide_eq_true_eq, Option.isNone_iff_eq_none] using this

/-- Record 0 gives 0 for an element out of its bounds. -/
def bounded : State := { base with blocks := [(0, { block0 with recs := [(0, rec0 ||| 0x10#256)] })] }

theorem witness_LoadsComplete_acquire :
    let x := { fm .b32 2 0 0 0 0 3 0xFF with ord := 1 }
    let u : Use := { rds := [Rd.vs 1 x.a .n32], dst := some (Dst.vd x.d x.hd.ty), k := 0 }
    let o := (prep bounded (.ld x) u).openRecord (siteOf bounded (.ld x)) 0 (bounded.record 0 0) .b32 .load
    let elem := fun l => elementAt (bounded.record 0 0) (rowsR o) 4 (laneIndex (bounded.value w0 u []) x.ofs l)
    acqScope x.ord (scopeOf x.scope (bounded.record 0 0)) = some 3 ∧ RunsAt bounded (.ld x) u ∧ o = .ok (rowsR o) (stateR o) ∧
      elem 0 = .out ∧ (loads (stateR o) w0 .b32 (some 3) 0 elem [0, 1]).trap = none :=
  ⟨by decide +kernel, runs_of (by decide +kernel), okR_of (by decide +kernel), by decide +kernel, by decide +kernel⟩

theorem witness_LoadsComplete :
    (let x := fm .b32 2 0 0 0
     let u : Use := { rds := [Rd.vs 1 x.a .n32], dst := some (Dst.vd x.d x.hd.ty), k := 0 }
     let o := opened (.ld x) u .b32 .load
     Operand.ofCode x.d = .vec 2 ∧ RunsAt base (.ld x) u ∧ o = .ok (rowsR o) (stateR o) ∧
       Unlogged (stateR o) w0 .load (fun l => elementAt rec0 (rowsR o) 4 (laneIndex (base.value w0 u []) x.ofs l)) [0, 1] ∧
       (loads (stateR o) w0 .b32 none 0
         (fun l => elementAt rec0 (rowsR o) 4 (laneIndex (base.value w0 u []) x.ofs l)) [0, 1]).trap = none) ∧
    (let x := fm .b32 2 8 0 0
     let u : Use := { rds := [Rd.pair 1 x.a true], dst := some (Dst.vd x.d x.hd.ty), k := 0 }
     RunsAt base (.ldg x) u ∧ badScope x.scope (base.record 0 0) = false ∧
       Unlogged (prep base (.ldg x) u) w0 .load (fun l => .at_ (laneAddr (base.value w0 u []) x.ofs l)) [0, 1] ∧
       (loads (prep base (.ldg x) u) w0 .b32 none 0 (fun l => .at_ (laneAddr (base.value w0 u []) x.ofs l)) [0, 1]).trap = none) :=
  ⟨⟨by decide, runs_of (by decide +kernel), okR_of (by decide +kernel), unlogged_of (by decide +kernel), by decide +kernel⟩,
    runs_of (by decide +kernel), by decide +kernel, unlogged_of (by decide +kernel), by decide +kernel⟩

theorem witness_StoresComplete :
    (let x := fm .b32 0 0 1 0
     let u : Use := { rds := [Rd.vs 1 x.a .n32, Rd.vs 2 x.b x.hd.ty], dst := none, k := 0 }
     let o := opened (.st x) u .b32 .store
     RunsAt base (.st x) u ∧ o = .ok (rowsR o) (stateR o) ∧ (stateR o).release (siteOf base (.st x)) ((stateR o).releaseWave (siteOf base (.st x)) none) = .ok (stateR o) ∧
       (stores (stateR o) w0 .b32 none (base.value w0 u [] 2)
         (fun l => elementAt rec0 (rowsR o) 4 (laneIndex (base.value w0 u []) x.ofs l)) [0, 1]).trap = none) ∧
    (let x := fm .b32 0 8 1 0
     let u : Use := { rds := [Rd.pair 1 x.a true, Rd.vs 2 x.b x.hd.ty], dst := none, k := 0 }
     let S := prep base (.sts x) u
     RunsAt base (.sts x) u ∧ S.release (siteOf base (.sts x)) (S.releaseWave (siteOf base (.sts x)) none) = .ok S ∧
       (stores S w0 .b32 none (base.value w0 u [] 2) (fun l => .at_ (laneAddr (base.value w0 u []) x.ofs l)) [0, 1]).trap = none) :=
  ⟨⟨runs_of (by decide +kernel), okR_of (by decide +kernel), rfl, by decide +kernel⟩, runs_of (by decide +kernel), rfl,
    by decide +kernel⟩

theorem witness_StoresTouchOnly :
    (let x := fm .b32 0 0 1 0
     let u : Use := { rds := [Rd.vs 1 x.a .n32, Rd.vs 2 x.b x.hd.ty], dst := none, k := 0 }
     let o := opened (.st x) u .b32 .store
     let elem := fun l => elementAt rec0 (rowsR o) 4 (laneIndex (base.value w0 u []) x.ofs l)
     o = .ok (rowsR o) (stateR o) ∧ RunsAt base (.st x) u ∧ x.ord = 0 ∧
       (base.thread (w0.thread 0)).fence = none ∧ (base.thread (w0.thread 1)).fence = none ∧
       (stores (stateR o) w0 .b32 none (base.value w0 u [] 2) elem [0, 1]).trap = none ∧
       (base.wave w0).lvl0.length + 2 ≤ Config.lvl0Max ∧ Unlogged (stateR o) w0 .store elem [0, 1] ∧
       (storePlace (stateR o) (w0.thread 0) (elem 0)).isSome = true ∧
       (storePlace (stateR o) (w0.thread 1) (elem 1)).isSome = true ∧
       storePlace (stateR o) (w0.thread 0) (elem 0) ≠ storePlace (stateR o) (w0.thread 1) (elem 1)) ∧
    (let x := fm .b32 0 8 1 0
     let u : Use := { rds := [Rd.pair 1 x.a true, Rd.vs 2 x.b x.hd.ty], dst := none, k := 0 }
     let elem := fun l => Elem.at_ (laneAddr (base.value w0 u []) x.ofs l)
     RunsAt base (.sts x) u ∧ badScope x.scope (base.record 0 0) = false ∧ x.ord = 0 ∧
       (stores (prep base (.sts x) u) w0 .b32 none (base.value w0 u [] 2) elem [0, 1]).trap = none ∧
       (storePlace (prep base (.sts x) u) (w0.thread 0) (elem 0)).isSome = true ∧
       storePlace (prep base (.sts x) u) (w0.thread 0) (elem 0) ≠
         storePlace (prep base (.sts x) u) (w0.thread 1) (elem 1)) :=
  ⟨⟨okR_of (by decide +kernel), runs_of (by decide +kernel), rfl, by decide +kernel, by decide +kernel, by decide +kernel,
      by decide +kernel, unlogged_of (by decide +kernel), by decide +kernel⟩,
    runs_of (by decide +kernel), by decide +kernel, rfl, by decide +kernel, by decide +kernel, by decide +kernel⟩

theorem witness_AtomicsComplete :
    (let x := fm .n32 2 0 1 0 0 1
     let u : Use := { rds := atomRds x, dst := some (Dst.vd x.d x.hd.ty), k := 0 }
     let o := opened (.atom x) u .n32 .atomic
     RunsAt base (.atom x) u ∧ o = .ok (rowsR o) (stateR o) ∧
       (∃ C, (stateR o).commitSecs w0 1 ((stateR o).namedSecs w0 [0, 1]
         (fun l => elementAt rec0 (rowsR o) 4 (laneIndex (base.value w0 u []) x.ofs l))) = some C ∧
         C.release (siteOf base (.atom x)) (C.releaseWave (siteOf base (.atom x)) none) = .ok C) ∧
       (atomics (stateR o) w0 x 1 (base.value w0 u [])
         (fun l => elementAt rec0 (rowsR o) 4 (laneIndex (base.value w0 u []) x.ofs l)) [0, 1]).trap = none) ∧
    (let x := fm .n32 0 0 1 0 0 1
     let u : Use := { rds := atomRds x, dst := none, k := 0 }
     let o := opened (.red x) u .n32 .atomic
     RunsAt base (.red x) u ∧ o = .ok (rowsR o) (stateR o) ∧
       (∃ C, (stateR o).commitSecs w0 1 ((stateR o).namedSecs w0 [0, 1]
         (fun l => elementAt rec0 (rowsR o) 4 (laneIndex (base.value w0 u []) x.ofs l))) = some C ∧
         C.release (siteOf base (.red x)) (C.releaseWave (siteOf base (.red x)) none) = .ok C) ∧
       (atomics (stateR o) w0 x 1 (base.value w0 u [])
         (fun l => elementAt rec0 (rowsR o) 4 (laneIndex (base.value w0 u []) x.ofs l)) [0, 1]).trap = none) :=
  ⟨⟨runs_of (by decide +kernel), okR_of (by decide +kernel), ⟨_, some_of base (by decide +kernel), rfl⟩, by decide +kernel⟩,
    runs_of (by decide +kernel), okR_of (by decide +kernel), ⟨_, some_of base (by decide +kernel), rfl⟩, by decide +kernel⟩

theorem witness_PrefetchAndRecords :
    RunsAt base (.pref (fm .b32 0 0 0 0)) { rds := [{ Rd.vs 1 (sr 0) .n32 with tie := false }], dst := none, k := 0 } ∧
    (let x := fm .b32 0 778 0 0
     let u : Use := { rds := [Rd.pair 1 x.a false], dst := none, k := 0 }
     let o := (prep base (.trec x) u).access w0 .load 0 32 0 (.at_ (laneAddr (base.value w0 u []) x.ofs 0))
     RunsAt base (.trec x) u ∧ okE o = true ∧ (outE (none, base) o).1.isSome = true) ∧
    RunsAt base (.tset (fm .b32 0 768 0 0 0 0 0x81))
      { rds := (maskBits 8 0x81).map fun i =>
          { opnd := 1, op := .sca (768 + i - 768), last := false, tie := false, ty := .b32, n := 1, each := false }
        dst := none, k := 0 } ∧
    RunsAt base (.tget (fm .b32 784 0 0 0 1 0 0x101))
      { rds := [], k := 0, dst := some { op := Operand.ofCode 784, ty := .b32, n := 1, each := false
                                         codes := (maskBits 9 0x101).map (784 + ·) } } :=
  ⟨runs_of (by decide +kernel), ⟨runs_of (by decide +kernel), by decide +kernel, by decide +kernel⟩,
    runs_of (by decide +kernel), runs_of (by decide +kernel)⟩

theorem witness_TagTable :
    RunsAt base (.tlook (fa .b32 2 0 0)) { rds := [Rd.vs 1 (sr 0) .b32], dst := some (Dst.vd 2 .b32), k := 0 } ∧
    RunsAt base (.tins (fa .b32 2 0 1)) { rds := [Rd.vs 1 (sr 0) .b32, Rd.vs 2 (sr 1) .b32], dst := some (Dst.vd 2 .b32), k := 0 } ∧
    RunsAt base (.tdel (fa .b32 2 0 0)) { rds := [Rd.vs 1 (sr 0) .b32], dst := some (Dst.vd 2 .b32), k := 0 } ∧
    Operand.ofCode 2 = .vec 2 :=
  ⟨runs_of (by decide +kernel), runs_of (by decide +kernel), runs_of (by decide +kernel), by decide⟩

theorem witness_TagTable_ways :
    let ws : List TagWay := [{ way := 2, tag := 70 }, { way := 0, tag := 6 }]
    (ws.map (·.way)).Nodup ∧ (ws.map (·.tag)).Nodup ∧ (∀ x ∈ ws, x.way < 4) ∧ (∃ x ∈ ws, x.tag = 6) ∧
      (∀ x ∈ ws, x.tag ≠ 134) ∧ (∀ x ∈ ws, x.way ≠ 1) ∧ ∀ j < 1, ∃ x ∈ ws, x.way = j := by decide

/-- A word that a wave has written and not committed. -/
def written : State := withWave fun w =>
  { w with lvl0 := [{ sp := .glob, no := 4, bytes := [(0, 7)], cm := 0 }] }
/-- A wave whose interval was open when its context was restored. -/
def restored : State := withWave fun w => { w with restoredOpen := true }

/-- A wave with uncommitted words, whose block has a remote write to be acknowledged. -/
def unacked : State :=
  { written with remotes := [(7, { ctx := 0, blk := 0, wid := w0, write := true, peer := 1, dest := none, perm := none
                                   heard := (0, 0), ticket := 0 })] }

abbrev ordered (s : State) (i : Instr) : State := (step1 s i).orderLoads w0

theorem awaits_not {S : State} {m : Nat} (h : (decide (m = 5) && !(S.unacked 0).isEmpty) = false) : ¬ AwaitsAcks S w0 m := by
  rintro ⟨h1, h2⟩
  have h2 : (S.unacked 0).isEmpty = false := by
    cases e : S.unacked 0 with
    | nil => exact absurd e h2
    | cons _ _ => rfl
  simp [h1, h2] at h

theorem witness_CommitsComplete :
    (∀ s ∈ [base, written], ∀ m ∈ [0, 1, 4, 5], let i : Instr := .commit (fa .b32 0 0 0 m)
      IssuesAt s i [] ∧ ¬ AwaitsAcks (ordered s i) w0 m ∧ ∃ C, (ordered s i).commitMoves w0 m = some C) ∧
    (let i : Instr := .commit (fa .b32 0 0 0 5)
     IssuesAt unacked i [] ∧ AwaitsAcks (ordered unacked i) w0 5 ∧ ∃ C, (ordered unacked i).commitMoves w0 5 = some C) ∧
    (∀ m ∈ [1, 4], let i : Instr := .commitChk (fa .b32 1 0 0 (8 + m))
     IssuesAt base i [] ∧ (step1 base i).checkPasses w0 m = true ∧ ∃ C, (ordered base i).commitMoves w0 m = some C) ∧
    (let i : Instr := .commitChk (fa .b32 1 0 0 9)
     IssuesAt restored i [] ∧ (step1 restored i).checkPasses w0 1 = false) := by
  refine ⟨fun s hs m hm => ⟨issues_of ?_, awaits_not ?_, _, some_of base ?_⟩,
    ⟨issues_of (by decide +kernel), ⟨rfl, by decide +kernel⟩, _, some_of base (by decide +kernel)⟩,
    fun m hm => ⟨issues_of ?_, ?_, _, some_of base ?_⟩, issues_of (by decide +kernel), by decide +kernel⟩
  · revert s hs m hm; decide +kernel
  · revert s hs m hm; decide +kernel
  · revert s hs m hm; decide +kernel
  · revert m hm; decide +kernel
  · revert m hm; decide +kernel
  · revert m hm; decide +kernel

theorem witness_AbortAndFence :
    IssuesAt written (.abort (fa .b32 0 0 0 1)) [] ∧
    (let i : Instr := .fence (fa .b32 0 0 0 17)
     IssuesAt written i [] ∧ ∃ C, (ordered written i).commitMoves w0 1 = some C) ∧
    (let i : Instr := .fence (fa .b32 0 0 0 29)
     IssuesAt unacked i [] ∧ AwaitsAcks (ordered unacked i) w0 5 ∧ ∃ C, (ordered unacked i).commitMoves w0 5 = some C) ∧
    (let i : Instr := .abort (fa .b32 0 0 0 9)
     IssuesAt written i [] ∧ ((written.blk 0).waves.map (·.1)).Nodup) ∧
    IssuesAt written (.fence (fa .b32 0 0 0 9)) [] :=
  ⟨issues_of (by decide +kernel), ⟨issues_of (by decide +kernel), _, some_of base (by decide +kernel)⟩,
    ⟨issues_of (by decide +kernel), ⟨rfl, by decide +kernel⟩, _, some_of base (by decide +kernel)⟩,
    ⟨issues_of (by decide +kernel), by decide⟩, issues_of (by decide +kernel)⟩

theorem witness_AtldLoads :
    let x := fm .b32 0 778 0 0
    let u : Use := { rds := [Rd.pair 1 x.a false], dst := none, k := 0 }
    let ga := laneAddr (base.value w0 u []) x.ofs 0
    let o := (prep base (.atld x) u).imagePlaces w0 0 ga (bankBytes / 16) 0
    RunsAt base (.atld x) u ∧ ga % 16 = 0 ∧ o = .ok (outE ([], base) o) ∧
      (mget Bank.zero ((outE ([], base) o).2.blk 0).banks 0).loading = none :=
  ⟨runs_of (by decide +kernel), by decide +kernel, ok_of _ (by decide +kernel), by decide +kernel⟩

/-- An object in the block's scratchpad, in phase 3 with two arrivals to come. -/
def obj0 : Loc := { sp := .scr 0, addr := 0x40 }
def bar0 : Bar :=
  { landed := 0, expb := 0, phase := 3, pend := 2, expa := 2, scope := 1, drop := true, valid := true, bovf := false }
def barBase : State := base.setBar obj0 bar0
theorem witness_BarrierWrites :
    (∀ md ∈ [1, 9], let x := fa .b32 0 780 770 md
     let u := barUse x.a [Rd.ss 2 x.b .n32] (x.ext.getD 0)
     RunsAt base (.binit x) u ∧
       (prep base (.binit x) u).barObject (w0.thread 0) (base.value w0 u [] 1 0) .atomic = .ok obj0 ∧
       base.value w0 u [] 2 0 < 2 ^ 20 ∧ barPlaceOk obj0 1 = true ∧ (base.blk 0).drops.length < dropMax) ∧
    (let x := fa .b32 0 780 770
     let u := barUse x.a [Rd.ss 2 x.b .n32] (x.ext.getD 0)
     RunsAt barBase (.bexp x) u ∧
       (prep barBase (.bexp x) u).barChecked (w0.thread 0) (barBase.value w0 u [] 1 0) .atomic = .ok obj0 ∧
       (prep barBase (.bexp x) u).bar obj0 = bar0) ∧
    (let x := fa .b32 0 780 0
     let u := barUse x.a [] (x.ext.getD 0)
     RunsAt barBase (.bdrop x) u ∧
       (prep barBase (.bdrop x) u).barChecked (w0.thread 0) (barBase.value w0 u [] 1 0) .atomic = .ok obj0 ∧
       (prep barBase (.bdrop x) u).bar obj0 = bar0) ∧
    (let x := fa .b32 0 780 0
     let u := barUse x.a [] (x.ext.getD 0)
     let C := (((prep barBase (.barv x) u).orderLoads w0).commitMoves w0 1).getD base
     RunsAt barBase (.barv x) u ∧
       (prep barBase (.barv x) u).barChecked (w0.thread 0) (barBase.value w0 u [] 1 0) .atomic = .ok obj0 ∧
       ((prep barBase (.barv x) u).orderLoads w0).commitMoves w0 1 = some C ∧ C.bar obj0 = bar0 ∧
       (C.blk 0).drops.length < dropMax) := by
  refine ⟨?_, ⟨runs_of (by decide +kernel), is_of (by decide +kernel), by decide +kernel⟩,
    ⟨runs_of (by decide +kernel), is_of (by decide +kernel), by decide +kernel⟩,
    ⟨runs_of (by decide +kernel), is_of (by decide +kernel), some_of _ (by decide +kernel), by decide +kernel, by decide +kernel⟩⟩
  intro md hm
  refine ⟨runs_of ?_, is_of ?_, ?_, ?_, ?_⟩ <;> revert md hm <;> decide +kernel

theorem witness_BarrierTests :
    (∀ n ∈ [768, 770], let x := fa .b32 1 780 n
     let u := barUse x.a [Rd.ss 2 x.b .n32] (x.ext.getD 0)
     RunsAt barBase (.btest x) u ∧
       (prep barBase (.btest x) u).barChecked (w0.thread 0) (barBase.value w0 u [] 1 0) .load = .ok obj0) ∧
    (phasePassed ((prep barBase (.btest (fa .b32 1 780 768)) (barUse (sr 780) [Rd.ss 2 (sr 768) .n32] 0)).bar obj0).phase 5 = false) ∧
    (∀ md ∈ [0, 1], let x := fc .b32 md 780 768 (if md = 0 then 0 else 769) md
     let u := barUse x.a (Rd.ss 2 x.b .n32 :: (if md = 1 then [Rd.ss 3 x.c .n32] else [])) 0
     RunsAt barBase (.bwait x) u ∧
       (prep barBase (.bwait x) u).barChecked (w0.thread 0) (barBase.value w0 u [] 1 0) .load = .ok obj0) := by
  refine ⟨fun n hn => ⟨runs_of ?_, is_of ?_⟩, by decide +kernel, fun md hm => ⟨runs_of ?_, is_of ?_⟩⟩
  · revert n hn; decide +kernel
  · revert n hn; decide +kernel
  · revert md hm; decide +kernel
  · revert md hm; decide +kernel

/-- The scalars s10 to s13 hold two addresses. -/
def requests : List Instr :=
  [.cpy (fm .b32 784 778 780 0 0 1 64), .cpyt (fm .b32 784 768 0 0 0 1), .fperm (fm .b32 784 778 780 0 0 1),
   .mma (fm .f16 0 768 770 0 0 0 32), .mzero (fa .b32 0 1 0), .mld (fm .f32 0 768 0 0), .mldV (fm .f32 0 0 768 0 4),
   .mst (fm .f32 784 768 0 0 0 1), .pwr (fm .b32 0 778 780 0 0 0 64), .psigArv (fm .b32 0 778 0 0),
   .psigAdd (fm .n64 0 778 780 0 32), .prd (fm .b32 2 0 0 0), .patom (fm .n32 2 0 1 0), .pperm (fm .b32 784 778 780 0)]

theorem witness_RequestsHandedOver :
    ∀ i ∈ requests, ∃ h, handed base 0 i = some h ∧ RunsAt base i h.use ∧
      ∃ S, (prep base i h.use).release (siteOf base i) (if h.release then some 5 else none) = .ok S := by
  intro i hi
  simp only [requests, List.mem_cons, List.not_mem_nil, or_false] at hi
  rcases hi with rfl | rfl | rfl | rfl | rfl | rfl | rfl | rfl | rfl | rfl | rfl | rfl | rfl | rfl <;>
    exact ⟨_, rfl, runs_of (by decide +kernel), _, okL_of (by decide +kernel)⟩

def doneA : Answer → Bool
  | .done _ => true
  | _ => false
theorem doneA_of {o : Answer} (h : doneA o = true) : ∃ S, o = .done S := by
  cases o with
  | done s => exact ⟨s, rfl⟩
  | trap t s => cases h
  | part d p s => cases h
  | full => cases h

def request0 : PendWave := { PendWave.fresh w0 [0, 1] with ops := [(0, [0, 0, 0])], trs := [rec0, rec0] }
/-- A request of the slot's wave stands before its engine; the block holds the matrix engine. -/
def asked (i : Instr) (p : PendWave := request0) : State :=
  { base with cores := [(0, { Core.reset with
      mx := { Matrix.free with holder := some 0 }
      slots := [(0, { Slot.reset with run := some run0, pend := some { instr := i, waves := [p] } })] })] }

theorem noneConverging_of {s : State} {w : WaveId} (h : ((s.wave w).threads.all fun p => decide (p.2.wait ≠ .converging)) = true) :
    NoneConverging s w := by
  simp only [List.all_eq_true, decide_eq_true_eq] at h
  exact h

theorem witness_RequestsTaken :
    let i : Instr := .mzero (fa .b32 0 1 0)
    let s := asked i
    let y := s.pendIss 0 0 run0 i [0, 1] request0
    (s.slot 0 0).run = some run0 ∧ (s.slot 0 0).pend = some { instr := i, waves := [request0] } ∧
      s.groupWaves run0.group = [(w0, [0, 1])] ∧ s.lowerFirst 0 0 { instr := i, waves := [request0] } = false ∧
      i.requestUse.NoQueue ∧ ∃ S, i.accept y request0 s = .done S ∧ NoneConverging S w0 := by
  refine ⟨by decide +kernel, by decide +kernel, by decide +kernel, by decide +kernel, plain_of (by decide +kernel), _, rfl,
    noneConverging_of (by decide +kernel)⟩

/-- A signed MMA that its engine has begun, for lane 0. -/
theorem witness_RequestsTaken_begun :
    let i : Instr := .mma (fm .f16 1 768 770 0 8 0 32)
    let p : PendWave := { request0 with ready := some (.mx (.zero 1)), done := [0] }
    let s := asked i p
    let y := s.pendIss 0 0 run0 i [0, 1] p
    (s.slot 0 0).run = some run0 ∧ (s.slot 0 0).pend = some { instr := i, waves := [p] } ∧
      s.groupWaves run0.group = [(w0, [0, 1])] ∧ s.lowerFirst 0 0 { instr := i, waves := [p] } = false ∧
      i.requestUse.NoQueue ∧ ∃ S, i.accept y p s = .done S ∧ NoneConverging S w0 :=
  ⟨by decide +kernel, by decide +kernel, by decide +kernel, by decide +kernel, plain_of (by decide +kernel), _, rfl,
    noneConverging_of (by decide +kernel)⟩

/-- The matrix engine is held by the block, or by another. -/
def holds (b : Nat) : State :=
  { base with cores := [(0, { Core.reset with
      mx := { Matrix.free with holder := some b }, slots := [(0, { Slot.reset with run := some run0 })] })] }

theorem witness_MatrixControl :
    (∀ s ∈ [base, holds 0, holds 1], IssuesAt s (.mrsv (fa .b32 1 0 0)) [] ∧ IssuesAt s (.mrel (fa .b32 0 0 0)) []) ∧
    (let x := fa .n32 5 768 0
     let x := { x with hd := hd .b32 }
     let u : Use := { rds := [Rd.ss 1 x.a .n32], dst := none, k := 0 }
     RunsAt base (.cvset x) u ∧ base.value w0 u [] 1 0 ≤ 1024) := by
  refine ⟨fun s hs => ⟨issues_of ?_, issues_of ?_⟩, runs_of (by decide +kernel), by decide +kernel⟩ <;>
    · revert s hs; decide +kernel

/-- A ring of 64 slots at the scratch address of s12:13, as its initialisation leaves it. -/
def ring0 : RingRef := { sp := .scr 0, first := 0x40, chunks := [0] }
def ringBase : State := base.ringInit ring0 6
def bound : State := base.setBinding 0 1 (some ring0)

theorem witness_BatchesAndBindings :
    IssuesAt (withWave fun w => { w with batch := some 3 }) (.cseal (fa .b32 0 0 0)) [] ∧
    (let x := fa .b32 897 780 0
     let u := qbindUse x
     let P := prep ringBase (.qbind x) u
     let ga := ringBase.value w0 u [] 1 0
     RunsAt ringBase (.qbind x) u ∧ P.ringAddr ga = none ∧ P.ringAt (w0.thread 0) ga 32 = .ok ring0 ∧
       P.ringValid ring0 = true ∧
       P.ringAt (w0.thread 0) ga (ringBytes (field (P.homeByte (ring0.loc 0)).toNat 7 3)) = .ok ring0) ∧
    (let x := fa .b32 897 780 6 1
     let u := qbindUse x
     let P := prep base (.qbindInit x) u
     let ga := base.value w0 u [] 1 0
     RunsAt base (.qbindInit x) u ∧ P.ringAddr ga = none ∧ P.ringAt (w0.thread 0) ga (ringBytes 6) = .ok ring0) ∧
    IssuesAt bound (.qbindOff (fa .b32 897 0 0 2)) [] ∧
    (let x := fa .b32 769 897 1
     RunsAt bound (.qstat x) { rds := [], dst := some (Dst.sd x.d .b32), k := 0 } ∧ Operand.ofCode x.d = .sca 1 ∧
       bound.binding 0 (queueNo x.a.code.toNat) = some ring0) :=
  ⟨issues_of (by decide +kernel),
    ⟨runs_of (by decide +kernel), by decide +kernel, is_of (by decide +kernel), by decide +kernel, is_of (by decide +kernel)⟩,
    ⟨runs_of (by decide +kernel), by decide +kernel, is_of (by decide +kernel)⟩,
    issues_of (by decide +kernel), runs_of (by decide +kernel), by decide, by decide +kernel⟩

/-- An object of scope `.pod` in home memory, while a remote write of the block awaits its acknowledgement. -/
def objG : Loc := { sp := .glob, addr := 0x200 }
def podBase : State :=
  { base with remotes := [(7, { ctx := 0, blk := 0, wid := w0, write := true, peer := 1, dest := none, perm := none, heard := (0, 0), ticket := 0 })]
  }.setBar objG { bar0 with scope := 5 }

theorem witness_BarrierWrites_remote :
    let x := fa .b32 0 778 0
    let u := barUse x.a [] (x.ext.getD 0)
    let C := (((prep podBase (.barv x) u).orderLoads w0).commitMoves w0 5).getD base
    RunsAt podBase (.barv x) u ∧
      (prep podBase (.barv x) u).barChecked (w0.thread 0) (podBase.value w0 u [] 1 0) .atomic = .ok objG ∧
      ((prep podBase (.barv x) u).orderLoads w0).commitMoves w0 5 = some C ∧
      ((prep podBase (.barv x) u).bar objG).scope = 5 ∧
      (prep podBase (.barv x) u).unacked 0 ≠ [] :=
  ⟨runs_of (by decide +kernel), is_of (by decide +kernel), some_of _ (by decide +kernel), by decide +kernel, by decide +kernel⟩

/-- Page 0 is an aperture over two pages of home memory. -/
def aperBase : State :=
  { base with ctxs := [(0, { Ctx.reset with st := .run, pages :=
      [(0, { entry := 0x20000000000001D, members := [0x1001D, 0x2001D], names := [] })] })] }

theorem witness_MemorySideRequests :
    (∀ ord ∈ [0, 1], let x : FM := { fm .n32 2 0 1 0 0 4 with ord := BitVec.ofNat 2 ord }
     let u : Use := { rds := [Rd.vs 1 x.a .n32, Rd.vs 2 x.b .n32], dst := some (Dst.vd x.d .n32), k := 0 }
     let i : Instr := .matom x
     let o := opened i u .n32 .atomic
     let r := (stateR o).release (siteOf base i) ((stateR o).releaseWave (siteOf base i) none)
     let elem := fun l => elementAt rec0 (rowsR o) 4 (laneIndex (base.value w0 u []) x.ofs l)
     let c := (stateL r).commitSecs w0 4 ((stateL r).namedSecs w0 [0, 1] elem)
     let s4 := c.getD base
     RunsAt base i u ∧ Operand.ofCode x.d = .vec 2 ∧ o = .ok (rowsR o) (stateR o) ∧ r = .ok (stateL r) ∧ c = some s4 ∧
       (runLanes (fun l q => q.msLane w0 x 0 s4.nextId (some x.d.toNat) (base.value w0 u [] 2 l) (base.value w0 u [] 3 l) l
         (elem l)) [0, 1] { s4 with nextId := s4.nextId + 1 }).trap = none) ∧
    (let x := fm .n32 0 0 1 0 0 4
     let u : Use := { rds := [Rd.vs 1 x.a .n32, Rd.vs 2 x.b .n32], dst := none, k := 0 }
     let i : Instr := .mred x
     let o := opened i u .n32 .atomic
     let r := (stateR o).release (siteOf base i) ((stateR o).releaseWave (siteOf base i) none)
     let elem := fun l => elementAt rec0 (rowsR o) 4 (laneIndex (base.value w0 u []) x.ofs l)
     let c := (stateL r).commitSecs w0 4 ((stateL r).namedSecs w0 [0, 1] elem)
     let s4 := c.getD base
     RunsAt base i u ∧ o = .ok (rowsR o) (stateR o) ∧ r = .ok (stateL r) ∧ c = some s4 ∧
       (runLanes (fun l q => q.msLane w0 x 0 s4.nextId none (base.value w0 u [] 2 l) (base.value w0 u [] 3 l) l
         (elem l)) [0, 1] { s4 with nextId := s4.nextId + 1 }).trap = none) ∧
    (let x := fm .f32 2 0 0 0
     let u : Use := { rds := [Rd.vs 1 x.a .n32], dst := some (Dst.vd x.d .f32), k := 0 }
     let i : Instr := .fmld x
     let o := (prep aperBase i u).openRecord (siteOf aperBase i) 0 rec0 .f32 .load
     RunsAt aperBase i u ∧ Operand.ofCode x.d = .vec 2 ∧ o = .ok (rowsR o) (stateR o) ∧
       (runLanes (fun l q => q.fmldLane w0 0 .f32 l (elementAt rec0 (rowsR o) 4 (laneIndex (aperBase.value w0 u []) x.ofs l))) [0, 1]
         (stateR o)).trap = none ∧
       okE ((stateR o).memberLocs 0 0x3F0000000000101C 4 0) = true) := by
  refine ⟨?_, ⟨runs_of (by decide +kernel), okR_of (by decide +kernel), okL_of (by decide +kernel), some_of _ (by decide +kernel),
    by decide +kernel⟩, runs_of (by decide +kernel), by decide, okR_of (by decide +kernel), by decide +kernel, by decide +kernel⟩
  intro ord ho
  simp only [List.mem_cons, List.not_mem_nil, or_false] at ho
  rcases ho with rfl | rfl <;>
    exact ⟨runs_of (by decide +kernel), by decide, okR_of (by decide +kernel), okL_of (by decide +kernel),
      some_of _ (by decide +kernel), by decide +kernel⟩

/-- A ready launch of another register split. -/
def launch1 : Launch :=
  { Launch.ofDesc 1 0 0 (openDesc + BitVec.ofNat 512 (2 ^ 54)) with st := .ready, considered := true }
/-- One core is left, and a ready launch of another context cannot share it with the resident block. -/
def crowded : State :=
  { base with
    ctxs := (1, { Ctx.reset with ctxpoolsz := 0x1FFFFFF }) :: base.ctxs
    mc := { base.mc with out := rangeFrom 1 63, faulty := rangeFrom 1 31 }
    launches := (1, launch1) :: base.launches }

theorem foldl_skip {α β : Type} (f : β → α → β) (xs : List α) (b : β) (h : ∀ b, ∀ x ∈ xs, f b x = b) : xs.foldl f b = b := by
  induction xs generalizing b with
  | nil => rfl
  | cons x t ih => rw [List.foldl_cons, h b x (List.mem_cons_self ..)]; exact ih b fun b y hy => h b y (List.mem_cons_of_mem _ hy)

theorem coreOut_of_die (t : State) (k : Nat) (h : dieOf k ∈ t.mc.out) : t.coreOut k = true := by
  unfold State.coreOut State.coreGone
  rw [List.contains_iff_mem.2 h]
  simp

/-- With every die but the first left out, the choice of cores looks at the quads of the first die only. -/
def firstDieCores (t : State) (l : Launch) (n : Nat) : Option (List Nat) :=
  let room := (t.ctx l.ctx).poolSize - t.poolUsed l.ctx
  ((List.range 8).foldl (fun (best : Option (List (Nat × Nat))) q =>
    match t.quadCores l n q with
    | none => best
    | some ks =>
      if room < t.needOn l n q then best
      else
        match best with
        | none => some ks
        | some b => if betterRanks (ks.map (·.1)) (b.map (·.1)) then some ks else best) none).map fun ks => ks.map (·.2)

theorem chooseCores_first (t : State) (l : Launch) (n : Nat) (hn : 0 < n) (h : ∀ d, 1 ≤ d → d < 64 → d ∈ t.mc.out) :
    t.chooseCores l n = firstDieCores t l n := by
  have hr : List.range numQuads = List.range 8 ++ (List.range 504).map (8 + ·) := List.range_add (n := 8) (m := 504)
  unfold State.chooseCores firstDieCores
  simp only
  rw [hr, List.foldl_append]
  refine congrArg (Option.map _) (foldl_skip _ ((List.range 504).map (8 + ·)) _ ?_)
  intro b q hq
  obtain ⟨a, ha, rfl⟩ := List.mem_map.1 hq
  have ha := List.mem_range.1 ha
  have hk : (rangeFrom (4 * (8 + a)) 4).filter (t.coreFits l) = [] := by
    rw [List.filter_eq_nil_iff]
    intro k hk
    simp only [rangeFrom, List.mem_map, List.mem_range] at hk
    obtain ⟨c, hc, rfl⟩ := hk
    unfold State.coreFits
    rw [coreOut_of_die t _ (h _ (by unfold dieOf; omega) (by unfold dieOf; omega))]
    simp
  have hs : sortN (([] : List Nat).map fun k => t.rankOf k * 4096 + k) = [] := rfl
  have : t.quadCores l n (8 + a) = none := by
    unfold State.quadCores
    rw [hk]; simp only [hs, List.length_nil, hn, if_pos]
  rw [this]

theorem crowded_heldBack (s : State) (h : s = step1 crowded (.yieldGrid (fa .b32 1 0 0))) : s.heldBack 0 0 = true := by
  have hout (t : State) (e : t.mc.out = rangeFrom 1 63) : ∀ d, 1 ≤ d → d < 64 → d ∈ t.mc.out := fun d h1 h2 => by
    rw [e]; simp only [rangeFrom, List.mem_map, List.mem_range]; exact ⟨d - 1, by omega, by omega⟩
  have hspot (t : State) (e : t.mc.out = rangeFrom 1 63) : t.spot launch1 = firstDieCores t launch1 1 := by
    unfold State.spot
    rw [if_neg (by decide), show launch1.kept = 1 by decide]
    exact chooseCores_first t launch1 1 (by decide) (hout t e)
  have h1 : s.launch 1 = launch1 := by rw [h]; decide +kernel
  have h2 : s.wantsCores 1 = true := by rw [h]; decide +kernel
  have h3 : (firstDieCores s launch1 1).isSome = false := by rw [h]; decide +kernel
  have h4 : (firstDieCores (s.without 0) launch1 1).isSome = true := by rw [h]; decide +kernel
  have h5 : s.mc.out = rangeFrom 1 63 := by rw [h]; decide +kernel
  have h6 : (s.without 0).mc.out = rangeFrom 1 63 := h5
  have hg : launch1.group.isEmpty = true := rfl
  have hk : launch1.kept ≠ 0 := by decide
  have hc : launch1.considered = true := rfl
  have hd : launch1.ctx ≠ 0 ∧ 0 ≤ launch1.prio := by decide
  unfold State.heldBack
  rw [List.any_eq_true]
  refine ⟨(1, launch1), by rw [h]; decide +kernel, ?_⟩
  simp only [hc, if_true, h1, h2, hg, hspot s h5, hspot _ h6, h3, h4, hk, hd, ne_eq, not_false_eq_true, decide_true, decide_false,
    Bool.and_self, Bool.or_self, Bool.not_false, Bool.false_or, and_self]

theorem witness_LaunchInstructions :
    (let x := fa .b32 769 768 0
     RunsAt base (.pqst x) { rds := [Rd.ss 1 x.a .n32], dst := some (Dst.sd x.d .b32), k := 0 } ∧ Operand.ofCode x.d = .sca 1) ∧
    (let x := fa .b32 769 768 778
     let u : Use := { rds := [Rd.ss 1 x.a .n32, Rd.pair 2 x.b false], dst := some (Dst.sd x.d .b32), k := 0 }
     let i : Instr := .launch x
     let C := (((prep base i u).orderLoads w0).commit w0 4).getD base
     let o := C.packetImage (siteOf base i) (base.value w0 u [] 2 0)
     RunsAt base i u ∧ ((prep base i u).orderLoads w0).commit w0 4 = some C ∧ o = .ok (outE ([], base) o)) ∧
    IssuesAt base (.yieldGrid (fa .b32 1 0 0)) [] ∧ (base.ctx 0).st = .run ∧ (base.ctx 0).resetting = false ∧
    (step1 base (.yieldGrid (fa .b32 1 0 0))).heldBack 0 0 = false ∧
    IssuesAt crowded (.yieldGrid (fa .b32 1 0 0)) [] ∧ (crowded.ctx 0).st = .run ∧ (crowded.ctx 0).resetting = false ∧
    (step1 crowded (.yieldGrid (fa .b32 1 0 0))).heldBack 0 0 = true :=
  ⟨⟨runs_of (by decide +kernel), by decide⟩, ⟨runs_of (by decide +kernel), some_of _ (by decide +kernel), ok_of ([], base) (by decide +kernel)⟩,
    issues_of (by decide +kernel), by decide +kernel, by decide +kernel, by decide +kernel,
    issues_of (by decide +kernel), by decide +kernel, by decide +kernel, crowded_heldBack _ rfl⟩

def page0 : Page := { entry := 0x1D, members := [], names := [] }
def ctx0 : Ctx := { Ctx.reset with st := .run, pages := [(0, page0)] }
def withCtx (f : Ctx → Ctx) : State := { base with ctxs := [(0, f ctx0)] }
/-- Nothing has been selected; the cycle count is high enough for a member to be aged. -/
def idle0 : State := { base with cores := [], cycle := 5000 }
def tabled : State := { base with cores := [(0, { Core.reset with table := [group0] })], cycle := 5000 }
def asleep : State := { withWave fun w => { w with threads := [(0, { Thread.placed 0 0 with wait := .sleep 7 })] } with cycle := 9 }

theorem witness_SequencerEvents :
    (let S := (List.range 0).foldl (fun q j => q.fillSlot 0 j) (((idle0.admitBars (idle0.core 0).bqueue).gatherTable 0).markAged 0)
     (S.slot 0 0).run = none ∧ ∃ e, e ∈ (S.core 0).table ∧ e.members.any S.isReady = true) ∧
    (let S := (List.range 1).foldl (fun q j => q.fillSlot 0 j) (((base.admitBars (base.core 0).bqueue).gatherTable 0).markAged 0)
     (S.slot 0 1).run = none ∧ (S.slot 0 0).run = some run0) ∧
    ((tabled.core 0).table[0]? = some group0 ∧ tabled.isAged group0 = true) ∧
    ((base.slot 0 0).run = some run0 ∧ base.badTarget run0.group.pc = none ∧
      okE (base.translate 0 0 0 .fetch) = true ∧ base.cachedBlock 0 0 0 = none) ∧
    ((asleep.thread (w0.thread 0)).wait = .sleep 7 ∧ 7 ≤ asleep.cycle ∧ asleep.issues 0 = true ∧
      (asleep.thread (w0.thread 0)).live = true) :=
  ⟨⟨by decide +kernel, (((((idle0.admitBars (idle0.core 0).bqueue).gatherTable 0).markAged 0).core 0).table.headD group0),
      by decide +kernel, by decide +kernel⟩,
    by decide +kernel, by decide +kernel, by decide +kernel, by decide +kernel⟩

/-- A load of v2 by both lanes: one lane has its value, the other has still to read. -/
def prod0 : Producer :=
  { kind := .load, wid := w0, issuers := [0, 1], ctx := 0, dest := 2, n := 1, ty := .b32, lanes := [(0, .known 7), (1, .read [⟨.glob, 64⟩, ⟨.glob, 65⟩, ⟨.glob, 66⟩, ⟨.glob, 67⟩] false)]
    elems := [], hint := 0, flags := 0, sent := 0 }
def loading : State := { (withWave fun w => { w with vregs := [(2, { reg0 0 0 with st := .empty })] }) with producers := [(3, prod0)] }
def reloading : State := withWave fun w => { w with vregs := [(2, { reg0 4 5 with st := .empty, reload := some 0 })] }
def commitOp (abort : Bool) (awaits : List Nat) : CommitOp :=
  { wid := w0, lanes := [0, 1], abort := abort, level := 5, awaits := awaits, sent := 0, held := false }
/-- A commit or an abort that awaits the acknowledgements of some of the block's remote writes. -/
def committing (s : State) (abort : Bool) (awaits : List Nat) : State := { s with commits := [(4, commitOp abort awaits)] }

theorem witness_ResultEvents :
    (mfind loading.producers 3 = some prod0 ∧ (mfind loading.blocks 0).isSome = true ∧ (loading.ctx 0).st = .run ∧
      loading.discards 0 = false ∧ (∀ k < numSlots, (loading.slot 0 k).pend = none) ∧
      ∃ vals, knownLanes ((prod0.lanes.foldl (fun q x => q.settleFor w0 x.1 3 x.2.unread) loading).settleLanes w0 0
        (fun _ => true) prod0.lanes).1 = some vals ∧ (vals.map (·.1)).Nodup) ∧
    (let s := withCtx fun c => { c with st := .fault }
     s.discards 0 = true) ∧
    (∃ r, (reloading.wave w0).vreg 2 = some r ∧ r.reload ≠ none ∧ r.live ≠ 0) ∧
    (∀ a ∈ [false, true], ∀ ws ∈ [[], [7]],
      mfind (committing base a ws).commits 4 = some (commitOp a ws) ∧ (committing base a ws).acked 0 ws = true) ∧
    (∀ a ∈ [false, true], mfind (committing unacked a [7]).commits 4 = some (commitOp a [7]) ∧
      (committing unacked a [0]).acked 0 [0] = false) := by
  refine ⟨⟨?_, ?_, ?_, ?_, ?_, [(0, 7), (1, 0)], ?_⟩, ?_, ⟨_, some_of VReg.zero ?_, ?_⟩, ?_, ?_⟩ <;> decide +kernel

def full512 : List (Nat × Option WaveId) := (List.range 512).map fun i => (i, none)
def filtered : State := { base with filters := [(filterKey 2 5, [{ seq := 4, opened := 0, changes := full512 }])] }
def credit0 : Credit := { obj := obj0, n := 64, op := 9, refused := false }
def credited0 (b : Bar) : State :=
  { base with
    credits := [(6, credit0)]
    copies := [(9, { wid := w0, issuers := [0, 1], core := 0, token := 20, level := 1, kind := .bytes 0 0 4 [], bar := some obj0, batch := none, landed := []
                     bad := [], code := 0, flags := 0, heard := 0, complete := false })] }.setBar obj0 b
def arrival0 : Arrival := { wid := w0, lanes := [0, 1], obj := obj0, ga := 0x8000000000000040, awaits := [], pc := 0, len := 8 }
/-- Both threads in BWAIT on the object for phase 3, one with a deadline; the notice of phase 4 is on its way. -/
def waiting : State :=
  { withWave fun w => { w with threads :=
      [(0, { Thread.placed 0 0 with wait := .bwait obj0 3 1 none 0 }), (1, { Thread.placed 0 0 with wait := .bwait obj0 3 1 (some 5) 0 })] } with
    cores := [(0, { Core.reset with bfile := [{ obj := obj0, ctx := 0, phase := 3, waiters := [w0.thread 0, w0.thread 1] }] })]
    notices := [(2, { core := 0, obj := obj0, phase := 4 })], cycle := 9 }.setBar obj0 bar0
/-- Its only thread waits for ever. -/
def stuck0 (v : BitVec 64) : State :=
  { withWave fun w => { w with trapvec := v, threads := [(0, { Thread.placed 0 0 with wait := .bwait obj0 3 1 none 0 })] } with
    cores := [] }.setBar obj0 bar0
/-- Its cluster is stuck, its block the only one, its thread live and not in the handler at `v`. -/
def stuckB (s : State) (v : BitVec 64) : Bool :=
  let bs := (s.blocks.filter fun b => b.2.resident && decide (b.2.cluster = 0)).map (·.1)
  s.stuck bs && decide (bs = [0]) && decide ((s.ctx 0).st = .run) && !(s.ctx 0).resetting && decide (((s.blk 0).waves.map (·.1)) = [0]) &&
    !(s.wave w0).liveLanes.isEmpty && !(s.wave w0).intrap && (s.wave w0).handlerLanes.isEmpty && decide ((s.wave w0).trapvec = v)
def banked : State :=
  { base with blocks := [(0, { block0 with banks := [(1, { bytes := [], loading := some { thread := w0.thread 0, image := [(0, 7)], id := 3, sent := 0 } })] })] }

theorem witness_BarrierEvents :
    (filtered.windows 2 5 = [{ seq := 4, opened := 0, changes := full512 }] ∧ Config.windowChanges ≤ full512.length) ∧
    (∀ v ∈ [true, false], let s := credited0 { bar0 with valid := v }
      mfind s.credits 6 = some credit0 ∧ s.frozen obj0.sp = false ∧ (s.bar obj0).valid = v ∧ (mfind s.copies 9).isSome = true) ∧
    (let s := { base with arrivals := [(6, arrival0)] }.setBar obj0 bar0
     mfind s.arrivals 6 = some arrival0 ∧ s.acked 0 [] = true ∧ (s.bar obj0).valid = true ∧ (s.bar obj0).pend ≠ 0 ∧ (s.blk 0).drops.length < dropMax) ∧
    (mfind waiting.notices 2 = some { core := 0, obj := obj0, phase := 4 } ∧ phasePassed 4 3 = true ∧
      ∀ q ∈ waiting.notices, q.1 < 2 → q.2.follows { core := 0, obj := obj0, phase := 4 } = false) ∧
    ((waiting.thread (w0.thread 1)).wait = .bwait obj0 3 1 (some 5) 0 ∧ waiting.issues 0 = true ∧
      phasePassed (waiting.bar obj0).phase 3 = false) ∧
    (stuckB (stuck0 0) 0 = true ∧ stuckB (stuck0 0x1000) 0x1000 = true) ∧
    ((mget Bank.zero (banked.blk 0).banks 1).loading ≠ none ∧ (banked.ctx 0).st ≠ .idle ∧ (banked.ctx 0).resetting = false) := by
  refine ⟨?_, ?_, ?_, ?_, ?_, ?_⟩ <;> decide +kernel

/-- A map of page 1, an unmap of page 0, of a page that is not mapped, and of one that an aperture names. -/
def mapping : State := withCtx fun c => { c with ptbusy := true, ptop := 1, ptva := 0x10000, ptent := 0x1001D }
def unmaps (va : BitVec 64) (names : List Nat) : State :=
  withCtx fun c => { c with ptbusy := true, ptop := 2, ptva := va, pages := [(0, page0), (9, { page0 with names := names })] }
def removed : State := withCtx fun c => { c with ptbusy := true, ptop := 2, unmapping := some page0 }
def fault0 (written : Bool) : PageFault :=
  { tag := 3, page := 1, record := [1, 2], written := written, waiters := [.threads w0 [0, 1] 0x09000123 0x10040 16] }
def held : State := withCtx fun c => { c with faults := [fault0 false] }
def faulted : State :=
  { base with
    ctxs := [(0, { ctx0 with faults := [fault0 true] })]
    mc := { base.mc with state := 2 }
    blocks := [(0, { block0 with waves := [(0, { wave0 with threads := wave0.threads.map fun p => (p.1, { p.2 with wait := .fault 3 }) })] })] }

theorem witness_FaultServiceEvents :
    ((mapping.ctx 0).ptbusy = true ∧ (mapping.ctx 0).ptop = 1) ∧
    (((unmaps 0x20000 []).ctx 0).ptop = 2 ∧ ((unmaps 0x20000 []).ctx 0).unmapping = none ∧
      ((unmaps 0x20000 []).ctx 0).pageOf (((unmaps 0x20000 []).ctx 0).ptPage * 65536) = none) ∧
    (∀ ns ∈ [[], [0]], ((unmaps 0 ns).ctx 0).pageOf (((unmaps 0 ns).ctx 0).ptPage * 65536) = some (0, page0)) ∧
    ((removed.ctx 0).unmapping = some page0 ∧ removed.producers = []) ∧
    ((held.ctx 0).faults.find? (fun g => !g.written) = some (fault0 false) ∧ (held.ctx 0).pfRoom = true) ∧
    (faulted.deaf = false ∧ (faulted.ctx 0).faults.find? (fun g => g.tag == 3 && g.written) = some (fault0 true) ∧
      faulted.stillWait w0 [0, 1] 3 ≠ [] ∧ CanTrap faulted w0 (faulted.stillWait w0 [0, 1] 3)) := by
  have e : faulted.stillWait w0 [0, 1] 3 = [0, 1] := by decide +kernel
  rw [e]
  exact ⟨by decide, by decide +kernel, by decide +kernel, by decide +kernel, by decide +kernel, by decide +kernel, rfl, by decide,
    canTrap_of (by decide +kernel)⟩

def places0 : List (Nat × Place) :=
  [(0x3F00000000000000, { loc := { sp := .glob, addr := 0 }, entry := 0x1D })]
def copy0 (batch : Option Nat) (landed bad : List Nat) : Copy :=
  { wid := w0, issuers := [0, 1], core := 0, token := 20, level := 1, kind := .bytes 0x3F00000000000100 0x3F00000000000200 8 places0, bar := none
    batch := batch, landed := landed, bad := bad, code := 0, flags := 0, heard := 0, complete := false }
def copying (c : Copy) : State := { base with copies := [(9, c)] }
def batched : State :=
  { base with copies := [(9, { copy0 (some 4) [0, 1] [] with complete := true })], batches := [(4, { wid := w0, members := [9], sealed := true })] }
def tile0 : Tile := { tr := rec0, rows := 1, x := 0, y := 0, z := 0, map := places0 }
def mxOps : List MxOp :=
  [.zero 5, .loadV 1 [(0, 7), (1, 9)], .mma .f16 0 32 true tile0 tile0, .load 0 0 tile0 none, .store 0 0 tile0 4 20 none]
def mxReq (o : MxOp) : MxReq := { wid := w0, issuers := [0, 1], heard := 0, op := o }
def queued (o : MxOp) : State :=
  { base with cores := [(0, { Core.reset with mx := { Matrix.free with holder := some 0, queue := [mxReq o] } })] }
def freeing : State :=
  { base with cores := [(0, { Core.reset with mx := { Matrix.free with holder := some 0, releasing := true } })] }
def mst0 : Mst := { core := 0, wid := w0, issuers := [0, 1], token := 20, code := 0, flags := 1, sent := 0 }

theorem witness_CopyAndMatrixEvents :
    (let s := copying (copy0 none [0] [])
     mfind s.copies 9 = some (copy0 none [0] []) ∧ 1 < (copy0 none [0] []).kind.pieces ∧ 1 ∉ (copy0 none [0] []).landed) ∧
    (copying (copy0 none [] [])).sectorsFresh (copy0 none [] []) 1 = true ∧
    (∀ b ∈ [none, some 4], let c := copy0 b [0, 1] []
     mfind (copying c).copies 9 = some c ∧ c.complete = false ∧ (copying c).copyDone 9 c = true ∧ (copying c).discards 0 = false) ∧
    (mfind batched.batches 4 = some { wid := w0, members := [9], sealed := true } ∧
      ∀ c, mfind batched.copies 9 = some c → c.complete = true) ∧
    (∀ o ∈ mxOps, ((queued o).mx 0).queue = [mxReq o]) ∧
    (let s := { base with msts := [(7, mst0)] }
     mfind s.msts 7 = some mst0 ∧ s.credited 7 = true ∧ s.discards 0 = false) ∧
    ((freeing.mx 0).releasing = true ∧ freeing.mxUsed 0 = 0) :=
  ⟨by decide +kernel, by decide +kernel, by decide +kernel,
    ⟨by decide +kernel, fun c hc => by
      have : some { copy0 (some 4) [0, 1] [] with complete := true } = some c := hc
      rw [← Option.some.inj this]⟩,
    by decide +kernel, by decide +kernel, by decide +kernel⟩

def msReq0 : MsReq :=
  { wid := w0, group := 3, lane := 1, place := { loc := { sp := .glob, addr := 0x100 }, entry := 0x1D }, ty := .n32, op := 0, b := 5, c := 0
    dest := some 2, sent := 0 }
def mside0 : Producer := { prod0 with kind := .mside, lanes := [(0, .known 7), (1, .pending)] }
def asking : State := { base with msReqs := [(5, msReq0)], producers := [(3, mside0)] }
def elem0 : RingElem := { ring := ring0, index := 3, value := some 7 }
def ringWait0 : RingWait := { ring := ring0, push := true, wid := w0, lanes := [0, 1], queue := 1, id := 8, notice := true }
def noticed : State :=
  { (withWave fun w => { w with threads := w.threads.map fun p => (p.1, { p.2 with wait := .onPush 1 }) }) with ringWaits := [ringWait0] }
def shards (a : Nat) : ShardMap := { axis := 0, members := [{ base := a, str1 := 16, str2 := 16, ext := 4 }] }
def fperm0 (src dst : Nat) (landed : List Nat) (perm : Option (Nat × Bool)) : Fperm :=
  { wid := w0, issuers := [0, 1], core := 0, token := 20, level := 4, es := 4, ext0 := 4, ext1 := 1, ext2 := 1, src := shards src, dst := shards dst
    map := places0, got := [], landed := landed, heard := [], bar := none, code := 0, sent := 0, ticket := 0, perm := perm }
def moving (f : Fperm) : State := { base with fperms := [(6, f)] }
def okF (dst : Nat) : Fperm := fperm0 0x3F00000000000100 dst [0] none
def parked0 (n : Bool) : Parked := { ctx := 0, die := 0, req := .piece 6 1, since := 0, notice := n }
def parkedAt (n : Bool) : State := { moving (okF 0x3F00000000000200) with parked := [(8, parked0 n)], ns := 5000 }

theorem witness_FabricEvents :
    (mfind asking.msReqs 5 = some msReq0 ∧ asking.msBlocked 5 msReq0 = false ∧ mfind asking.producers 3 = some mside0 ∧
      mside0.wid = msReq0.wid ∧ mside0.dest = 2) ∧
    (let s := { ringBase with ringElems := [(4, elem0)] }
     mfind s.ringElems 4 = some elem0) ∧
    (noticed.ringWaits.find? (fun y => y.id == 8 && y.notice) = some ringWait0) ∧
    (let f := okF 0x3F00000000000200
     let s := moving f
     let r := s.pieceTarget f 1
     mfind s.fperms 6 = some f ∧ 1 < f.pieces ∧ 1 ∉ f.landed ∧ s.isParked (.piece 6 1) = false ∧
       ∃ p, r = .ok p ∧ ∃ S, s.raceCheck w0 p 4 (f.addr f.dst 1) = .ok S) ∧
    (let f := okF 0x3F00000000020000
     let s := moving f
     (∃ e, s.pieceTarget f 1 = .error e) ∧ (s.ctx 0).pfEn = false) ∧
    (∀ p ∈ [none, some (16, true)], let f := fperm0 0 0 [0, 1, 2, 3] p
     mfind (moving f).fperms 6 = some f ∧ f.landed.length = f.pieces ∧ (moving f).credited 6 = true ∧ (moving f).discards 0 = false ∧
       mget [] (moving f).permSends 6 = [] ∧ (moving f).remotes = []) ∧
    (∀ n ∈ [false, true], mfind (parkedAt n).parked 8 = some (parked0 n) ∧ (parkedAt n).ns ≥ (parked0 n).since + noticeGap ∧
      mfind (parkedAt n).fperms 6 = some (okF 0x3F00000000000200)) ∧
    (let s := { moving (okF 0) with ns := 2 ^ 60 }
     s.timedOut 6 = some 0 ∧ (s.ctx 0).st ≠ .idle ∧ (s.ctx 0).resetting = false) :=
  ⟨by decide +kernel, by decide +kernel, by decide +kernel,
    ⟨by decide +kernel, by decide +kernel, by decide +kernel, by decide +kernel, { loc := { sp := .glob, addr := 0x204 }, entry := 0x1D },
      is_of (by decide +kernel), moving (okF 0x3F00000000000200), rfl⟩,
    ⟨⟨{ cause := .page, sub := 0, addr := 0x3F00000000020004 }, rfl⟩, by decide +kernel⟩,
    by decide +kernel, by decide +kernel, by decide +kernel⟩

/-- The calendar runs with one slot of 10 microseconds, in which port 2 is joined to package 5. -/
def cal0 : Calendar :=
  { Calendar.reset with locked := true, cfg := 0x180A0101, stg := 0x180A0100, active := [(2, 5)], staged := [(2, 5)], slot := 1 }
def pe0 : PortEngine := { PortEngine.reset with pevqAct := true, pevqBase := 0x100000, ports := [(2, { Port.reset with peer := some 5 })] }
def onPort (p : Port → Port) : State :=
  { base with cal := cal0, pe := { pe0 with ports := [(2, p { Port.reset with peer := some 5 })] }, podTime := 5000, pkgid := some 1
              mc := { base.mc with state := 1 } }
/-- Its calendar in another state; with the fields of an ALMNEXT write. -/
def onCal (f : Calendar → Calendar) : State := { onPort id with cal := f cal0 }
def almWritten (s : State) (v : BitVec 64) : State :=
  { s with cal := { s.cal with next := BitVec.ofNat 48 v.toNat, err := s.cal.err && !v.getLsbD 62 } }
/-- A staged calendar that waits for its epoch, or whose epoch has passed. -/
def epochAt (t : BitVec 64) : State := onCal fun c => { c with cfg := 0x180A0100, epoch := t }

theorem witness_CalendarEvents :
    (base.mc.podout = false ∧ base.cal.locked = false ∧ base.pkgid = none) ∧
    (let s := onCal fun c => { c with locked := false }
     s.mc.podout = false ∧ s.cal.locked = false ∧ s.pkgid = some 1 ∧ podGap s.podTime.toNat 5003 ≤ 4) ∧
    (onPort id).cal.locked = true ∧
    ((epochAt 9000).deaf = false ∧ (almWritten (epochAt 9000) 0x8000000000000000).stagedOk = true ∧
      (epochAt 9000).podTime.toNat ≤ (epochAt 9000).cal.epoch.toNat) ∧
    ((almWritten (epochAt 3000) 0x8000000000000000).stagedOk = true ∧ (epochAt 3000).cal.running = false ∧
      (epochAt 3000).cal.epoch.toNat < (epochAt 3000).podTime.toNat) ∧
    (base.deaf = false ∧ (almWritten base 0x8000000000000000).stagedOk = false) ∧
    (let s := onCal fun c => { c with go := true }
     s.cal.running = true ∧ s.cal.next.toNat ≤ s.cycleNow) ∧
    (let s := onCal fun c => { c with slot := 0 }
     s.cal.running = true ∧ s.cal.base ≤ s.podTime.toNat ∧ s.cal.slot ≤ s.slotIndex ∧ s.cal.entry s.slotNow 2 = (0, 5)) ∧
    (let s := onCal fun c => { c with slot := 0, active := [(2, 0x40)] }
     s.cal.slot ≤ s.slotIndex ∧ (s.cal.entry s.slotNow 2).1 = 1 ∧ s.cal.locked = true ∧ (2, 5) ∈ [(2, 5)]) ∧
    (let v : BitVec 64 := 0x100000011
     17 ≤ bits v 4 0 ∧ bits v 4 0 ≤ 24 ∧ bits v 40 12 * 4096 + 320 * 2 ^ bits v 4 0 < Config.memTop ∧
       base.inExcluded (bits v 40 12 * 4096) (320 * 2 ^ bits v 4 0) = false ∧
       inMetadata (bits v 40 12 * 4096) (320 * 2 ^ bits v 4 0) = false ∧ base.cal.running = false) ∧
    ((onPort id).port 2).peer = some 5 ∧ (onPort id).mayOpen 2 = true ∧
    (let s := { onPort (fun p => { p with opened := true }) with cal := { cal0 with slot := 0 } }
     (s.port 2).opened = true ∧ s.cal.slot ≤ s.slotIndex ∧
       ∀ q ∈ List.range numPorts, q ≠ 2 → (s.port q).peer = some 5 → (s.port q).opened = false) := by
  decide +kernel

def opened2 : State := onPort fun p => { p with opened := true }
def streaming (x : Stream) : State := { opened2 with pe := { opened2.pe with streams := [(5, x)] } }
/-- The transmit map to package 5 is empty. -/
def unlit : State := onPort fun p => { p with opened := true, txmap := [(5, 0)] }
def head0 (op : RemOp) : PieceHead := { op := op, src := 5, dst := 1, cls := 2, tag := 9, id := 7, ofs := 0 }
def entry0 : VEntry :=
  { head := { head0 (.write 0x4500000000000100 8 none) with src := 1, dst := 5 }, ctx := 0, any := false, data := [1, 2, 3, 4, 5, 6, 7, 8]
    started := false, since := (0, 0), space := 40, sender := 1 }
def queued2 : State := { opened2 with pe := { opened2.pe with virt := [(queueKey 5 2, [entry0])] } }
def arrived (op : RemOp) (data : List Byte) : InEntry :=
  { seg := { head := head0 op, data := data, start := true }, direct := true, ctx := none }
/-- An entry of package 5 stands in the inbox; context 0 is linked when `link` says so. -/
def arriving (link : Bool) : State :=
  { onPort id with
    ctxs := [(0, { ctx0 with pectx := if link then 0x10009 else 0 })]
    pe := { pe0 with inbox := [(6, arrived (.write 0x100 8 none) [1, 2, 3, 4, 5, 6, 7, 8])] } }
def remote0 : Remote :=
  { ctx := 0, blk := 0, wid := w0, write := true, peer := 5, dest := none, perm := none, ticket := 0, heard := (0, 0) }
def awaiting : State :=
  { base with remotes := [(7, remote0)], cal := { base.cal with locked := true }, pe := { base.pe with rotations := 50 } }
/-- Its wave waits for the acknowledgement in a release at pod scope. -/
def releasing : State :=
  { (withWave fun w => { w with threads := w.threads.map fun p => (p.1, { p.2 with wait := .onPod }) }) with remotes := [(7, remote0)] }
/-- Flits as package 5 sends them: a stream flit that comes next, an idle flit; and one that no lane has carried. -/
def flit0 (kind : Nat) : List Byte := flitBytes ((onPort id).flitHead 0 kind 1 [])
def noFlit : List Byte := List.replicate 256 0

/-- The first nanoseconds after the vigil, before it is known whether the port's lanes have locked. -/
def early2 : State :=
  { (onPort fun p => { p with opened := true, early := some [] }) with podTime := 28 }

/-- A flit from package 5 decodes to one of that kind, the next in order. -/
def decodesTo (k : Nat) (raw : List Byte) : Bool :=
  match ((opened2.port 2).decode 5 raw []).1 with
  | some f => decide ((nth 0 f 4).toNat = k) && decide (BitVec.ofNat 32 (ofBytes (f.take 4)) = (opened2.stream 5).rxNext)
  | none => false
theorem decodes_stream : decodesTo 1 (flit0 1) = true := by decide +kernel
theorem decodes_idle : decodesTo 3 (flit0 3) = true := by decide +kernel

theorem witness_RemoteEvents :
    (∀ x ∈ [{ Stream.reset with ctl := [.waiting 4] }, { Stream.reset with again := [3], sent := [{ seq := 3, body := [1], age := 1 }] }],
      ((streaming x).port 2).peer = some 5 ∧ (streaming x).maySend 2 5 = true ∧ (streaming x).feedAll = streaming x ∧
        (streaming x).stream 5 = x ∧ ((streaming x).port 2).tx 5 ≠ 0 ∧ (streaming x).settlePort 2 5 = streaming x) ∧
    (opened2.maySend 2 5 = true ∧ opened2.feedAll.ctlNext 2 5 = false ∧ (opened2.feedAll.stream 5).again = [] ∧
      (Fill.run 2 5 0 32 { room := 224, segs := [], st := opened2.feedAll }).room = 224) ∧
    (unlit.maySend 2 5 = true ∧ unlit.feedAll.ctlNext 2 5 = false ∧ (unlit.feedAll.port 2).tx 5 = 0) ∧
    (queued2.maySend 2 5 = true ∧ queued2.ctlNext 2 5 = false ∧ (queued2.stream 5).again = [] ∧
      (Fill.run 2 5 0 32 { room := 224, segs := [], st := queued2.feedAll }).room ≠ 224) ∧
    ((opened2.port 2).opened = true ∧ (opened2.port 2).dark = false ∧ opened2.cal.locked = true ∧
      (opened2.port 2).rx 5 ≠ 0 ∧ opened2.lockIsKnown = true ∧ (opened2.port 2).early = none ∧
      ∀ raw ∈ [noFlit, flit0 1, flit0 3], raw.length = 256) ∧
    ((opened2.port 2).decode 5 noFlit [0, 1, 2]).1 = none ∧
    ((early2.port 2).opened = true ∧ (early2.port 2).dark = false ∧ early2.cal.locked = true ∧ (early2.port 2).rx 5 ≠ 0 ∧
      early2.lockIsKnown = false ∧ (early2.port 2).early = some [] ∧ (early2.port 2).decode 5 = (opened2.port 2).decode 5) ∧
    (decodesTo 1 (flit0 1) = true ∧ decodesTo 3 (flit0 3) = true ∧ (opened2.stream 5).rxHeld = []) ∧
    (let t : TransitIn := { sender := 5, seg := { head := head0 (.arrive 0x40), data := [], start := true } }
     let s := { base with pe := { base.pe with transitIn := [(3, t)] } }
     mfind s.pe.transitIn 3 = some t) ∧
    (∀ b ∈ [false, true], let s := arriving b
     mfind s.pe.inbox 6 = some (arrived (.write 0x100 8 none) [1, 2, 3, 4, 5, 6, 7, 8]) ∧ s.inBlocked 6 (arrived (.write 0x100 8 none) []) = false ∧
       s.isParked (.remote 6) = false ∧
       s.linkedCtx (arrived (.write 0x100 8 none) [1, 2, 3, 4, 5, 6, 7, 8]) = if b then some 0 else none) ∧
    (∃ m, (arriving true).remotePlaces 0 0x100 8 .ewrite = .ok m ∧
      ∃ S, (arriving true).remoteWrite 0 5 m 0x100 [1, 2, 3, 4, 5, 6, 7, 8] = some S) ∧
    (mfind releasing.remotes 7 = some remote0 ∧ (releasing.thread (w0.thread 0)).wait = .onPod ∧
      ({ releasing with remotes := mdel releasing.remotes 7 }).relDone (w0.thread 0) = true) ∧
    (mfind awaiting.remotes 7 = some remote0 ∧ (awaiting.ctx 0).st = .run ∧ awaiting.cal.locked = true ∧
      (awaiting.ctx 0).resetting = false ∧ awaiting.petmo ≤ wholeTurns remote0.heard awaiting.lockedTurns) := by
  refine ⟨?_, ?_, ?_, ?_, ?_, ?_, ⟨by decide +kernel, by decide +kernel, by decide +kernel, by decide +kernel, by decide +kernel,
    by decide +kernel, rfl⟩, ⟨decodes_stream, decodes_idle, rfl⟩, ?_, ?_,
    ⟨_, ok_of [] (by decide +kernel), _, some_of base (by decide +kernel)⟩, ?_⟩ <;> decide +kernel

/-- The circuit from port 2 to package 5, with a map and a lane of low margin. -/
def circuit (rx tx low : BitVec 16) : State :=
  onPort fun p => { p with rxmap := [(5, rx)], txmap := [(5, tx)], low := [(5, low)], proposed := [(5, 0x00FF)] }

theorem witness_LaneEvents :
    ((circuit 0 0 0).onCircuit 2 3 5 = true ∧ (circuit 0xFFFF 0xFFFF 8).onCircuit 2 3 5 = true) ∧
    ((circuit 0xFFFF 0xFFFF 8).pe.margin = 0x20 ∧ (circuit 0xFFFF 0xFFFF 8).pe.insvc = true ∧
      (mget 0 ((circuit 0xFFFF 0xFFFF 8).port 2).low 5).getLsbD 3 = true ∧
      (((circuit 0xFFFF 0xFFFF 8).port 2).rx 5).getLsbD 3 = true ∧
      (mget 0 ((circuit 0xFFFF 0xFFFF 8).port 2).stale 5).getLsbD 3 = false ∧ (circuit 0xFFFF 0xFFFF 8).lockIsKnown = true) ∧
    (∀ f ∈ [fun p : Port => { p with early := some [] }, fun p => { p with dark := true }], let s := onPort f
     s.onCircuit 2 3 5 = true ∧ ((s.port 2).rx 5).getLsbD 3 = true ∧ (mget 0 (s.port 2).stale 5).getLsbD 3 = false ∧
       s.lockIsKnown = true ∧ ((s.port 2).dark = true ∨ (s.port 2).early ≠ none)) ∧
    (let s := { circuit 0 0 0 with podTime := 28 }
     (s.port 2).rx 5 = 0 ∧ (s.port 2).tx 5 = 0 ∧ ((s.port 2).good 5).getLsbD 3 = true ∧ s.lockMayBeLate = true ∧
       s.onCircuit 2 3 5 = true) ∧
    mfind ((circuit 0 0 0).port 2).proposed 5 = some 0x00FF := by
  decide +kernel

/-- Records of 4 elements of 4 bytes and of 2, at address 0x1000 of this package and at 0x100 of package 5. -/
def small (base fmt : Nat) : BitVec 256 := BitVec.ofNat 256 (base * 2 ^ 192 + 2 ^ 72 + 2 ^ 40 + 4 * 2 ^ 16 + fmt)
def recH (fmt : Nat) : BitVec 256 := small 0x3F00000000001000 fmt
/-- Package 5 can be reached, the block holds the matrix engine, CV 1 has two members, and shard maps of one member stand at
0x400, with its base in this package, and at 0x440, with its base in package 5. -/
def wired : State :=
  { onPort id with
    ctxs := [(0, { ctx0 with pectx := 0x10009 })]
    blocks := [(0, { block0 with cvs := [(1, { members := 2, count := 0 })] })]
    mem := [⟨0x400, 1⟩, ⟨0x42C, 4⟩, ⟨0x439, 8⟩, ⟨0x43F, 0x3F⟩, ⟨0x440, 1⟩, ⟨0x46C, 4⟩, ⟨0x479, 8⟩, ⟨0x47F, 0x45⟩]
    cores := [(0, { Core.reset with
      mx := { Matrix.free with holder := some 0 }
      slots := [(0, { Slot.reset with run := some run0 })] })] }
/-- A request with these operands and records, as it stands before its engine. -/
def reqOf (ops : List Nat) (recs : List (BitVec 256)) : PendWave := { request0 with ops := [(0, ops), (1, ops)], trs := recs }
def acceptedBy (i : Instr) (ops : List Nat) (recs : List (BitVec 256)) : Bool :=
  let p := reqOf ops recs
  doneA (i.accept (wired.pendIss 0 0 run0 i [0, 1] p) p wired)

theorem witness_RequestsTaken_accepted :
    let l := 0x3F00000000000000
    let q := 0x4500000000000000
    acceptedBy (.cpy (fm .b32 784 778 780 0 0 1 8)) [l + 0x200, l + 0x100] [] = true ∧
    acceptedBy (.cpyt (fm .b32 784 768 0 0 0 1)) [0] [recH 3, recH 3] = true ∧
    acceptedBy (.mzero (fa .b32 0 1 0)) [] [] = true ∧
    (acceptedBy (.mma (fm .f16 0 768 770 0 0 0 32)) [0, 0] [recH 11, recH 11] = true ∧
      acceptedBy (.mma (fm .f16 1 768 770 0 8 0 32)) [0, 0] [recH 11, recH 11] = true) ∧
    (acceptedBy (.mld (fm .f32 0 768 0 0)) [0] [recH 10] = true ∧ acceptedBy (.mldV (fm .f32 0 0 768 0 4)) [7, 0] [] = true ∧
      acceptedBy (.mst (fm .f32 784 768 0 0 0 1)) [0] [recH 10] = true) ∧
    (acceptedBy (.pwr (fm .b32 0 778 780 0 0 0 64)) [q + 0x100, l + 0x100] [] = true ∧
      acceptedBy (.psigArv (fm .b32 0 778 0 0)) [q + 0x100] [] = true ∧
      acceptedBy (.psigAdd (fm .n64 0 778 780 0 32)) [q + 0x100, 5] [] = true) ∧
    (acceptedBy (.prd (fm .b32 2 0 0 0)) [1] [small (q + 0x100) 3] = true ∧
      acceptedBy (.patom (fm .n32 2 0 1 0)) [1, 7] [small (q + 0x100) 7] = true) ∧
    (acceptedBy (.fperm (fm .b32 784 778 780 0 0 1)) [l + 0x400, l + 0x400] [recH 3] = true ∧
      acceptedBy (.pperm (fm .b32 784 778 780 0)) [l + 0x400, l + 0x440] [recH 3] = true) ∧
    (wired.targetsOf (q + 0x100) none = .ok (some 5) ∧ wired.remoteTarget (q + 0x100) = .ok (some 5) ∧
      okE (wired.shardMap (w0.thread 0) (l + 0x400) (recH 3)) = true) ∧
    (let x := fm .b32 2 0 0 0
     let p := reqOf [1] [small (q + 0x100) 3]
     let y := wired.pendIss 0 0 run0 (.prd x) [0, 1] p
     ∃ rows s2, wired.openRecord y 0 (small (q + 0x100) 3) .b32 .load = .ok rows s2 ∧
       okE (remoteLanes (small (q + 0x100) 3) rows 4 1 (fun m => ((p.val 1 m : Nat) : Int)) [0, 1]) = true) := by
  refine ⟨?_, ?_, ?_, ?_, ?_, ?_, ?_, ?_, ⟨?_, ?_, ?_⟩, _, _, okR_of ?_, ?_⟩
  case refine_9 => exact is_of (by decide +kernel)
  case refine_10 => exact is_of (by decide +kernel)
  all_goals decide +kernel

def queue0 : Queue := { Queue.reset with wqctl := 0x40001, wqwr := 1 }
def withQueue (q : Queue) : State := { base with queues := [(0, q)] }
/-- A ready launch, the only one that wants cores; one die is in service. -/
def launch2 (count : Nat) : Launch :=
  { Launch.ofDesc 0 0 (BitVec.ofNat 512 (count * 2 ^ 160 + 1)) openDesc with st := .ready, considered := true }
def offering (pool : BitVec 64) (l : Launch) : State :=
  { base with
    ctxs := [(0, { ctx0 with ctxpool := 0x100000000, ctxpoolsz := pool })]
    mc := { base.mc with out := rangeFrom 1 63, faulty := rangeFrom 1 30 }
    launches := (2, l) :: base.launches }

theorem spot_first (t : State) (h : t.mc.out = rangeFrom 1 63) : t.spot (launch2 0) = firstDieCores t (launch2 0) 1 := by
  unfold State.spot
  rw [if_neg (by decide), show (launch2 0).kept = 1 by decide]
  exact chooseCores_first t (launch2 0) 1 (by decide) fun d h1 h2 => by
    rw [h]; simp only [rangeFrom, List.mem_map, List.mem_range]; exact ⟨d - 1, by omega, by omega⟩

def late0 : State :=
  { base with
    ns := 200000
    ctxs := [(0, { ctx0 with preemptok := true }), (1, Ctx.reset)]
    launches := (2, { launch2 0 with ctx := 1, prio := 3, since := some 5 }) :: base.launches }
def finished (chained : List Nat) (st : LaunchState) : State :=
  { base with
    blocks := [(0, { block0 with exited := true, chained := chained })], cores := []
    launches := [(0, { Launch.ofDesc 0 0 0 openDesc with st := st })] }

theorem witness_DispatchEvents :
    (base.deaf = false ∧ (withQueue queue0).queueOf 0 0 = some 0 ∧ ((withQueue queue0).queue 0).deven = false ∧
      (withQueue queue0).contextOf 0 0 = some 0 ∧
      (let s := withQueue { queue0 with func := 1, wqctl := 0x40000 }
       s.queueOf 1 0 = some 0 ∧ s.contextOf 1 0 = none ∧ (s.queue 0).en = false) ∧
      ((withQueue { queue0 with err := true }).queue 0).err = true ∧ (withQueue { queue0 with err := true }).queueOf 0 0 = some 0) ∧
    ((base.queue 4).en = false ∧ bits (3 : Byte) 4 0 ≠ (base.queue 4).func.toNat ∧ (base.ctx 1).st = .idle ∧
      bits (3 : Byte) 4 0 ≠ (base.ctx 1).func.toNat) ∧
    (let s := withQueue queue0
     let S := s.updQueue 0 fun x => { x with wqrd := x.wqrd + 1 }
     s.takeable (s.queue 0) = true ∧ s.packetAt (s.queue 0) 0 = some 0 ∧ okE (S.checkPacket 0 queue0 0 none) = true) ∧
    (let s := { withQueue queue0 with mem := [⟨0, 2⟩] }
     let S := s.updQueue 0 fun x => { x with wqrd := x.wqrd + 1 }
     s.takeable (s.queue 0) = true ∧ s.packetAt (s.queue 0) 0 = some 2 ∧ okE (S.checkPacket 0 queue0 0 none) = false) ∧
    (let s := { base with launches := [(1, { launch2 0 with st := .waiting })] }
     (s.launch 1).st = .waiting ∧ (s.ctx 0).st = .run ∧ s.isMet (s.launch 1) = true ∧ (s.launch 1).nop = false) ∧
    (let s := offering 0 (launch2 7)
     s.hasTurn 2 = true ∧ (s.launch 2).kept = 0) ∧
    (let s := offering 0 (launch2 0)
     s.hasTurn 2 = true ∧ s.launch 2 = launch2 0 ∧ (launch2 0).kept ≠ 0 ∧ s.spot (launch2 0) = none) ∧
    (let s := offering 0x10000 (launch2 0)
     s.hasTurn 2 = true ∧ s.launch 2 = launch2 0 ∧ (∃ cores, s.spot (launch2 0) = some cores) ∧
       s.loadRecords (launch2 0) = some [] ∧ (launch2 0).onSlots = false) ∧
    ((late0.launch 2).since = some 5 ∧ late0.wantsCores 2 = true ∧ late0.fe.saving = none ∧
      late0.victimFor (late0.launch 2) = some 0 ∧ (late0.ctx 0).resetting = false) ∧
    (∀ ch ∈ [[], [0]], let s := finished ch .ready
     (s.blk 0).exited = true ∧ (s.blk 0).resident = true ∧ s.outstanding 0 = false ∧ (s.launch 0).chainSlots = []) ∧
    (let s := { base with launches := [(5, Launch.ofDesc 0 0 0 openDesc)] }
     (s.launch 5).st = .placed ∧ (s.ctx 0).st ≠ .fault ∧ ∀ b ∈ s.blocks, b.2.launch ≠ 5) := by
  refine ⟨?_, ?_, ?_, ?_, ?_, ?_, ⟨?_, ?_, by decide, ?_⟩, ⟨?_, ?_, ?_, ?_, by decide⟩, ?_, ?_, ?_⟩
  case refine_9 => rw [spot_first _ (by decide +kernel)]; decide +kernel
  case refine_12 => rw [spot_first _ (by decide +kernel)]; exact ⟨_, some_of [] (by decide +kernel)⟩
  all_goals decide +kernel

/-- The context of the small state in another state of R148, its block off its core. -/
def away (st : CtxState) (hot : List Nat) : State :=
  { base with
    cores := [], ctxs := [(0, { ctx0 with st := st })], mc := { base.mc with hot := hot }
    blocks := [(0, { block0 with resident := false })] }

theorem witness_ContextEvents :
    (base.deaf = false ∧ (base.ctx 0).st = .run ∧ (base.ctx 0).resetting = false) ∧
    ((away .halt []).draining 0 = false ∧ ((away .halt []).ctx 0).st = .halt) ∧
    (∃ m, (away .saved []).dieMap 0 = some m ∧ (away .saved []).mapOk 0 m = true) ∧
    (∃ m, (away .saved [0]).dieMap 0 = some m ∧ (away .saved [0]).mapOk 0 m = false) ∧
    ((away .restore []).ctx 0).st = .restore ∧
    ((((base.dropUnsent 0).dropWaits 0).discard 0).unreturned 0 = false ∧
      (((loading.dropUnsent 0).dropWaits 0).discard 0).unreturned 0 = true) ∧
    (∀ ps ∈ [[], loading.producers], let s := { (withCtx fun c => { c with resetting := true }) with producers := ps }
     (s.ctx 0).resetting = true ∧ s.unreturned 0 = !ps.isEmpty) ∧
    ((base.ctx 1).st = .idle ∧ base.poolBad 1 0x10000 0 = false ∧ base.poolBad 1 0 0x10000 = false) := by
  refine ⟨?_, ?_, ⟨_, rfl, by decide +kernel⟩, ⟨_, rfl, by decide +kernel⟩, ?_⟩ <;> decide +kernel

def health (h : Health) : State := { base with mc := h }
/-- An operation of the image mailbox in progress: 8 bytes for slot 1. -/
def mailing (op : Byte) : State :=
  health { Health.reset with state := 1, busy := true, mbop := op, mblen := 8, mbarg := 0x8000000000000000, mbbuf := [(0, 5)] }

theorem witness_HealthEvents :
    (mget 0 base.mc.clkNs 3 + 100000 ≤ { base with ns := 200000 }.ns ∧ 4 * 46 ≤ (200 : Byte).toNat) ∧
    (5 ∉ base.mc.faulty ∧ base.mc.held = false ∧ ∀ n ∈ List.range 10, (base.mc.stepRec n).fails = 0) ∧
    (nth 0 [2] 0 ≠ 0 ∧ nth 0 [2] 0 ≠ 5) ∧
    ((mailing 1).mc.runs 1 = true ∧ (mailing 2).mc.runs 2 = true ∧ (mailing 3).mc.runs 3 = true ∧ (mailing 4).mc.runs 4 = true) ∧
    ((mailing 2).mc.slotRuns 1 = false ∧ (health { (mailing 2).mc with mbarg := 0 }).mc.slotRuns 0 = true ∧
      ((health { (mailing 2).mc with slots := [(1, [(3, 7)])] }).mc.slotByte 1 3 ≠ 0xFF)) ∧
    ((health { (mailing 1).mc with found := some 0 }).mc.busy = true ∧ 4 < (mailing 9).mc.mbop.toNat) ∧
    ((mfind base.ctxs 0).isSome = true ∧ (base.ctx 0).st ≠ .idle ∧ (base.ctx 0).resetting = false ∧ (180 : Byte).toNat < 4 * 46) ∧
    ((health { Health.reset with held := true }).mc.held = true ∧ 4 * 48 ≤ (200 : Byte).toNat) ∧
    ((withCtx fun c => { c with func := 3 }).ctx 0).func.toNat = 3 ∧
    (base.regAt 0 0x4000018 = some (.ctxsig 0) ∧ base.regAt 0 0x6000000 = some (.ptva 0) ∧ base.regAt 0 0x8000028 = some .pebud ∧
      base.regAt 0 0x4000060 = some (.pestat 0) ∧ base.unitAt 0 0x50 = some (.sfcfg, false) ∧
      ∀ r ∈ [Reg.ctxsig 0, .ptva 0, .pebud, .pestat 0, .sfcfg], base.responds r = true) :=
  ⟨by decide, by decide +kernel⟩

def isNext {σ φ ρ : Type} : Host.Outcome σ φ ρ → Bool
  | .next _ => true
  | _ => false
theorem next_of {o : Host.Outcome State Fault Refusal} (h : isNext o = true) : ∃ t, o = .next t := by
  cases o with
  | next t => exact ⟨t, rfl⟩
  | fault r => cases h
  | refused r => cases h

/-- Words in the instruction cache at address 0. -/
def cached (ws : List Nat) : State :=
  { base with cores := [(0, { Core.reset with
      icache := [(0, 0, words (ws ++ List.replicate (8 - ws.length) 0))], slots := [(0, { Slot.reset with run := some run0 })] })] }

theorem witness_MemoryFormKept : Memory.wf written.mem = true ∧ ∃ t, step (cached [0x00300200, 0xF1CE4002]) = .next t :=
  ⟨by decide +kernel, next_of (by decide +kernel)⟩

theorem witness_EncodeDecode :
    (Instr.vadd (fa .s32 2 0 1)).wf = true ∧
    decode (words [0x00300200, 0xF1CE4002]) =
      .ok (.vadd { hd := headOfTy .s32, d := 2, a := srcOf 912, b := srcOf 967, ext := none }, []) :=
  ⟨by decide +kernel, rfl⟩

theorem witness_DecodeWords : (3 : Word).extractLsb' 0 2 = 3#2 := by decide

/-- A slot of core 0 has acted in this cycle; and a package held in reset. -/
def acted0 : State := { base with cores := [(0, { Core.reset with acted := some (base.cycle, 3) })] }
def heldBase : State := { base with mc := { base.mc with held := true } }
def move0 (a : Act) : Move := { ns := 0, cycles := 0, act := a }

theorem witness_StepRuns :
    (let s := cached [0x00300200, 0xF1CE4002]
     let block := words [0x00300200, 0xF1CE4002, 0, 0, 0, 0, 0, 0]
     (s.agenda = [] ∧ (s.slot 0 0).run = some run0 ∧ (s.slot 0 0).pend = none ∧
       s.badTarget run0.group.pc = none ∧ okE (s.translate 0 (vaOf run0.group.pc) run0.group.pc.toNat .fetch) = true ∧
       s.cachedBlock 0 0 (vaOf run0.group.pc) = some block) ∧
       ∃ rest, decode (block.drop (vaOf run0.group.pc % 32)) =
         .ok (.vadd { hd := headOfTy .s32, d := 2, a := srcOf 912, b := srcOf 967, ext := none }, rest)) ∧
    (base.agenda = [] ∧ (base.slot 0 0).run = some run0 ∧ (base.slot 0 0).pend = none ∧ base.badTarget run0.group.pc = none ∧
      okE (base.translate 0 (vaOf run0.group.pc) run0.group.pc.toNat .fetch) = true ∧
      base.cachedBlock 0 0 (vaOf run0.group.pc) = none) ∧
    ((acted0.core 0).acted = some (acted0.cycle, 3) ∧ 2 ≤ 3 ∧ (base.core 0).acted = none) ∧
    (base.mc.held = false ∧ (move0 (.issue 3 1)).act = .issue 3 1 ∧ Instr.isEvent .lockLoss = true) ∧
    (heldBase.mc.held = true ∧ (move0 (.event .lockLoss)).act ≠ .event (.powerRestore 200) ∧
      Instr.isEvent (.powerRestore 200) = true) ∧
    (Memory.wf State.reset.mem = true ∧ (Config.memTop - 1) + [(7 : Byte)].length ≤ Config.memTop) := by
  refine ⟨⟨?_, _, rfl⟩, ?_⟩ <;> decide +kernel

theorem witness_GuardSelects :
    (base.thread (w0.thread 1)).resume = false ∧ (Instr.nop { fa .b32 0 0 0 with hd := { hd .b32 with pn := true } }).head.pn = true ∧
    okE (decode ((0x00008C04#32 :: [0#32]).flatMap wordBytes)) = true ∧
    okE (decode ((0x00000C04#32 :: [0#32]).flatMap wordBytes)) = true :=
  ⟨by decide +kernel, rfl, by decide +kernel, by decide +kernel⟩

/-- A window of 96 names. -/
def narrow : State := { base with launches := [(0, Launch.ofDesc 0 0 0 (openDesc - BitVec.ofNat 512 (84 * 2 ^ 69)))] }

theorem witness_NoLaneNoEffect :
    let i : Instr := .vadd { fa .s32 2 0 1 with hd := { hd .s32 with pn := true } }
    i.wf = true ∧ Alone narrow i run0 w0 [0, 1] ∧ (narrow.wave w0).role.permits i.engine = true ∧
      i.returns = false ∧ fieldNames i = [(0, 2), (1, 0), (2, 1)] ∧ (∀ p ∈ fieldNames i, p.2 < (narrow.launchOf 0).win) ∧
      (narrow.launchOf 0).win = 96 ∧ (narrow.site i run0 w0 [0, 1]).lanes = [] :=
  ⟨by decide +kernel, alone_of (by decide +kernel), by decide +kernel⟩

def copier : State := withWave fun w => { w with role := .copy }
/-- The group's PC is `pc`, and a block that begins with these words is in the instruction cache. -/
def fetching (pc : DWord) (ws : List Nat) : State :=
  { base with cores := [(0, { Core.reset with
      icache := [(0, 0, words (ws ++ List.replicate (8 - ws.length) 0))]
      slots := [(0, { Slot.reset with run := some { run0 with group := { group0 with pc := pc } } })] })] }
def atFetchB (s : State) (pc : DWord) : Bool :=
  decide ((s.slot s.cur.1 s.cur.2).run = some { run0 with group := { group0 with pc := pc } }) &&
    decide ((s.slot s.cur.1 s.cur.2).pend = none) && decide (s.groupWaves { group0 with pc := pc } = [(w0, [0, 1])]) &&
    decide (s.agenda = []) && canTrapB s
theorem atFetch_of {s : State} {pc : DWord} (h : atFetchB s pc = true) :
    AtFetch s { run0 with group := { group0 with pc := pc } } w0 [0, 1] ∧ CanTrap s w0 [0, 1] ∧ s.agenda = [] := by
  unfold atFetchB at h
  simp only [Bool.and_eq_true, decide_eq_true_eq] at h
  obtain ⟨⟨⟨⟨h1, h2⟩, h3⟩, h4⟩, h5⟩ := h
  exact ⟨⟨h1, h2, h3, by simp [group0, WaveId.thread, ThreadId.wid]⟩, canTrap_of h5, h4⟩
/-- Fetch may not read the page. -/
def guarded0 : State := { fetching (pcOf 0) [] with ctxs := [(0, { ctx0 with pages := [(0, { page0 with entry := 0x0D })] })] }
def errE {ε α : Type} (p : ε → Bool) : Except ε α → Bool
  | .ok _ => false
  | .error e => p e

/-- Instructions with a name beyond a window of 96, and the field and the name. -/
def beyond : List (Instr × (Nat × Nat)) :=
  [(.rls (fa .b32 0 90 32), (1, 96)), (.stage (fk 0 90 0x80000001), (1, 121)), (.vpackQ4 (fc .q4 40 93 0 20 1), (1, 96)),
   (.vtopk (fc .f32 90 100 1 0 3), (0, 96)), (.ld (fm .b32 200 0 0 0), (0, 200)), (.vmovx (fa .b32 2 96 1), (1, 96)),
   (.vadd (fa .s32 2 3 700), (2, 700))]

theorem witness_DecodeTraps :
    (atFetchB (fetching 2 []) 2 = true ∧ ((fetching 2 []).badTarget 2).isSome = true) ∧
    (atFetchB guarded0 (pcOf 0) = true ∧ guarded0.badTarget (pcOf 0) = none ∧
      errE (fun f => f.cause == .prot) (guarded0.translate 0 (vaOf (pcOf 0)) (pcOf 0).toNat .fetch) = true) ∧
    (∀ x ∈ [(0, [3], DecodeError.illen), (28, [0, 0, 0, 0, 0, 0, 0, 0], .short), (0, [0xFC, 0], .illop)],
      let s := fetching (pcOf x.1) x.2.1
      atFetchB s (pcOf x.1) = true ∧ s.badTarget (pcOf x.1) = none ∧ okE (s.translate 0 x.1 (pcOf x.1).toNat .fetch) = true ∧
        errE (· == x.2.2) (decode (((s.cachedBlock 0 0 x.1).getD []).drop (vaOf (pcOf x.1) % 32))) = true) ∧
    (canTrapB base = true ∧ canTrapB copier = true) ∧
    (∀ i ∈ [Instr.vadd (fa .f32 2 0 1), .eret (fa .b32 0 0 0)], i.isEvent = false ∧ aloneB base i = true ∧
      (i.wf = false ∨ i.returns = true)) ∧
    (let i : Instr := .vadd (fa .s32 2 0 1)
     aloneB copier i = true ∧ i.wf = true ∧ i.returns = false ∧ (copier.wave w0).role.permits i.engine = false) ∧
    canTrapB narrow = true ∧
    ∀ p ∈ beyond, p.1.isEvent = false ∧ aloneB narrow p.1 = true ∧ p.1.wf = true ∧ p.1.returns = false ∧
      (narrow.wave w0).role.permits p.1.engine = true ∧
      (fieldNames p.1).find? (fun n => Nat.ble (narrow.launchOf 0).win n.2) = some p.2 := by
  refine ⟨?_, ?_, ?_, ?_, ?_, ?_, ?_, ?_⟩ <;> decide +kernel

def emptied : State := withWave fun w => { w with vregs := mput w.vregs 1 { reg0 0 0 with st := .empty } }

theorem witness_RegistersWaitOrTrap :
    ∃ row row', vectorRow (.vadd (fa .s32 2 0 1)) = some row ∧
      vectorRow (.vadd { fa .s32 2 0 1 with b := { sr 1 with tie := true } }) = some row' ∧
      Alone emptied (.vadd (fa .s32 2 0 1)) run0 w0 [0, 1] ∧
      emptied.decodeTrap (.vadd (fa .s32 2 0 1)) row.1.vnames run0.group.pc w0 [0, 1] = none ∧
      (emptied.site (.vadd (fa .s32 2 0 1)) run0 w0 [0, 1]).lanes ≠ [] ∧
      firstScan (row.1.scans (emptied.wave w0)) = some (2, 1, .wait) ∧ (emptied.wave w0).isEmpty 1 = true ∧
      (∀ p ∈ row.1.names, (emptied.wave w0).isSpilled p.2 = false) ∧
      firstScan (row'.1.scans (emptied.wave w0)) = some (2, 1, .trap .empty 0) ∧ CanTrap emptied w0 [0, 1] := by
  refine ⟨_, _, rfl, rfl, alone_of ?_, ?_, ?_, ?_, ?_, ?_, ?_, canTrap_of ?_⟩ <;> decide +kernel

theorem witness_RowsKeepValues :
    let u : Use := { rds := [], dst := some (Dst.vd 2 .s32), k := 0 }
    u.Rows base w0 base ∧ u.dsts ≠ [] :=
  ⟨Use.Rows.of_mapped (by decide +kernel) (by decide +kernel), by decide⟩

/-- The ring bound to queue 1 holds two landed elements. -/
def filled : State :=
  let s := ((base.ringInit ring0 6).setBinding 0 1 (some ring0)).setRingWord ring0 rAVAIL 2
  s.setHomeBytes (ring0.loc (32 + 4 * 64)) [0xFC]

def okQ : QScan → Bool
  | .ok _ _ => true
  | _ => false
theorem okQ_of {o : QScan} (h : okQ o = true) : ∃ s p, o = .ok s p := by
  cases o with
  | ok s p => exact ⟨s, p, rfl⟩
  | unbound => cases h
  | wait a b c => cases h

/-- The pops and pushes of an instruction of the small state with landed elements can be made. -/
def queuesB (i : Instr) (u : Use) : Bool :=
  aloneB filled i && decide (filled.decodeTrap i u.vnames run0.group.pc w0 [0, 1] = none) &&
    decide ((filled.site i run0 w0 [0, 1]).lanes ≠ []) && readyB (filled.wave w0) u &&
    okQ ((filled.advance (filled.site i run0 w0 [0, 1])).scanQueues (filled.site i run0 w0 [0, 1]) u)
/-- The state in which a push commits. -/
def beforePush (i : Instr) (u : Use) : State :=
  let y := filled.site i run0 w0 [0, 1]
  (((filled.prepared (filled.advance y) y u).takePops y u y.lanes.length).clearLast y u y.lanes)

theorem witness_QueueOperands :
    (let i : Instr := .vadd (fa .s32 2 897 1)
     ∃ row d, vectorRow i = some row ∧ queuesB i row.1 = true ∧ row.1.dst = some d ∧
       (row.1.pops = true ∧ queueOf d.op = none ∧ nth 0 d.codes 0 = 2) ∧
       row.1.Rows (filled.advance (filled.site i run0 w0 [0, 1])) w0 (filled.advance (filled.site i run0 w0 [0, 1]))) ∧
    (∀ b ∈ [0, 897], let i : Instr := .vadd (fa .s32 897 b 1)
     ∃ row d, vectorRow i = some row ∧ queuesB i row.1 = true ∧ row.1.dst = some d ∧
       (queueOf d.op = some 1 ∧ row.1.pops = decide (b = 897) ∧
         ((beforePush i row.1).commitPush (filled.site i run0 w0 [0, 1]) row.1).isSome = true)) ∧
    (let i : Instr := .vcmp (fa .s32 3 897 1)
     ∃ p u f, compareRow i = some (p, u, f) ∧ (p = 3 ∧ u.pops = true ∧ queuesB i u = true)) := by
  refine ⟨⟨_, _, rfl, ?_, rfl, ?_, Use.Rows.of_mapped ?_ ?_⟩, fun b hb => ⟨_, _, rfl, ?_, rfl, ?_⟩, _, _, _, rfl, ?_⟩
  case refine_5 => revert b; decide +kernel
  case refine_6 => revert b; decide +kernel
  all_goals decide +kernel

theorem witness_PhasesAndNumbers :
    (phasePassed 0 65535 = true ∧ phasePassed 32767 0 = true ∧ phasePassed 32768 0 = false ∧ phasePassed 5 5 = false) ∧
    63 * 32 + 7 * 4 + 3 < 2048 ∧ quadOf 2047 % 8 = 7 ∧ dieOf 2047 = 63 := by decide

/-- Finite operands, a sum that rounds, one that is exact and one beyond the finite values; and the sources of conversions. -/
theorem witness_RoundingIsCorrect :
    (∀ x ∈ [0x3F800001, 0x33800000, 0x7F7FFFFF, 0x80000000, 1], finite (fmtF32.value x) = true) ∧
    finite (fmtF32.value 0x7F800000) = false ∧ Head.mode (fa .f32 2 0 1).hd ≠ .rs ∧ Head.mode (fa .f32 2 0 1 3).hd = .rup ∧
    (let row := (vectorFloatRow (.vfadd (fa .f32 2 0 1))).getD (useS1 (fa .f32 2 0 1), fun _ _ => (0, 0))
     row.2 (fun o => if o = 1 then 0x3F800001 else 0x33800000) (fun _ => true) = (0x3F800002, flNX) ∧
       row.2 (fun o => if o = 1 then 0x3F000000 else 0x3F000000) (fun _ => true) = (0x3F800000, 0) ∧
       finite (fmtF32.value (row.2 (fun _ => 0x7F7FFFFF) (fun _ => true)).1) = false) ∧
    (∀ md ∈ [0, 1, 2, 3], let x := fc .bf16 2 0 0 0 md 3
     x.hd.ty.isFloat = true ∧ x.hd.md.getLsbD 3 = false ∧ Head.mode x.hd ≠ .rs ∧
       (Ty.ofCode (x.xmod.extractLsb' 0 4)).isFloat = false) ∧
    (Ty.ofCode ((fc .bf16 2 0 0 0 0 10).xmod.extractLsb' 0 4)).isFloat = true := by
  decide +kernel

/-! ### Words from the spec's encodings -/

/-- A head with its end-of-run bit set. -/
def he (t : Ty) (md : Nat := 0) : Head := { hd t md with eor := true }
/-- A source at its last use. -/
def lr (c : Nat) : Src := { sr c with last := true }
def ea (t : Ty) (d a b : Nat) (md : Nat := 0) : FA := { fa t d a b md with hd := he t md }
def ec (t : Ty) (d a b c : Nat) (md : Nat := 0) : FC := { fc t d a b c md with hd := he t md }
def em (t : Ty) (d a b c : Nat) (md : Nat := 0) (tr : Nat := 0) (ofs : Nat := 0) : FM :=
  { fm t d a b c md 0 ofs tr with hd := he t md }

theorem test_decode_example_of_chapter_2 :
    decode (words [0x00300201, 0xF0400C05, 0]) =
      .ok (.vadd { hd := hd .s32, d := 5, a := sr 3, b := sr 961, ext := some 0 }, []) ∧
    decode (words [0x00300212, 0xF0D00C06, 0x3F8, 0x9C40]) =
      .ok (.vmad { hd := hd .s32, d := 6, a := lr 3, b := sr 963, c := sr 1016, xmod := 0, ext := some 40000 }, []) ∧
    decode (words [0x40300216, 0x01901407, 0x3C5, 0]) =
      .ok (.vmad { hd := he .s32, d := 7, a := lr 5, b := lr 6, c := sr 965, xmod := 0, ext := some 0 }, []) ∧
    decode (words [0x00798201, 0xFE002C0A, 0x186A0]) =
      .ok (.vadd { hd := { hd .n32 with pg := 3, pn := true }, d := 10, a := sr 11, b := sr 1016, ext := some 100000 }, []) ∧
    decode (words [0x00300506, 0x2014, 0x00245000, 0x100]) =
      .ok (.ld { em .s32 20 8 0 0 0 5 256 with scope := 1, ord := 1 }, []) :=
  ⟨rfl, rfl, rfl, rfl, rfl⟩

theorem test_decode_scalar_and_control :
    decode (words [0x111, 0x302, 0xAAAAAAAA]) = .ok (.sli (fk 770 0 0xAAAAAAAA), []) ∧
    decode (words [0x00704100, 0xE44C0B02]) = .ok (.sshr (fa .n32 770 770 913), []) ∧
    decode (words [0x3028, 0x000C0801]) = .ok (.pmovFromScalar (fa .b32 1 770 0), []) ∧
    decode (words [0x8005, 0, 0x24]) = .ok (.bra { fk 0 0 0x24 with hd := { he .b32 with pg := 1 } }, []) ∧
    decode (words [0x480C, 0]) = .ok (.cvg (ea .b32 0 0 0), []) ∧
    decode (words [0x784, 0xC30C2B04]) = .ok (.launch (ea .b32 772 778 780), []) ∧
    decode (words [0xF84, 2]) = .ok (.yieldGrid (ea .b32 2 0 0), []) :=
  ⟨rfl, rfl, rfl, rfl, rfl, rfl, rfl⟩

theorem test_decode_registers :
    decode (words [0x1C, 0x01002000]) = .ok (.rls (ea .b32 0 8 4), []) ∧
    decode (words [0x90C, 0xC14C030A]) = .ok (.smovx (ea .b32 778 768 773), []) ∧
    decode (words [0x01001209, 0x00500810, 0]) =
      .ok (.vmovxSt { hd := hd .b32 1, d := 16, a := lr 2, b := sr 1, ext := some 0 }, []) ∧
    decode (words [0x1208, 0x00504003]) = .ok (.vmovx { fa .b32 3 16 1 with a := lr 16 }, []) ∧
    decode (words [0x24, 0x2F04]) = .ok (.rdsr (ea .b32 772 11 0), []) ∧
    decode (words [0x120C, 0xF0C05004]) = .ok (.vmovx (ea .b32 4 20 963), []) :=
  ⟨rfl, rfl, rfl, rfl, rfl, rfl⟩

theorem test_decode_float_and_conversion :
    decode (words [0x01A0022D, 0x01501009, 6]) = .ok (.vffma { ec .f32 9 4 5 6 1 with a := lr 4 }, []) ∧
    decode (words [0x0CD00231, 0x0C0C, 0xA014]) = .ok (.vcvt { fc .e4m3 12 3 0 20 12 with xmod := 10 }, []) ∧
    decode (words [0x01F00A35, 0x2028, 0x14]) = .ok (.vpackQ4 (ec .q4 40 8 0 20 1), []) :=
  ⟨rfl, rfl, rfl⟩

theorem test_decode_lanes :
    decode (words [0x284, 0x40400402]) = .ok (.lxor (ea .b32 2 1 257), []) ∧
    decode (words [0x20000284, 0xC2800402]) = .ok (.lxor (ea .b32 2 1 778 32), []) ∧
    decode (words [0x00A02284, 0x0C04]) = .ok (.lred (ea .f32 4 3 0), []) ∧
    decode (words [0x01C01A8C, 0x0803]) = .ok (.vexp2 (ea .bf16 3 2 0 1), []) ∧
    decode (words [0x03A0029D, 0x01400C28, 0]) = .ok (.vtopk (ec .f32 40 3 5 0 3), []) ∧
    decode (words [0xA9D, 0xC1000409, 0x3C7]) = .ok (.vrng (ec .b32 9 1 772 967), []) ∧
    decode (words [0x01000296, 0x000C5000, 0x3000, 0x10]) = .ok (.atld (em .b32 0 788 0 0 1 3 16), []) :=
  ⟨rfl, rfl, rfl, rfl, rfl, rfl, rfl⟩

theorem test_decode_memory :
    decode (words [0x0900050C, 4]) = .ok (.commitChk (ea .b32 4 0 0 9), []) ∧
    decode (words [0x01000D0C, 0]) = .ok (.abort (ea .b32 0 0 0 1), []) ∧
    decode (words [0x0C00150C, 0]) = .ok (.fence (ea .b32 0 0 0 12), []) ∧
    decode (words [0x40310D06, 0x008C2800, 0x2000, 0]) =
      .ok (.st { em .s32 0 778 0 0 0 2 0 with hd := { he .s32 with pg := 2 }, b := lr 2 }, []) :=
  ⟨rfl, rfl, rfl, rfl⟩

theorem test_decode_copies_and_barriers :
    decode (words [0x01000614, 0xF04C5000]) = .ok (.binit (ea .b32 0 788 961 1), []) ∧
    decode (words [0x20000E06, 0x000C3308, 0x06042314, 0]) =
      .ok (.cpyt { em .b32 776 780 0 788 32 2 0 with scope := 1, xmod := 3 }, []) ∧
    decode (words [0x20000606, 0xC60C5B08, 0x00040314, 0x40]) =
      .ok (.cpy { em .b32 776 790 792 788 32 0 64 with scope := 1 }, []) :=
  ⟨rfl, rfl, rfl⟩

theorem test_decode_matrix :
    decode (words [0x404, 1]) = .ok (.mrsv (ea .b32 1 0 0), []) ∧ decode (words [0xC04, 0]) = .ok (.mrel (ea .b32 0 0 0), []) ∧
    decode (words [0x1405, 0xFE000, 0x40]) = .ok (.cvset { ea .b32 0 1016 0 with ext := some 64 }, []) ∧
    decode (words [0x1C04, 0x3C00]) = .ok (.mzero (ea .b32 0 15 0), []) ∧
    decode (words [0x0DF0040E, 0xF00F0000, 0x04001000, 0x20]) =
      .ok (.mma { em .q4 0 960 960 0 13 1 32 with xmod := 2 }, []) ∧
    decode (words [0x0AA0140E, 0x000F0308, 0x0004331A, 0]) =
      .ok (.mst { em .f32 776 960 0 794 10 3 0 with scope := 1 }, []) :=
  ⟨rfl, rfl, rfl, rfl, rfl, rfl⟩

theorem test_decode_memory_side_and_fabric :
    decode (words [0x08700686, 0xC7800806, 0x00105000, 0]) = .ok (.matom { em .n32 6 2 798 0 8 5 0 with scope := 4 }, []) ∧
    decode (words [0x00A00706, 0x000E4006, 0x4000, 0]) = .ok (.fmld (em .f32 6 912 0 0 0 4 0), []) ∧
    decode (words [0x02300706, 0x000E4006, 0x00304000, 0]) =
      .ok (.fmld { em .s32 6 912 0 0 2 4 0 with scope := 4, ord := 1 }, []) ∧
    decode (words [0x20000F06, 0xC58C5308, 0x00105318, 0]) =
      .ok (.fperm { em .b32 776 788 790 792 32 5 0 with scope := 4 }, []) :=
  ⟨rfl, rfl, rfl, rfl⟩

theorem test_decode_port :
    decode (words [0x01000746, 0xC58C5000, 0, 0x100]) = .ok (.pwr (em .b32 0 788 790 0 1 0 256), []) ∧
    decode (words [0x05000746, 0xC58C5000, 0, 0x100]) = .ok (.pwr (em .b32 0 788 790 0 5 0 256), []) ∧
    decode (words [0x00300F46, 0x000E4006, 0x4000, 0]) = .ok (.prd (em .s32 6 912 0 0 0 4 0), []) ∧
    decode (words [0x13001F46, 0x000C5000, 0, 0]) = .ok (.psigArv (em .b32 0 788 0 0 19 0 0), []) ∧
    decode (words [0x33801F46, 0xC68C6000, 0, 0]) = .ok (.psigAdd (em .n64 0 792 794 0 51 0 0), []) ∧
    decode (words [0x0A002746, 0xC58C5308, 0x5318, 0]) = .ok (.pperm (em .b32 776 788 790 792 10 5 0), []) ∧
    decode (words [0x74C, 0x000C2B04]) = .ok (.pqst (ea .b32 772 778 0), []) ∧
    decode (words [0x74C, 0x004C130F]) = .ok (.pqst (ea .b32 783 772 1), []) :=
  ⟨rfl, rfl, rfl, rfl, rfl, rfl, rfl, rfl⟩

/-! ### Well-formedness: one ill-formed term for each check -/

/-- None of the instructions is well formed. -/
def allIll (l : List Instr) : Bool := l.all fun i => !i.wf
/-- All of the instructions are well formed. -/
def allWell (l : List Instr) : Bool := l.all Instr.wf

theorem test_wf_source_classes :
    allWell [.vadd (fa .s64 2 4 6), .vadd (fa .s32 2 912 967), .sadd (fa .s32 768 769 770), .vadd (fa .s32 2 896 897)] = true ∧
    -- odd halves of a 64-bit pair, a queue at 64 bits, a reserved code, the 32-bit special halves at 64 bits
    allIll [.vadd (fa .s64 2 5 6), .vadd (fa .s64 2 769 6), .vadd (fa .s64 2 896 6), .vadd (fa .s32 2 933 0),
            .vadd (fa .s32 2 1017 0), .vadd (fa .s64 2 930 4)] = true ∧
    -- LANE or a vector register in a scalar field; a float constant at an integer type
    allIll [.sadd (fa .s32 768 912 770), .sadd (fa .s32 768 0 770), .vadd (fa .s32 2 1008 0)] = true ∧
    -- bits of a source that has none
    allIll [.vadd { fa .s32 2 0 0 with a := { sr 896 with tie := true } }, .vadd { fa .s32 2 0 0 with a := lr 967 },
            .vadd { fa .s32 2 0 0 with b := lr 912 }] = true ∧
    -- one queue register in two sources
    allIll [.vadd (fa .s32 2 896 896)] = true :=
  ⟨by decide, by decide, by decide, by decide, by decide⟩

theorem test_wf_literals :
    allWell [.vadd { fa .s8 2 0 1016 with ext := some 255 }, .vadd { fa .s32 2 0 1 with ext := some 0 }] = true ∧
    -- a literal without its word, one too wide for its type, a word that no source names
    allIll [.vadd (fa .s32 2 0 1016), .vadd { fa .s8 2 0 1016 with ext := some 256 },
            .vadd { fa .s16 2 0 1016 with ext := some 65536 }, .vadd { fa .s32 2 0 1 with ext := some 1 }] = true :=
  ⟨by decide, by decide⟩

theorem test_wf_destinations :
    -- vector, scalar and predicate destinations
    allIll [.vadd (fa .s32 768 0 1), .vadd (fa .s64 3 0 2), .sadd (fa .s32 2 768 769), .sadd (fa .s64 769 768 770),
            .vadd (fa .s64 896 0 2), .vcmp (fa .s32 0 0 1), .vcmp (fa .s32 16 0 1)] = true ∧
    -- no queue register as the destination of a request
    allIll [.fmld (fm .s32 896 0 0 0), .matom { fm .n32 896 0 1 0 with scope := 4 }] = true ∧
    -- predicates, credit vectors, plain numbers and register names
    allIll [.pand (fa .b32 1 16 0), .cvset (fa .b32 8 768 0), .brkpt { fa .b32 0 1 0 with a := lr 1 }, .mzero (fa .b32 0 0 0),
            .mzero (fa .b32 0 16 0), .qstat (fa .b32 768 0 0), .qstat (fa .b32 768 896 4)] = true ∧
    -- vector and scalar registers whose number is not a multiple
    allIll [.call (fk 3 0 0), .vpackQ4 (fc .q4 3 0 0 1 1), .barv (fa .b32 0 769 0), .barv (fa .b32 0 0 0),
            .tset (fm .b32 0 772 0 0 0 0 1), .brx (fa .b32 0 3 0), .brx (fa .b32 0 960 0)] = true ∧
    -- an unused field that is not zero, and a lane distance out of range
    allIll [.nop (fa .b32 1 0 0), .nop (fa .b32 0 1 0), .nop { fa .b32 0 0 0 with b := lr 0 }, .lxor (fa .b32 2 0 0),
            .lxor (fa .b32 2 0 64), .lxor (fa .b32 2 0 263), .lxor (fa .b32 2 0 961 32)] = true :=
  ⟨by decide, by decide, by decide, by decide, by decide⟩

theorem test_wf_types_and_modes :
    allIll [.vadd (fa .f32 2 0 1), .vfadd (fa .s32 2 0 1), .sadd (fa .s8 768 769 770), .vand (fa .s32 2 0 1),
            .lred (fa .bf16 2 0 0), .vtopk (fc .b32 2 0 1 0), .fmld (fm .e4m3 2 0 0 0), .mma (fm .s32 0 960 960 0 0 0 32),
            .ld (fm .q4 2 0 0 0), .vcvt (fc .s32 2 0 0 0 1 3), .rdsr (fa .b64 770 0 0)] = true ∧
    allIll [.commit (fa .b32 0 0 0 6), .commitChk (fa .b32 1 0 0 8), .abort (fa .b32 0 0 0), .fence (fa .b32 0 0 0 6),
            .vcvt (fc .f32 2 0 0 0 16 3), .vadd (fa .s32 2 0 1 2), .bwait (fc .b32 0 770 960 0 2), .binit (fa .b32 0 770 960 6),
            .mldV (fm .f32 0 0 768 0 3), .vfmin (fa .f32 2 0 1 1), .nop (fa .b32 0 0 0 1), .nop (fa .s8 0 0 0)] = true :=
  ⟨by decide, by decide⟩

theorem test_wf_memory_fields :
    allIll [.ld { fm .s32 2 0 0 0 with scope := 1 }, .ld { fm .s32 2 0 0 0 with ord := 1, scope := 6 },
            .ld { fm .s32 2 0 0 0 with ord := 2 }, .st { fm .s32 0 0 1 0 with ord := 1 }, .ld { fm .s32 2 0 0 0 with xmod := 1 },
            .red (fm .s32 0 0 1 0 6), .matom { fm .n32 2 0 1 0 with scope := 3 }] = true ∧
    allIll [.cpy (fm .b32 776 770 772 0 0 1 2), .cpy (fm .b32 776 770 772 0 0 1 0), .mma (fm .f16 0 960 960 0 0 0 33),
            .pwr (fm .b32 0 770 772 0 0 0 65540), .tset (fm .b32 0 776 0 0 0 0 256)] = true :=
  ⟨by decide, by decide⟩

/-- What no word encodes is not a well-formed word (R67). -/
theorem test_wf_events : allIll [.lockLoss, .slotSelect 0 0] = true := by decide

/-! ### Worked values of the spec -/

/-- Stochastic rounding and the conversions near the top of E4M3 (07, the last example). -/
theorem test_conversions_of_chapter_7 :
    convert .bf16 .f32 (RMode.ofCode 4) false 0x1234 0x3F80C000 = (0x3F80, flNX) ∧
    convert .bf16 .f32 (RMode.ofCode 4) false 0x4000 0x3F80C000 = (0x3F81, flNX) ∧
    convert .bf16 .f32 (RMode.ofCode 4) false 0xFFFF 0x3F800000 = (0x3F80, 0) ∧
    convert .e4m3 .f32 .rne false 0 0x43E60000 = (0x7E, flNX) ∧
    convert .e4m3 .f32 .rne false 0 0x43EB0000 = (0x7F, flOF + flNX) ∧
    convert .e4m3 .f32 .rne true 0 0x43EB0000 = (0x7E, flOF + flNX) ∧
    convert .e5m2 .f32 .rne false 0 0x43EB0000 = (0x5F, flNX) := by
  decide +kernel

/-- The codes of the quantised block (07, the table of VPACK.q4f, and the q4i codes after it). -/
theorem test_q4_codes_of_chapter_7 :
    [0x40A00000, 0xBF99999A, 0x3E99999A, 0x40266666, 0xBF333333, 0].map (fun x => (q4Quantise 1 32 (fmtF32.value x)).1) =
      [6, 10, 1, 5, 9, 0] ∧
    [0x40A00000, 0xBF99999A, 0x3E99999A, 0x40266666, 0xBF333333, 0].map (fun x => (q4Quantise 0 32 (fmtF32.value x)).1) =
      [5, 15, 0, 3, 15, 0] ∧
    q4Quantise 1 31 (fmtF32.value 0x40A00000) = (7, flOF + flNX) :=
  ⟨by decide +kernel, by decide +kernel, by decide +kernel⟩

theorem test_unpack_of_chapter_7 :
    (fmtF32.deliver (q4Value 0x60 6) .rne false 0).1 = 0x40800000 ∧ (fmtF32.deliver (q4Value 0x60 10) .rne false 0).1 = 0xBF800000 :=
  ⟨by decide +kernel, by decide +kernel⟩

/-- The member order of an in-fabric reduction decides its rounding (13, the example after the encodings). -/
theorem test_reduction_order_of_chapter_13 :
    reduceMembers 0 .f32 [0x4B800000, 0x3F800000, 0x3F800000] = 0x4B800000 ∧
    reduceMembers 0 .f32 [0x3F800000, 0x3F800000, 0x4B800000] = 0x4B800001 :=
  ⟨by decide +kernel, by decide +kernel⟩

/-- A bank with `LO` = −4.0 and `KSH` = 5 puts the FP32 value 0x3E99999A in segment 137 and 4.0 in 256 (R324). -/
theorem test_segment_of_chapter_10 :
    segmentOf 144284058 (-25) 5 = 137 ∧ segmentOf 8 0 5 = 256 := ⟨by decide +kernel, by decide +kernel⟩

/-! ### Single steps on the small state -/

/-- The state that an instruction leaves; the small state where it gives none. -/
def after (s : State) (i : Instr) : State :=
  match exec i s with
  | .next t => t
  | _ => s
def lanes2 (s : State) (v : Nat) : Nat × Nat :=
  let x := (((s.wave w0).vreg v).getD (reg0 0 0)).lanes
  ((mget 0 x 0).toNat, (mget 0 x 1).toNat)
def scalar (s : State) (n : Nat) : Nat := (mget 0 (s.wave w0).scalars n).toNat
def fstat (s : State) : Nat := (s.wave w0).fstat.toNat

/-- R245: lanes 7 and 9 plus lanes 2 and 3. -/
theorem test_vadd : lanes2 (after base (.vadd (fa .s32 2 0 1))) 2 = (9, 12) := by decide +kernel
/-- R245: 3 − 5 wraps; under `.sat` an unsigned difference below 0 saturates and sets `SAT`. -/
theorem test_ssub : scalar (after base (.ssub (fa .s32 769 770 768))) 1 = 0xFFFFFFFE ∧
    scalar (after base (.ssub (fa .n32 769 770 768 1))) 1 = 0 ∧ fstat (after base (.ssub (fa .n32 769 770 768 1))) = flSAT :=
  ⟨by decide +kernel, by decide +kernel, by decide +kernel⟩
/-- R195: a shift by the width or more gives 0, of a negative value its sign. -/
theorem test_shifts : scalar (after base (.sshl (fa .b32 769 768 778))) 1 = 0 ∧
    scalar (after base (.sshr (fa .s32 769 781 778))) 1 = 0xFFFFFFFF :=
  ⟨by decide +kernel, by decide +kernel⟩
/-- R197. -/
theorem test_sli : scalar (after base (.sli (fk 769 0 0xAAAAAAAA))) 1 = 0xAAAAAAAA := by decide +kernel
/-- R246: VMAD of 7·2 + 8 and 9·3 + 8. -/
theorem test_vmad : lanes2 (after base (.vmad (fc .s32 2 0 1 4))) 2 = (22, 35) := by decide +kernel
/-- R248: 0.5 + 0.5. -/
theorem test_vfadd : lanes2 (after base (.vfadd (fa .f32 2 9 9))) 2 = (0x3F800000, 0x3F800000) := by decide +kernel
/-- R320: the reciprocal of 0.5. -/
theorem test_vrcp : lanes2 (after base (.vrcp (fa .f32 2 9 0))) 2 = (0x40000000, 0x40000000) := by decide +kernel
/-- R316: a wave of lanes 0 and 1 reduces 7 and 9. -/
theorem test_lred : lanes2 (after base (.lred (fa .s32 2 0 0))) 2 = (16, 16) := by decide +kernel
/-- R187: the return address is the address of the instruction plus 12, with 0x3F in the top byte. -/
theorem test_call : lanes2 (after base (.call (fk 2 0 64))) 2 = (12, 12) ∧
    lanes2 (after base (.call (fk 2 0 64))) 3 = (0x3F000000, 0x3F000000) := ⟨by decide +kernel, by decide +kernel⟩
/-- R187: a taken branch adds its offset to its own address. -/
theorem test_bra : ((after base (.bra (fk 0 0 64))).thread (w0.thread 0)).pc = pcOf 64 := by decide +kernel

end Sys2Proof.Tests
end

section
/-! The guard field of word 0 (spec/02_encoding.md R51): it selects the threads that take part, and no check of a word looks at it. -/

namespace Sys2Proof

open Sys2Proof.Machine

/-! ### A row of a table is checked alike whatever the guard

A table chooses by the opcode, the type and `MOD`; a shape is made of the type, `MOD` and the fields beside the head. So the two
sides of each row below are the same check by unfolding, and only the rows that `MOD` or the type chooses between need a word. -/

/-- The head with another guard. -/
def Head.reguard (h : Head) (pg : BitVec 4) (pn : Bool) : Head := { h with pg := pg, pn := pn }

/-- A choice between two rows, made alike on both sides. -/
theorem map_wf_ite {c d : Prop} [Decidable c] [Decidable d] {o o' p p' : Option Instr} (hcd : c ↔ d)
    (ho : o.map Instr.wf = o'.map Instr.wf) (hp : p.map Instr.wf = p'.map Instr.wf) :
    (if c then o else p).map Instr.wf = (if d then o' else p').map Instr.wf := by
  by_cases hd : d
  · rwa [if_pos (hcd.mpr hd), if_pos hd]
  · rwa [if_neg (hd ∘ hcd.mp), if_neg hd]

/-- The major opcodes of format A64 whose rows the opcode alone chooses (R67). -/
def plainMajors : List Nat :=
  [0x01, 0x03, 0x04, 0x05, 0x20, 0x40, 0x44, 0x50, 0x51, 0x80, 0xA3, 0xC1, 0xC2, 0xE9, 0xF0]

/-- The major opcodes of format A64 with a row that `MOD` chooses (R67). -/
def choosingMajors : List Nat := [0x21, 0x41, 0xA1, 0xD1]

theorem plain_or_choosing_of_a64 {maj : Nat} (h : fmtOf maj = some .a64) : maj ∈ plainMajors ∨ maj ∈ choosingMajors := by
  unfold fmtOf at h
  split at h <;> cases h
  all_goals decide

theorem instrA_reguard_wf_of_plain {maj fn : Nat} (hmaj : maj ∈ plainMajors) (hfn : fn < 16) (x : FA) (pg : BitVec 4)
    (pn : Bool) : (instrA maj fn { x with hd := x.hd.reguard pg pn }).map Instr.wf = (instrA maj fn x).map Instr.wf := by
  simp only [plainMajors, List.mem_cons, List.not_mem_nil, or_false] at hmaj
  rcases hmaj with rfl | rfl | rfl | rfl | rfl | rfl | rfl | rfl | rfl | rfl | rfl | rfl | rfl | rfl | rfl <;>
    interval_cases fn <;> rfl

theorem instrA_reguard_wf_of_choosing {maj fn : Nat} (hmaj : maj ∈ choosingMajors) (hfn : fn < 16) (x : FA) (pg : BitVec 4)
    (pn : Bool) : (instrA maj fn { x with hd := x.hd.reguard pg pn }).map Instr.wf = (instrA maj fn x).map Instr.wf := by
  simp only [choosingMajors, List.mem_cons, List.not_mem_nil, or_false] at hmaj
  rcases hmaj with rfl | rfl | rfl | rfl
  -- SCMP, then the row of SMOVX
  · interval_cases fn
    · rfl
    · exact map_wf_ite Iff.rfl rfl rfl
    all_goals rfl
  -- VCMP and VMOV, then the row of VMOVX
  · interval_cases fn
    · rfl
    · rfl
    · exact map_wf_ite Iff.rfl rfl rfl
    all_goals rfl
  -- the row of COMMIT
  · interval_cases fn
    · exact map_wf_ite Iff.rfl rfl rfl
    all_goals rfl
  -- the row of QBIND
  · interval_cases fn
    · exact map_wf_ite Iff.rfl rfl (map_wf_ite Iff.rfl rfl rfl)
    all_goals rfl

theorem instrA_reguard_wf {maj fn : Nat} (hmaj : fmtOf maj = some .a64) (hfn : fn < 16) (x : FA) (pg : BitVec 4)
    (pn : Bool) : (instrA maj fn { x with hd := x.hd.reguard pg pn }).map Instr.wf = (instrA maj fn x).map Instr.wf :=
  (plain_or_choosing_of_a64 hmaj).elim (instrA_reguard_wf_of_plain · hfn x pg pn)
    (instrA_reguard_wf_of_choosing · hfn x pg pn)

theorem instrC_reguard_wf (maj fn : Nat) (x : FC) (pg : BitVec 4) (pn : Bool) :
    (instrC maj fn { x with hd := x.hd.reguard pg pn }).map Instr.wf = (instrC maj fn x).map Instr.wf := by
  unfold instrC
  split
  case h_12 => exact map_wf_ite Iff.rfl rfl rfl
  all_goals rfl

theorem instrK_reguard_wf (maj fn : Nat) (x : FK) (pg : BitVec 4) (pn : Bool) :
    (instrK maj fn { x with hd := x.hd.reguard pg pn }).map Instr.wf = (instrK maj fn x).map Instr.wf := by
  unfold instrK
  split <;> rfl

theorem instrM_reguard_wf (maj fn : Nat) (x : FM) (pg : BitVec 4) (pn : Bool) :
    (instrM maj fn { x with hd := x.hd.reguard pg pn }).map Instr.wf = (instrM maj fn x).map Instr.wf := by
  unfold instrM
  split
  case h_3 | h_24 => exact map_wf_ite Iff.rfl rfl rfl
  all_goals rfl

/-! ### Words that differ in the guard alone -/

/-- Words 0 with the same bits outside `PG` and `PN` (R46). -/
def SameButGuard (a b : Word) : Prop := a &&& 0xFFF07FFF#32 = b &&& 0xFFF07FFF#32

section
variable {a b : Word}

theorem SameButGuard.extractLsb'_eq (h : SameButGuard a b) (k n : Nat)
    (hm : (0xFFF07FFF#32).extractLsb' k n = BitVec.allOnes n) : a.extractLsb' k n = b.extractLsb' k n := by
  have e := congrArg (BitVec.extractLsb' k n) h
  rwa [BitVec.extractLsb'_and, BitVec.extractLsb'_and, hm, BitVec.and_allOnes, BitVec.and_allOnes] at e

theorem SameButGuard.getLsbD_eq (h : SameButGuard a b) (k : Nat) (hm : (0xFFF07FFF#32).getLsbD k = true) :
    a.getLsbD k = b.getLsbD k := by
  have e := congrArg (BitVec.getLsbD · k) h
  simpa only [BitVec.getLsbD_and, hm, Bool.and_true] using e

theorem SameButGuard.lenCode_eq (h : SameButGuard a b) : lenCode a = lenCode b :=
  congrArg BitVec.toNat (h.extractLsb'_eq 0 2 rfl)

theorem SameButGuard.majOf_eq (h : SameButGuard a b) : majOf a = majOf b :=
  congrArg BitVec.toNat (h.extractLsb'_eq 3 8 rfl)

theorem SameButGuard.fnOf_eq (h : SameButGuard a b) : fnOf a = fnOf b :=
  congrArg BitVec.toNat (h.extractLsb'_eq 11 4 rfl)

theorem SameButGuard.bOf_eq (h : SameButGuard a b) (w1 : Word) : bOf a w1 = bOf b w1 := by
  simp only [bOf, h.getLsbD_eq 30 rfl, h.getLsbD_eq 31 rfl]

theorem SameButGuard.headOf_eq (h : SameButGuard a b) :
    headOf a = (headOf b).reguard (headOf a).pg (headOf a).pn := by
  simp only [headOf, Head.reguard, h.getLsbD_eq 2 rfl, h.extractLsb'_eq 20 4 rfl, h.extractLsb'_eq 24 6 rfl]

end

theorem fnOf_lt (w : Word) : fnOf w < 16 := (w.extractLsb' 11 4).isLt

/-- What `decodeWords` answers for a row of a table: the row, or ILLOP where the table has none (R67). -/
def rowOrIllop (o : Option Instr) : Except DecodeError Instr :=
  match o with
  | some i => .ok i
  | none => .error .illop

theorem rowOrIllop_map_wf {o p : Option Instr} (h : o.map Instr.wf = p.map Instr.wf) :
    (rowOrIllop o).map Instr.wf = (rowOrIllop p).map Instr.wf := by
  cases o <;> cases p <;> simp_all [rowOrIllop, Except.map]

/-- With another guard a word decodes to an instruction that is as well formed, or fails in the same way. -/
theorem decodeWords_map_wf {a b : Word} (h : SameButGuard a b) (w1 w2 w3 : Word) :
    (decodeWords a w1 w2 w3).map Instr.wf = (decodeWords b w1 w2 w3).map Instr.wf := by
  unfold decodeWords
  rw [h.headOf_eq]
  simp only [h.lenCode_eq, h.majOf_eq, h.fnOf_eq, h.bOf_eq]
  have hfn := fnOf_lt b
  split
  case isTrue => rfl
  case isFalse =>
    split
    case h_1 hf _ | h_2 hf _ => exact rowOrIllop_map_wf (instrA_reguard_wf hf hfn ⟨headOf b, _, _, _, _⟩ _ _)
    case h_3 | h_4 => exact rowOrIllop_map_wf (instrC_reguard_wf _ _ ⟨headOf b, _, _, _, _, _, _⟩ _ _)
    case h_5 => exact rowOrIllop_map_wf (instrK_reguard_wf _ _ ⟨headOf b, _, _, _, _⟩ _ _)
    case h_6 => exact rowOrIllop_map_wf (instrM_reguard_wf _ _ ⟨headOf b, _, _, _, _, _, _, _, _, _, _⟩ _ _)
    case h_7 => rfl

/-! ### The words that the bytes hold -/

theorem wordOf_bytes (w : Word) :
    wordOf (w.extractLsb' 0 8) (w.extractLsb' 8 8) (w.extractLsb' 16 8) (w.extractLsb' 24 8) = w := by
  unfold wordOf
  iterate 3 rw [BitVec.extractLsb'_append_extractLsb'_eq_extractLsb' (by decide)]
  exact BitVec.extractLsb'_eq_self

theorem wordAt_cons_zero (a : Word) (ws : List Word) : wordAt ((a :: ws).flatMap wordBytes) 0 = a := wordOf_bytes a

theorem wordAt_cons_succ (a : Word) (ws : List Word) (k : Nat) :
    wordAt ((a :: ws).flatMap wordBytes) (k + 1) = wordAt (ws.flatMap wordBytes) k := rfl

theorem decodeWords_of_decode {bs rest : List Byte} {i : Instr} (h : decode bs = .ok (i, rest)) :
    decodeWords (wordAt bs 0) (wordAt bs 1) (wordAt bs 2) (wordAt bs 3) = .ok i := by
  unfold decode at h
  split at h
  case isTrue => cases h
  split at h
  case h_1 => cases h
  split at h
  case isTrue => cases h
  split at h
  case h_1 e => cases h; exact e
  case h_2 => cases h

theorem decodeWords_of_decode_cons {a : Word} {ws : List Word} {rest : List Byte} {i : Instr}
    (h : decode ((a :: ws).flatMap wordBytes) = .ok (i, rest)) :
    decodeWords a (wordAt (ws.flatMap wordBytes) 0) (wordAt (ws.flatMap wordBytes) 1) (wordAt (ws.flatMap wordBytes) 2) =
      .ok i := by
  simpa only [wordAt_cons_zero, wordAt_cons_succ] using decodeWords_of_decode h

theorem wf_eq_of_sameButGuard {a b : Word} {ws : List Word} {r q : List Byte} {i j : Instr} (h : SameButGuard a b)
    (ha : decode ((a :: ws).flatMap wordBytes) = .ok (i, r)) (hb : decode ((b :: ws).flatMap wordBytes) = .ok (j, q)) :
    i.wf = j.wf := by
  have e := decodeWords_map_wf h (wordAt (ws.flatMap wordBytes) 0) (wordAt (ws.flatMap wordBytes) 1)
    (wordAt (ws.flatMap wordBytes) 2)
  rw [decodeWords_of_decode_cons ha, decodeWords_of_decode_cons hb] at e
  exact Except.ok.inj e

end Sys2Proof

namespace Sys2Proof.Claims

open Sys2Proof Sys2Proof.Machine

/-! ### The threads that take part -/

@[simp] theorem pred_zero (t : Thread) : t.pred 0 = true := rfl

theorem participates_iff {s : State} {w : WaveId} {l : Nat} (hr : (s.thread (w.thread l)).resume = false) (h : Head) :
    s.participates h w l = true ↔
      ((s.thread (w.thread l)).pred h.pg.toNat = true ∧ h.pn = false) ∨
        ((s.thread (w.thread l)).pred h.pg.toNat = false ∧ h.pn = true) := by
  simp only [State.participates, hr, Bool.false_and, Bool.not_false, Bool.and_true]
  cases (s.thread (w.thread l)).pred h.pg.toNat <;> cases h.pn <;> decide

theorem participates_of_not_p0 (s : State) {h : Head} (hpg : h.pg = 0) (hpn : h.pn = true) (w : WaveId) (l : Nat) :
    s.participates h w l = false := by
  simp [State.participates, hpg, hpn]

theorem mem_site_lanes (s : State) (i : Instr) (r : Run) (w : WaveId) (ms : List Nat) (l : Nat) :
    l ∈ (s.site i r w ms).lanes ↔ l ∈ ms ∧ s.participates i.head w l = true := List.mem_filter

theorem site_lanes_of_not_p0 (s : State) {i : Instr} (r : Run) (w : WaveId) (ms : List Nat) (hpg : i.head.pg = 0)
    (hpn : i.head.pn = true) : (s.site i r w ms).lanes = [] :=
  List.filter_eq_nil_iff.mpr fun l _ => by simp [participates_of_not_p0 s hpg hpn w l]

/-- Settles O53: the lanes are the members whose guard passes, and the checks of a word look at no bit of its guard. -/
theorem guardSelects : Obligations.GuardSelects := by
  unfold Obligations.GuardSelects
  refine ⟨fun s i r w ms l hr => ?_, pred_zero, fun s i r w ms hpg hpn => ?_, fun i j a b ws ha hb h => ?_⟩
  · rw [mem_site_lanes, participates_iff hr]
  · exact site_lanes_of_not_p0 s r w ms hpg hpn
  · exact wf_eq_of_sameButGuard h ha hb

end Sys2Proof.Claims
end

section
/-! Phase arithmetic of the barrier objects (spec/09_copy_barriers.md R301) and the numbering of the cores (spec/01_machine.md R16). -/

namespace Sys2Proof.Claims

open Sys2Proof Sys2Proof.Machine

/-! ### Phases passed -/

/-- The model counts the phases from `t` to `p` in the naturals, adding 2¹⁶ before it subtracts; this is R301's P − t mod 2¹⁶. -/
theorem phase_distance_eq_emod (p t : Nat) :
    (((p + 65536 - t % 65536) % 65536 : Nat) : Int) = ((p : Int) - t) % 65536 := by
  omega

theorem phasePassed_iff_emod (p t : Nat) :
    phasePassed p t = true ↔ 1 ≤ ((p : Int) - t) % 65536 ∧ ((p : Int) - t) % 65536 ≤ 32767 := by
  rw [← phase_distance_eq_emod, phasePassed, decide_eq_true_iff]
  norm_cast

theorem phasePassed_iff_exists (p t : Nat) :
    phasePassed p t = true ↔ ∃ d : Nat, 1 ≤ d ∧ d ≤ 32767 ∧ ((p : Int) - t) % 65536 = d := by
  rw [phasePassed_iff_emod]
  constructor
  · rintro ⟨hlo, hhi⟩
    exact ⟨(((p : Int) - t) % 65536).toNat, by omega, by omega, by omega⟩
  · rintro ⟨d, hlo, hhi, hd⟩
    omega

/-- `age` phases after `t`, across a wrap of the phase count too, the residue of `age` alone decides. -/
theorem phasePassed_add_mod_iff (t age : Nat) :
    phasePassed ((t + age) % 65536) t = true ↔ 1 ≤ age % 65536 ∧ age % 65536 ≤ 32767 := by
  have hd : (((t + age) % 65536 : Nat) - (t : Int)) % 65536 = (age % 65536 : Nat) := by omega
  rw [phasePassed_iff_emod, hd]
  norm_cast

theorem phasePassed_of_older {age : Nat} (t : Nat) (hold : 32767 < age) (hage : age < 65536) :
    phasePassed ((t + age) % 65536) t = false := by
  rw [Bool.eq_false_iff, Ne, phasePassed_add_mod_iff, Nat.mod_eq_of_lt hage]
  exact fun h => absurd h.2 (Nat.not_le.mpr hold)

theorem phasesPass : PhasesPass :=
  ⟨fun p t _ _ => phasePassed_iff_exists p t, fun t _ _ hold hage => phasePassed_of_older t hold hage⟩

/-! ### Numbers of cores -/

theorem quadOf_eq_quad_of_position {c : Nat} (d q : Nat) (hc : c < 4) : quadOf (d * 32 + q * 4 + c) = d * 8 + q := by
  unfold quadOf
  omega

theorem dieOf_eq_die_of_position {q c : Nat} (d : Nat) (hq : q < 8) (hc : c < 4) : dieOf (d * 32 + q * 4 + c) = d := by
  unfold dieOf
  omega

theorem coreNumbers : CoreNumbers := by
  intro d q c hd hq hc n
  have hquad : quadOf n % 8 = q := by
    rw [quadOf_eq_quad_of_position d q hc]
    omega
  have hdie : dieOf n = d := dieOf_eq_die_of_position d hq hc
  exact ⟨by omega, hquad, rfl, hdie, rfl⟩

/-- Settles O59: `phasePassed` decides R301's residue, and a core's number has its die, quad and position as mixed-radix digits. -/
theorem phasesAndNumbers : Obligations.PhasesAndNumbers := by
  unfold Obligations.PhasesAndNumbers
  exact ⟨phasesPass, coreNumbers⟩

end Sys2Proof.Claims
end
